-- ==== Sys2Proof/Word.lean ====
section
/-! DEFINITION. The word types of the K4 and their plainest arithmetic (R3, R31). -/

namespace Sys2Proof

/-- A byte, the unit of every memory. -/
abbrev Byte := BitVec 8

/-- A 64-bit register, pointer or memory word. -/
abbrev W64 := BitVec 64

/-- A 32-bit word. -/
abbrev W32 := BitVec 32

/-- A mask of the 32 lanes of a gang: bit l names lane l (R83). -/
abbrev Mask := BitVec 32

/-- The lane numbers of a gang, in increasing order (R13). -/
def laneNumbers : List Nat :=
  [0, 1, 2, 3, 4, 5, 6, 7, 8, 9, 10, 11, 12, 13, 14, 15, 16, 17, 18, 19, 20, 21, 22, 23, 24, 25, 26, 27, 28, 29,
    30, 31]

/-- The value an empty or absent source supplies when a dead register is read (R51). -/
def poisonWord : W64 := BitVec.allOnes 64

end Sys2Proof
end

