-- ==== Sys2Proof/Syntax.lean ====
section
/-! DEFINITION. The syntax: one constructor per row of the opcode table (R60), instructions first, then the steps that are no instruction, and last the rows without arguments. -/

namespace Sys2Proof

/-- One constructor per row of the opcode table. An instruction's arguments are its encoded fields, from the high bits down,
at the widths R57 gives. A step that is no instruction (a part of the device, the firmware, the host or another device acting)
carries as arguments the choices the manual leaves to whoever performs it. -/
inductive Instr where
  /-- IADD (R92). Adds the sub-elements of a and b, wrapping to the element width. -/
  | iadd (d : BitVec 7) (a : BitVec 7) (b : BitVec 7)
  /-- ISUB (R92). Subtracts the sub-elements of b from a, wrapping. -/
  | isub (d : BitVec 7) (a : BitVec 7) (b : BitVec 7)
  /-- IADDS (R92). Adds the sub-elements with saturation. -/
  | iadds (d : BitVec 7) (a : BitVec 7) (b : BitVec 7)
  /-- ISUBS (R92). Subtracts the sub-elements with saturation. -/
  | isubs (d : BitVec 7) (a : BitVec 7) (b : BitVec 7)
  /-- IMUL (R92). Multiplies the sub-elements and keeps the low w bits. -/
  | imul (d : BitVec 7) (a : BitVec 7) (b : BitVec 7)
  /-- IMULH (R92). Multiplies the sub-elements and keeps the high half of the exact product. -/
  | imulh (d : BitVec 7) (a : BitVec 7) (b : BitVec 7)
  /-- IMAC (R92). Adds the product of a and b into d, wrapping. -/
  | imac (d : BitVec 7) (a : BitVec 7) (b : BitVec 7)
  /-- IDIV (R93). Divides the sub-elements, rounding toward zero, with defined results for division by zero. -/
  | idiv (d : BitVec 7) (a : BitVec 7) (b : BitVec 7)
  /-- IREM (R93). Gives the remainder, which carries the sign of the dividend. -/
  | irem (d : BitVec 7) (a : BitVec 7) (b : BitVec 7)
  /-- IMIN (R92). Gives the lesser of each pair of sub-elements. -/
  | imin (d : BitVec 7) (a : BitVec 7) (b : BitVec 7)
  /-- IMAX (R92). Gives the greater of each pair of sub-elements. -/
  | imax (d : BitVec 7) (a : BitVec 7) (b : BitVec 7)
  /-- IABS (R92). Gives the absolute value of each sub-element, wrapping. -/
  | iabs (d : BitVec 7) (a : BitVec 7)
  /-- INEG (R92). Negates each sub-element, wrapping. -/
  | ineg (d : BitVec 7) (a : BitVec 7)
  /-- AND (R97). Bitwise AND of the 64-bit registers a and b. -/
  | and (d : BitVec 7) (a : BitVec 7) (b : BitVec 7)
  /-- OR (R97). Bitwise OR of a and b. -/
  | or (d : BitVec 7) (a : BitVec 7) (b : BitVec 7)
  /-- XOR (R97). Bitwise XOR of a and b. -/
  | xor (d : BitVec 7) (a : BitVec 7) (b : BitVec 7)
  /-- ANDN (R97). Computes a AND NOT b. -/
  | andn (d : BitVec 7) (a : BitVec 7) (b : BitVec 7)
  /-- NOT (R97). Bitwise NOT of a. -/
  | not (d : BitVec 7) (a : BitVec 7)
  /-- SHL (R95). Shifts each sub-element left by the amount in b. -/
  | shl (d : BitVec 7) (a : BitVec 7) (b : BitVec 7)
  /-- SHR (R95). Shifts each sub-element right logically by the amount in b. -/
  | shr (d : BitVec 7) (a : BitVec 7) (b : BitVec 7)
  /-- SAR (R95). Shifts each sub-element right arithmetically by the amount in b. -/
  | sar (d : BitVec 7) (a : BitVec 7) (b : BitVec 7)
  /-- ROTL (R95). Rotates each sub-element left by the amount in b. -/
  | rotl (d : BitVec 7) (a : BitVec 7) (b : BitVec 7)
  /-- BFX (R98). Extracts a bit field and zero- or sign-extends it. -/
  | bfx (d : BitVec 7) (a : BitVec 7) (b : BitVec 7) (x : BitVec 2)
  /-- BFI (R98). Inserts a bit field of a into d. -/
  | bfi (d : BitVec 7) (a : BitVec 7) (b : BitVec 7)
  /-- POPC (R96). Counts the one bits of each sub-element. -/
  | popc (d : BitVec 7) (a : BitVec 7)
  /-- CLZ (R96). Counts the leading zero bits of each sub-element. -/
  | clz (d : BitVec 7) (a : BitVec 7)
  /-- CTZ (R96). Counts the trailing zero bits of each sub-element. -/
  | ctz (d : BitVec 7) (a : BitVec 7)
  /-- BREV (R96). Reverses the bits of each sub-element. -/
  | brev (d : BitVec 7) (a : BitVec 7)
  /-- BYTEP (R99). Permutes the bytes of a under selectors in b. -/
  | bytep (d : BitVec 7) (a : BitVec 7) (b : BitVec 7)
  /-- SEL (R100). Selects a or b in each lane under predicate p0 to p3. -/
  | sel (d : BitVec 7) (a : BitVec 7) (b : BitVec 7) (x : BitVec 2)
  /-- MOV (R97). Copies a to d. -/
  | mov (d : BitVec 7) (a : BitVec 7)
  /-- LEA (R101). Forms an object pointer from a base and a scaled offset. -/
  | lea (d : BitVec 7) (a : BitVec 7) (b : BitVec 7) (x : BitVec 2)
  /-- ICMP (R104). Compares integer sub-elements of two registers into a predicate. -/
  | icmp (d : BitVec 5) (a : BitVec 7) (b : BitVec 7) (c : BitVec 2)
  /-- IADDI (R94). Adds a sign-extended immediate to d. -/
  | iaddi (d : BitVec 7) (im : BitVec 16)
  /-- MOVI (R102). Writes a sign-extended 16-bit immediate to d. -/
  | movi (d : BitVec 7) (im : BitVec 16)
  /-- MOVK0 (R102). Replaces bits 15:0 of d with the immediate. -/
  | movk0 (d : BitVec 7) (im : BitVec 16)
  /-- MOVK1 (R102). Replaces bits 31:16 of d with the immediate. -/
  | movk1 (d : BitVec 7) (im : BitVec 16)
  /-- MOVK2 (R102). Replaces bits 47:32 of d with the immediate. -/
  | movk2 (d : BitVec 7) (im : BitVec 16)
  /-- MOVK3 (R102). Replaces bits 63:48 of d with the immediate. -/
  | movk3 (d : BitVec 7) (im : BitVec 16)
  /-- ICMPI (R104). Compares integer sub-elements with a 7-bit immediate into a predicate. -/
  | icmpi (d : BitVec 5) (a : BitVec 7) (im : BitVec 7) (c : BitVec 2)
  /-- ANDI (R97). ANDs d with a zero-extended immediate. -/
  | andi (d : BitVec 7) (im : BitVec 16)
  /-- ORI (R97). ORs d with a zero-extended immediate. -/
  | ori (d : BitVec 7) (im : BitVec 16)
  /-- XORI (R97). XORs d with a zero-extended immediate. -/
  | xori (d : BitVec 7) (im : BitVec 16)
  /-- SHLI (R95). Shifts each sub-element left by an immediate. -/
  | shli (d : BitVec 7) (a : BitVec 7) (im : BitVec 6)
  /-- SHRI (R95). Shifts each sub-element right logically by an immediate. -/
  | shri (d : BitVec 7) (a : BitVec 7) (im : BitVec 6)
  /-- SARI (R95). Shifts each sub-element right arithmetically by an immediate. -/
  | sari (d : BitVec 7) (a : BitVec 7) (im : BitVec 6)
  /-- IMULI (R94). Multiplies d by a sign-extended immediate. -/
  | imuli (d : BitVec 7) (im : BitVec 16)
  /-- DOT4 (R103). Adds two four-byte dot products into the 32-bit halves of d. -/
  | dot4 (d : BitVec 7) (a : BitVec 7) (b : BitVec 7) (x : BitVec 2)
  /-- PLOP (R105). Computes any function of three predicates through a truth table. -/
  | plop (d : BitVec 5) (a : BitVec 5) (b : BitVec 5) (t : BitVec 8)
  /-- P2V (R106). Writes a predicate, or all predicates, into a register. -/
  | p2v (d : BitVec 7) (a : BitVec 7) (x : BitVec 2)
  /-- V2P (R107). Writes predicates from a register. -/
  | v2p (d : BitVec 7) (a : BitVec 7) (x : BitVec 2)
  /-- VOTE (R108). Combines a predicate across the active lanes of the strand. -/
  | vote (d : BitVec 7) (a : BitVec 7) (x : BitVec 2)
  /-- SETMODE (R109). Writes MODE bits 15:0 from the immediate for the whole gang. -/
  | setmode (im : BitVec 16)
  /-- SETMODEH (R109). Writes MODE bits 31:16 from the immediate. -/
  | setmodeh (im : BitVec 4)
  /-- GETMODE (R110). Writes MODE into d. -/
  | getmode (d : BitVec 7)
  /-- XL (R130). Gathers elements of a across lanes by indices in b. -/
  | xl (d : BitVec 7) (a : BitVec 7) (b : BitVec 7) (x : BitVec 2)
  /-- XLI (R131). Moves elements across lanes by a constant delta or mode. -/
  | xli (d : BitVec 7) (a : BitVec 7) (e : BitVec 7) (m : BitVec 2)
  /-- QX (R132). Exchanges whole registers within each quad. -/
  | qx (d : BitVec 7) (a : BitVec 7) (h : BitVec 2) (g : BitVec 2) (f : BitVec 2) (e : BitVec 2)
  /-- GRED (R133). Reduces a across the active lanes of the strand. -/
  | gred (d : BitVec 7) (a : BitVec 7) (o : BitVec 3)
  /-- GSCAN (R134). Forms inclusive or exclusive prefix results across active lanes. -/
  | gscan (d : BitVec 7) (a : BitVec 7) (e : BitVec 1) (o : BitVec 3)
  /-- PACK (R135). Combines two registers by concatenation or zip. -/
  | pack (d : BitVec 7) (a : BitVec 7) (b : BitVec 7) (x : BitVec 2)
  /-- UNPACK (R136). Splits one register into halves, evens or odds. -/
  | unpack (d : BitVec 7) (a : BitVec 7) (x : BitVec 2)
  /-- SPECR (R111). Reads a special value selected by imm9. -/
  | specr (d : BitVec 7) (k : BitVec 9)
  /-- FADD (R116). Adds float sub-elements with one rounding. -/
  | fadd (d : BitVec 7) (a : BitVec 7) (b : BitVec 7)
  /-- FSUB (R116). Subtracts float sub-elements with one rounding. -/
  | fsub (d : BitVec 7) (a : BitVec 7) (b : BitVec 7)
  /-- FMUL (R116). Multiplies float sub-elements with one rounding. -/
  | fmul (d : BitVec 7) (a : BitVec 7) (b : BitVec 7)
  /-- FMA (R116). Computes a times b plus d with one rounding. -/
  | fma (d : BitVec 7) (a : BitVec 7) (b : BitVec 7)
  /-- FMS (R116). Computes a times b minus d with one rounding. -/
  | fms (d : BitVec 7) (a : BitVec 7) (b : BitVec 7)
  /-- FNMA (R116). Computes d minus a times b with one rounding. -/
  | fnma (d : BitVec 7) (a : BitVec 7) (b : BitVec 7)
  /-- FMIN (R118). Gives the smaller of two float sub-elements. -/
  | fmin (d : BitVec 7) (a : BitVec 7) (b : BitVec 7)
  /-- FMAX (R118). Gives the larger of two float sub-elements. -/
  | fmax (d : BitVec 7) (a : BitVec 7) (b : BitVec 7)
  /-- FABS (R119). Clears the sign bit of each float sub-element. -/
  | fabs (d : BitVec 7) (a : BitVec 7)
  /-- FNEG (R119). Inverts the sign bit of each float sub-element. -/
  | fneg (d : BitVec 7) (a : BitVec 7)
  /-- FCMP (R120). Compares float sub-elements into a predicate. -/
  | fcmp (d : BitVec 5) (a : BitVec 7) (b : BitVec 7) (c : BitVec 2)
  /-- FCLASS (R121). Writes the class code of each float sub-element. -/
  | fclass (d : BitVec 7) (a : BitVec 7)
  /-- FDIV (R116). Divides float sub-elements with one rounding. -/
  | fdiv (d : BitVec 7) (a : BitVec 7) (b : BitVec 7)
  /-- FSQRT (R116). Takes the square root of each float sub-element. -/
  | fsqrt (d : BitVec 7) (a : BitVec 7)
  /-- FSCALE (R116). Scales float sub-elements by a power of two. -/
  | fscale (d : BitVec 7) (a : BitVec 7) (b : BitVec 7)
  /-- RND (R122). Rounds each float sub-element to an integral value. -/
  | rnd (d : BitVec 7) (a : BitVec 7)
  /-- FRCP (R123). Starts a reciprocal approximation, marking d empty. -/
  | frcp (d : BitVec 7) (a : BitVec 7)
  /-- FRSQ (R123). Starts a reciprocal square-root approximation. -/
  | frsq (d : BitVec 7) (a : BitVec 7)
  /-- FEXP2 (R123). Starts a base-2 exponential approximation. -/
  | fexp2 (d : BitVec 7) (a : BitVec 7)
  /-- FLOG2 (R123). Starts a base-2 logarithm approximation. -/
  | flog2 (d : BitVec 7) (a : BitVec 7)
  /-- FSINPI (R123). Starts a sin(pi x) approximation. -/
  | fsinpi (d : BitVec 7) (a : BitVec 7)
  /-- FCOSPI (R123). Starts a cos(pi x) approximation. -/
  | fcospi (d : BitVec 7) (a : BitVec 7)
  /-- FTANH (R123). Starts a tanh approximation. -/
  | ftanh (d : BitVec 7) (a : BitVec 7)
  /-- CVT (R125). Converts sub-elements between element types with one rounding. -/
  | cvt (d : BitVec 7) (a : BitVec 7) (k : BitVec 1) (t : BitVec 4) (sf : BitVec 4)
  /-- CVTG (R127). Quantises float sub-elements into a grouped narrow integer type. -/
  | cvtg (d : BitVec 7) (a : BitVec 7) (b : BitVec 7) (x : BitVec 2)
  /-- CBENC (R128). Encodes float sub-elements into CB4 indices. -/
  | cbenc (d : BitVec 7) (a : BitVec 7) (x : BitVec 2)
  /-- CBDEC (R128). Decodes CB4 indices into float sub-elements. -/
  | cbdec (d : BitVec 7) (a : BitVec 7) (x : BitVec 2)
  /-- BRA (R139). Branches each lane on a predicate, possibly splitting the strand. -/
  | bra (p : BitVec 5) (n : BitVec 1) (o : BitVec 17)
  /-- JMPI (R140). Jumps each lane to a per-lane target. -/
  | jmpi (a : BitVec 7) (x : BitVec 2)
  /-- CALL (R143). Calls directly, writing the link word and sliding the window. -/
  | call (sf : BitVec 6) (o : BitVec 17)
  /-- CALLI (R144). Calls through a target that is the same in every lane. -/
  | calli (a : BitVec 7) (sf : BitVec 6)
  /-- MEET (R146). Writes a lane mask into a convergence register. -/
  | meet (d : BitVec 7) (a : BitVec 7) (sf : BitVec 1)
  /-- JOIN (R147). Waits until every lane named in a convergence register has arrived or exited. -/
  | join (d : BitVec 7)
  /-- YIELDW (R151). Parks the strand until a counter falls to a threshold, then continues at a target. -/
  | yieldw (k : BitVec 2) (t : BitVec 4) (o : BitVec 17)
  /-- EXIT (R152). Ends the active lanes and may make successor tasks runnable. -/
  | exit (a : BitVec 7) (n : BitVec 3)
  /-- GIVE (R154). Returns register rows from the gang to the block's pool. -/
  | give (im : BitVec 16)
  /-- CLAIM (R154). Takes register rows from the pool, parking while they are lacking. -/
  | claim (im : BitVec 16)
  /-- TRAP (R155). Raises a software trap TRAPSW. -/
  | trap (c : BitVec 9)
  /-- RTT (R156). Returns from a trap handler to TPC or the slot after it. -/
  | rtt (x : BitVec 2)
  /-- TMASK (R157). Writes the trap mask bit. -/
  | tmask (im : BitVec 1)
  /-- LD (R231). Loads from an object at a pointer, marking the destination empty. -/
  | ld (d : BitVec 7) (a : BitVec 7) (sf : BitVec 3) (r : BitVec 3) (w : BitVec 3)
  /-- ST (R231). Stores to an object at a pointer. -/
  | st (d : BitVec 7) (a : BitVec 7) (sf : BitVec 3) (r : BitVec 3) (w : BitVec 3)
  /-- LDS (R232). Loads from scratchpad at an offset. -/
  | lds (d : BitVec 7) (a : BitVec 7) (sf : BitVec 3) (r : BitVec 3) (w : BitVec 3)
  /-- STS (R232). Stores to scratchpad at an offset. -/
  | sts (d : BitVec 7) (a : BitVec 7) (sf : BitVec 3) (r : BitVec 3) (w : BitVec 3)
  /-- LDC (R233). Loads one element of an object at coordinates. -/
  | ldc (d : BitVec 7) (a : BitVec 7) (b : BitVec 7) (x : BitVec 2)
  /-- STC (R233). Stores one element of an object at coordinates. -/
  | stc (d : BitVec 7) (a : BitVec 7) (b : BitVec 7) (x : BitVec 2)
  /-- PREF (R234). Asks for a line tile to be brought into a cache level. -/
  | pref (a : BitVec 7) (sf : BitVec 3)
  /-- ACP (R236). Starts an asynchronous per-lane copy from memory to memory. -/
  | acp (d : BitVec 7) (a : BitVec 7) (b : BitVec 7)
  /-- ACPS (R237). Starts an asynchronous copy between an object and scratchpad. -/
  | acps (d : BitVec 7) (a : BitVec 7) (b : BitVec 7) (x : BitVec 2)
  /-- ACPT (R238). Starts an asynchronous two-dimensional box copy for the gang. -/
  | acpt (d : BitVec 7) (a : BitVec 7) (b : BitVec 7) (x : BitVec 2)
  /-- ATOM (R241). Performs an atomic operation on an object variable and returns the old value. -/
  | atom (d : BitVec 7) (a : BitVec 7) (p : BitVec 4) (sf : BitVec 3) (r : BitVec 2)
  /-- ATOMS (R241). Performs an atomic operation on a scratchpad variable. -/
  | atoms (d : BitVec 7) (a : BitVec 7) (p : BitVec 4) (sf : BitVec 3) (r : BitVec 2)
  /-- RED (R242). Performs an atomic operation without return. -/
  | red (d : BitVec 7) (a : BitVec 7) (p : BitVec 4) (sf : BitVec 3) (r : BitVec 2)
  /-- REDC (R243). Performs a counted reduction contributing to a line tile's counter. -/
  | redc (d : BitVec 7) (a : BitVec 7) (p : BitVec 4) (sf : BitVec 3) (r : BitVec 2)
  /-- BAR (R247). Arrives at a block barrier and parks until the phase completes. -/
  | bar (d : BitVec 7) (a : BitVec 7) (c : BitVec 1) (p : BitVec 2) (b : BitVec 5)
  /-- BARA (R248). Arrives at a block barrier without parking and returns the phase bit. -/
  | bara (d : BitVec 7) (a : BitVec 7) (c : BitVec 1) (p : BitVec 2) (b : BitVec 5)
  /-- BARW (R248). Parks until a barrier's phase differs from the token. -/
  | barw (d : BitVec 7) (a : BitVec 7) (p : BitVec 2) (b : BitVec 5)
  /-- CBAR (R249). Arrives at a cluster barrier held by the Rennet. -/
  | cbar (d : BitVec 7) (a : BitVec 7) (c : BitVec 1) (p : BitVec 2) (b : BitVec 5)
  /-- FENCE (R250). Holds the strand until earlier accesses are performed at a scope. -/
  | fence (p : BitVec 2) (k : BitVec 2) (sf : BitVec 3)
  /-- FLUSH (R251). Writes dirty line tiles of a range or of the context back. -/
  | flush (a : BitVec 7) (b : BitVec 7) (x : BitVec 2)
  /-- CKPT (R252). Records a recovery point by writing a commit record and CKPn. -/
  | ckpt (a : BitVec 7) (sf : BitVec 2)
  /-- WAITC (R333). Waits until an outstanding-operation counter falls to a threshold. -/
  | waitc (k : BitVec 2) (t : BitVec 4)
  /-- CNTRD (R334). Reads an outstanding-operation counter. -/
  | cntrd (d : BitVec 7) (x : BitVec 2)
  /-- BBC (R339). Counts one execution of a basic block in a memory array. -/
  | bbc (d : BitVec 7) (im : BitVec 16)
  /-- REDSET (R336). Declares or removes a contribution counter at a Rennet. -/
  | redset (d : BitVec 7) (a : BitVec 7) (b : BitVec 7) (x : BitVec 2)
  /-- REDPOLL (R337). Reads a contribution counter's status. -/
  | redpoll (d : BitVec 7) (a : BitVec 7) (x : BitVec 2)
  /-- PERFRD (R342). Reads a performance counter. -/
  | perfrd (d : BitVec 7) (n : BitVec 9)
  /-- SAMPLE (R344). Arms or disarms sampling of one memory request. -/
  | sample (a : BitVec 7) (k : BitVec 1)
  /-- MMA (R169). Multiplies and accumulates one tile or pair through the matrix queue. -/
  | mma (c : BitVec 4) (a : BitVec 5) (b : BitVec 5) (f : BitVec 7)
  /-- MMAS (R169). Multiplies a 2:4-sparse A and accumulates one tile. -/
  | mmas (c : BitVec 4) (a : BitVec 5) (b : BitVec 5) (f : BitVec 7) (sf : BitVec 2)
  /-- MMAQ (R172). Computes 128 output columns with four gangs after a rendezvous. -/
  | mmaq (c : BitVec 4) (a : BitVec 5) (b : BitVec 5) (f : BitVec 7) (sf : BitVec 2)
  /-- MMAQS (R172). Sparse four-gang matrix multiply after a rendezvous. -/
  | mmaqs (c : BitVec 4) (a : BitVec 5) (b : BitVec 5) (f : BitVec 7) (sf : BitVec 2)
  /-- ACCZ (R176). Sets a group of tiles to +0. -/
  | accz (c : BitVec 4) (sf : BitVec 2)
  /-- ACCRD (R177). Reads a converted chunk of each active tile row into registers. -/
  | accrd (c : BitVec 4) (a : BitVec 5) (sf : BitVec 2)
  /-- ACCWR (R177). Writes a chunk of each active tile row from registers. -/
  | accwr (c : BitVec 4) (a : BitVec 5) (sf : BitVec 2)
  /-- ACCSC (R178). Multiplies each tile row by a per-lane factor. -/
  | accsc (c : BitVec 4) (a : BitVec 5) (sf : BitVec 2)
  /-- ACCMAX (R179). Reduces each tile row to its maximum. -/
  | accmax (c : BitVec 4) (a : BitVec 5) (sf : BitVec 2)
  /-- ACCSUM (R179). Reduces each tile row to its exact sum, rounded once. -/
  | accsum (c : BitVec 4) (a : BitVec 5) (sf : BitVec 2)
  /-- ACCST (R180). Writes a tile to scratchpad on path M. -/
  | accst (c : BitVec 4) (f : BitVec 7) (sf : BitVec 2)
  /-- ACCLD (R180). Reads a tile from scratchpad on path M. -/
  | accld (c : BitVec 4) (f : BitVec 7) (sf : BitVec 2)
  /-- MTR (R182). Transposes blocks of elements held in four registers across lanes. -/
  | mtr (d : BitVec 7) (a : BitVec 7)
  /-- SAFEPT (R316). Marks a safe point and parks the strand when a transfer is pending. -/
  | safept (n : BitVec 12)
  /-- XFER (R317). Requests a transfer to another version of the kernel. -/
  | xfer (a : BitVec 7) (sf : BitVec 1) (v : BitVec 8)
  /-- XFERQ (R319). Reads the transfer status. -/
  | xferq (d : BitVec 7)
  /-- MCALL (R320). Runs a control-store microprogram with four bound parameters. -/
  | mcall (d : BitVec 7) (k : BitVec 8)
  /-- MSTORE (R321). Writes a control-store slot from a checked image in memory. -/
  | mstore (d : BitVec 7) (a : BitVec 7) (k : BitVec 8)
  /-- DTLOAD (R322). Fills a Harp table context from a table object. -/
  | dtload (d : BitVec 7) (a : BitVec 7) (c : BitVec 2)
  /-- DTSET (R323). Sets the lanes' transducer states in a context. -/
  | dtset (a : BitVec 7) (o : BitVec 2) (c : BitVec 2)
  /-- DADD (R324). Transduces the digit pairs of a and b into d. -/
  | dadd (d : BitVec 7) (a : BitVec 7) (b : BitVec 7) (c : BitVec 2)
  /-- DSUB (R324). Transduces a with the digit complement of b into d. -/
  | dsub (d : BitVec 7) (a : BitVec 7) (b : BitVec 7) (c : BitVec 2)
  /-- DCMP (R324). Transduces digit pairs and writes less, equal and greater predicates. -/
  | dcmp (d : BitVec 7) (a : BitVec 7) (b : BitVec 7) (c : BitVec 2)
  /-- DCONV (R324). Transduces the digits of a with a unary table into d. -/
  | dconv (d : BitVec 7) (a : BitVec 7) (c : BitVec 2)
  /-- DSTATE (R326). Reads the lanes' transducer states and classes. -/
  | dstate (d : BitVec 7) (c : BitVec 2)
  /-- CBLOAD (R327). Loads one or both codebooks from memory. -/
  | cbload (a : BitVec 7) (x : BitVec 2)
  /-- CBRD (R328). Reads four codebook entries. -/
  | cbrd (d : BitVec 7) (q : BitVec 2) (b : BitVec 1)
  /-- SYSRD (R63). Reads a system register in a system context. -/
  | sysrd (d : BitVec 7) (n : BitVec 9)
  /-- SYSWR (R63). Writes a system register in a system context. -/
  | syswr (a : BitVec 7) (n : BitVec 9)
  /-- TLOG (R64). Appends a TRAPSW record to the per-context trap log. -/
  | tlog (a : BitVec 7)
  /-- RUN_ARBITRATION (R23). Between runs the quarter chooses an eligible gang and then one of its strands to start a run. -/
  | runArbitration (q : Nat)
  /-- GANG_PROMOTION (R23). A gang that stays eligible through 48 choices of its quarter is promoted. -/
  | gangPromotion (g : Nat)
  /-- INSTRUCTION_FETCH_FILL (R20). A missed packet arrives and the waiting strand competes for issue again. -/
  | instructionFetchFill (g lane : Nat)
  /-- RESULT_RETURN (R77). A long-latency result (load, atomic, special function, Harp, ACCRD) fills its destination. -/
  | resultReturn (g ticket : Nat)
  /-- REPLAY_SLOT_FREE (R195). A freed replay-buffer slot takes the next lane access waiting to be held. -/
  | replaySlotFree (cu : Nat)
  /-- FAULT_ACK (R372). The fault service maps the sub-tile and acknowledges, and only the held lanes are reissued. -/
  | faultAck (ctx obj tile sub frame : Nat) (fill : List Byte)
  /-- FAULT_DECLINE (R372). The fault service declines to map, and the held lanes raise NOTRES as class H. -/
  | faultDecline (ctx obj tile sub : Nat)
  /-- COPY_PIECE (R235). A piece of an asynchronous copy of up to 256 bytes is performed. -/
  | copyPiece (g ticket k : Nat)
  /-- MATRIX_EXECUTE (R162). The matrix array executes the next accepted matrix-queue instruction. -/
  | matrixExecute (q : Nat)
  /-- REMOTE_WRITE_ACK (R230). A target device acknowledges a remote write. -/
  | remoteWriteAck (g ticket : Nat)
  /-- COUNTER_REPORT (R332). A counted operation's completion is reported in issue order and lowers its counter, waking waiting strands. -/
  | counterReport (g k : Nat)
  /-- REDC_CONTRIBUTION (R335). A REDC lane contribution is performed at the Rennet and counted. -/
  | redcContribution (g ticket lane : Nat)
  /-- CLAIM_GRANT (R154). A waiting CLAIM is served in order once the pool and mirror rows allow. -/
  | claimGrant (blk q : Nat)
  /-- CKPT_COMMIT (R252). The commit record's recovery-scope release completes and CKPn is written. -/
  | ckptCommit (g : Nat)
  /-- TRANSFER_SEQUENCE (R302). Once every strand is parked for transfer the sequencer checks, drains, fetches, relocates and writes state into the target version. -/
  | transferSequence (g : Nat)
  /-- TRANSFER_RELEASE_TIMEOUT (R306). A strand parked at a SAFEPT for 4,096 cycles without the sequencer starting is released. -/
  | transferReleaseTimeout (g lane : Nat)
  /-- GANG_END (R153). A gang whose lanes have all exited frees its slot and rows once its counters reach zero. -/
  | gangEnd (g : Nat)
  /-- TASK_DISPATCH (R290). A task moves into a free shadow slot, reserving rows, tiles and scratchpad and starting its input prefetch. -/
  | taskDispatch (cu q slot : Nat)
  /-- TASK_RUNNABLE (R290). A task is marked runnable when every input range is written. -/
  | taskRunnable (cu slot : Nat)
  /-- BLOCK_PLACE (R25). The work distributor places a block or cluster on a CU once it fits. -/
  | blockPlace (grid index : Nat) (cus q0s slots : List Nat)
  /-- GRID_END (R278). A grid ends when all its blocks and tasks have ended, performing a release and the completion write. -/
  | gridEnd (grid : Nat)
  /-- GANG_KILL (R374). A class-K fault or a fault after issue kills one gang and marks its barriers abandoned. -/
  | gangKill (g code detail : Nat)
  /-- SLICE_END (R293). Before a context's slice ends the scheduler sends stop requests. -/
  | sliceEnd (ctx : Nat)
  /-- STOP_REQUEST (R378). A pre-emption stop ends every gang's run and saves the context image. -/
  | stopRequest (ctx : Nat)
  /-- EMERGENCY_COPY_OUT (R379). The firmware copies a CU's share from its emergency area into the mapped save area. -/
  | emergencyCopyOut (cu : Nat)
  /-- DIE_RESET (R383). A compute die is reset and affected contexts recover from their recovery points. -/
  | dieReset (die : Nat)
  /-- DEVICE_RESET (R394). A device or function-level reset restarts bring-up from stage 1. -/
  | deviceReset (err : Nat)
  /-- RSTKEY (R386). A host write of the key to RSTKEY resets the device. -/
  | rstkey (v : W64)
  /-- REGISTER_WRITE (R386). A host write to a BAR0 register with no behaviour of its own, such as NODE or MBXBASE. -/
  | registerWrite (off : Nat) (v : W64)
  /-- WAKE_WORD (R275). A writer stores a queue's wake word, making its new packets pending or halting it with RINGERR. -/
  | wakeWord (q : Nat) (v : W64)
  /-- QUEUE_NOP (R278). A NOP packet completes at once. -/
  | queueNop (q : Nat)
  /-- RESUME (R278). A RESUME packet checks an image and hands it to the front ends. -/
  | resume (q : Nat)
  /-- SIGNAL (R278). A SIGNAL packet sets or adds to a signal word with a release. -/
  | signal (q : Nat)
  /-- WAITV (R278). A WAITV packet reads a signal word and waits until its condition holds. -/
  | waitv (q : Nat)
  /-- WAITV_RECHECK (R278). A waiting WAITV reads its signal word again after a write to it. -/
  | waitvRecheck (q : Nat)
  /-- WAITV_POLL_TIMER (R278). A WAITV on system memory re-reads its signal word at least every 100 µs. -/
  | waitvPollTimer (q : Nat)
  /-- WRITEV (R278). A WRITEV packet writes a value with a release and optionally a signal. -/
  | writev (q : Nat)
  /-- FLUSHC (R278). A FLUSHC packet writes back dirty line tiles of a range or context, then signals. -/
  | flushc (q : Nat)
  /-- RESYNC (R281). A RESYNC packet writes the 4 KiB device summary. -/
  | resync (q : Nat)
  /-- HANDLER (R280). A handler packet is written to the queue's handler record and removed from the list. -/
  | handler (q : Nat)
  /-- OBJECT_RECORD_WRITE (R184). The object service writes an object record or tile-map entries with the required publication. -/
  | objectRecordWrite (ctx obj : Nat) (record : List W64) (entries : List (Nat × W64))
  /-- OBJECT_RETIRE (R199). The object service retires an object number, shooting down and invalidating its line tiles. -/
  | objectRetire (ctx obj : Nat)
  /-- RIND_DESIGNATE (R214). The object service designates Rind ranges. -/
  | rindDesignate (base size mirror : Nat)
  /-- EXPORT_SET (R388). The export service sets an entry of the BAR2 export table. -/
  | exportSet (slot ctx off len : Nat) (ptr : W64)
  /-- QUEUE_CREATE (R274). The queue service creates and enables a queue descriptor. -/
  | queueCreate (q : Nat) (desc : List W64)
  /-- QUEUE_DESTROY (R274). The queue service destroys a queue. -/
  | queueDestroy (q : Nat)
  /-- QUEUE_RESUME (R279). The queue service resumes a halted queue. -/
  | queueResume (q : Nat)
  /-- CONTEXT_CREATE (R282). The context service creates a context with its attributes. -/
  | contextCreate (ctx slot : Nat) (attrs : List W64)
  /-- CONTEXT_DESTROY (R395). The context service destroys a context and clears its recovery-directory entry. -/
  | contextDestroy (ctx : Nat)
  /-- CONTEXT_RECOVER (R395). Context service function 17 recreates a held context with its recovery points. -/
  | contextRecover (ctx : Nat) (attrs : List W64)
  /-- XFER_REQUEST (R405). Context service function 16 marks a transfer pending in every eligible gang of a context. -/
  | xferRequest (ctx : Nat) (vtab : W64) (target : Nat)
  /-- CURVE_SET (R291). The curve service writes or refuses a die's curve table. -/
  | curveSet (die : Nat) (table : List Byte)
  /-- BUDGET_SET (R340). The budget service sets the limit of a budget. -/
  | budgetSet (n lim : Nat)
  /-- FAULT_MODE_SET (R373). The fault service sets a die's fault-service mode. -/
  | faultModeSet (die : Nat) (normal : Bool)
  /-- DEBUG_STOP (R380). The debug service stops a gang, block or context between instructions. -/
  | debugStop (scope id : Nat)
  /-- DEBUG_RESUME (R380). The debug service resumes DEBUG and HALT lanes. -/
  | debugResume (g : Nat)
  /-- DEBUG_SINGLE_STEP (R380). The debug service lets one strand issue one instruction and stops again. -/
  | debugSingleStep (g lane : Nat)
  /-- DEBUG_WRITE (R380). The debugger writes a D-marked item of a stopped gang. -/
  | debugWrite (g item idx lane : Nat) (v : W64)
  /-- BREAKPOINT_SET (R380). The debug service sets one of a context's four breakpoints. -/
  | breakpointSet (ctx n : Nat) (bp : Option (Nat × Nat))
  /-- DIE_RESET_REQUEST (R382). System software asks the reset service to reset a compute die. -/
  | dieResetRequest (die : Nat)
  /-- SAMPLER_SET (R343). The sampling service sets a context's PC sampler period. -/
  | samplerSet (ctx period : Nat)
  /-- FABRIC_TOPOLOGY (R391). The fabric service takes the topology and builds the routing table. -/
  | fabricTopology (routes : List (Nat × List Nat)) (err : Bool)
  /-- ATTESTATION_QUOTE (R393). The attestation service returns a signed quote over a nonce. -/
  | attestationQuote (nonce : List Byte)
  /-- HOST_FLAG_WRITE (R219). A host write through BAR0 to the flag window. -/
  | hostFlagWrite (off : Nat) (bytes : List Byte)
  /-- HOST_BAR2_READ (R388). A host or peer read through BAR2 of an exported object. -/
  | hostBar2Read (off len : Nat)
  /-- HOST_BAR2_WRITE (R220). A host or peer write through BAR2 is applied at the home base die. -/
  | hostBar2Write (off : Nat) (bytes : List Byte)
  /-- PCIE_ATOMICOP (R387). An incoming PCI Express AtomicOp to BAR2 is performed at the home Rennet. -/
  | pcieAtomicop (off op width : Nat) (v c : W64)
  /-- REMOTE_REQUEST (R264). A transaction from another device arrives and is performed once, duplicates discarded. -/
  | remoteRequest (port tag ctx kind : Nat) (ptr v c : W64)
  /-- FLIT_RESEND (R390). A CRC failure makes the receiver ask for a resend from the first bad flit. -/
  | flitResend (port : Nat)
  /-- PORT_DOWN (R391). A failed port is marked down and its flits are re-sent on remaining routes. -/
  | portDown (port : Nat)
  /-- REMOTE_TIMEOUT (R391). A remote access to an unreachable destination not completed within 2 ms kills the gang. -/
  | remoteTimeout (g : Nat)
  /-- SHOOTDOWN (R190). A shootdown removes cached records and entries, advances the epoch, and completes when old in-flight counters reach zero. -/
  | shootdown (ctx obj : Nat)
  /-- RELOCATION (R195). The relocation engine marks a tile moving, shoots down and copies its present sub-tiles. -/
  | relocation (ctx obj : Nat) (tile : Option Nat) (target : Nat)
  /-- RELOCATION_PUBLISH (R195). The relocation engine publishes the new entry and the held accesses are reissued. -/
  | relocationPublish (ctx obj : Nat) (tile : Option Nat)
  /-- RECORD_REBUILD (R198). Firmware rebuilds a record or entry with an uncorrectable error from its mirror and releases held accesses. -/
  | recordRebuild (ctx obj : Nat) (tile : Option Nat) (intact : Bool)
  /-- SCRUB (R221). The scrub engine reads a sector, rewriting or poisoning it. -/
  | scrub (sector : Nat) (uncorrectable : Bool)
  /-- BUDGET_PERIOD (R340). A 4,096-cycle budget period ends and withheld requests may be served. -/
  | budgetPeriod (die : Nat)
  /-- DROOP_EVENT (R292). A droop event is counted and may make its vat ineligible. -/
  | droopEvent (die vat : Nat)
  /-- VAT_THERMAL (R292). A vat crosses 95 °C or 88 °C and leaves or returns to the eligible set. -/
  | vatThermal (die vat : Nat) (celsius : Int)
  /-- PC_SAMPLE (R343). Every sampler period each quarter writes a PC sample record for one gang. -/
  | pcSample (ctx q : Nat)
  /-- UNASSIGNED_OPCODE (R61). An instruction word whose opcode R60 leaves unassigned is issued and raises ILLOP precisely. -/
  | unassignedOpcode (w : BitVec 32)
  /-- PKTBAD (R277). A ring packet whose type is not 0 to 6, or that has bad flags, reserved bits or alignment, halts its queue with PKTBAD. -/
  | pktbad (q : Nat)
  /-- WRITE_ACCEPTED (R216). A store or write-back is performed at its point of coherence or accepted by its base die with its CRC, releasing a strand held at a FENCE, FLUSH or RCV release. -/
  | writeAccepted (g n : Nat)
  /-- QUEUE_CORE_RESTART (R381). A queue core with an uncorrectable error is reloaded, checked and restarted. -/
  | queueCoreRestart
  /-- RET (R145). Returns through the link word, sliding the window back. -/
  | ret
  /-- YIELD (R150). Gives up the issue slot for one arbitration. -/
  | yield
  /-- HALT (R158). Stops the active lanes until a debugger resumes them. -/
  | halt
  /-- NOP (R159). Advances the strand and does nothing else. -/
  | nop
  /-- POWER_LOSS (R394). Power loss loses all of HBM, the Rind included. -/
  | powerLoss
  /-- THERMAL_SHUTDOWN (R396). A junction temperature above 110 °C powers the module off. -/
  | thermalShutdown
  /-- FIRMWARE_RESTART (R381). An uncorrectable error in the policy core restarts the whole firmware complex. -/
  | firmwareRestart
  /-- POWER_ON (R394). Power returns to the device, HBM is unpredictable, and bring-up starts at stage 1. -/
  | powerOn
  deriving DecidableEq, Repr

end Sys2Proof
end

