-- ==== Sys2Proof/Machine/State.lean ====
section
/-! DEFINITION. The state of one K4 package as plain data, and its value right after reset. Each field's docstring names the
rule that gives the state. Sparse collections are lists of key and value in one canonical form (Machine/Ops.lean). -/

namespace Sys2Proof.Machine

/-- A sparse map: keys strictly rising, no entry equal to the default that an unlisted key reads as. -/
abbrev SMap (β : Type) := List (Nat × β)

/-- The state of a register (R77). An empty register carries the ticket of the youngest long-latency producer, whose
result alone fills it (R53). -/
inductive RegState where
  | full
  | empty (ticket : Nat)
  | dead
  deriving DecidableEq, Repr

/-- One register of one lane, or one uniform register (R71). -/
structure Reg where
  val : W64
  st : RegState
  deriving DecidableEq, Repr

/-- A register at gang start: 0, full, live (R71). -/
def Reg.zero : Reg := ⟨0, .full⟩

/-- Why a lane is halted (R286). -/
inductive HaltReason where
  | none
  | halt
  | nested
  | debug
  | killed
  deriving DecidableEq, Repr

/-- What a lane's strand waits for (R20, R22). -/
inductive Park where
  /-- Not parked. -/
  | ready
  /-- A source register is empty (R20, R51). -/
  | regWait
  /-- An instruction fetch has missed, or its NOTRES awaits the fault service (R20, R372). -/
  | fetchWait
  /-- An instruction fetch has met NOTRES on a sub-tile in switch-out mode: its block is to be saved (R373). -/
  | fetchOut (obj tile sub : Nat)
  /-- YIELD: left out of the next arbitration in which anything else is eligible (R150). -/
  | yielded
  /-- At a JOIN whose lanes have not all arrived (R147). -/
  | join
  /-- At a CLAIM the pool cannot serve yet (R154). -/
  | claim
  /-- At a YIELDW: counter class, threshold, continuation (R151). -/
  | yieldw (k t : Nat) (cont : W64)
  /-- At a WAITC: counter class and threshold (R333). -/
  | waitc (k t : Nat)
  /-- At a BAR or BARW of a block barrier word: the word, the phase bit it waits to leave, and predicate field d (R247, R248). -/
  | bar (word : Nat) (phase : Bool) (d : Nat)
  /-- At a CBAR of a cluster barrier word (R249). -/
  | cbar (word : Nat) (phase : Bool) (d : Nat)
  /-- Held at a barrier word in whose phase the gang has already arrived, until that phase completes (R244). -/
  | barHold (word : Nat) (phase : Bool) (cluster : Bool)
  /-- At the rendezvous of an MMAQ or MMAQS (R172). -/
  | rendezvous
  /-- At a SAFEPT for a version transfer, since the die clock given (R302, R306). -/
  | safept (since : Nat)
  /-- One half of a compatibility gang waits for the other (R142). -/
  | c16meet
  /-- At an EXIT that names successors, until the gang's counters are zero (R153). -/
  | exitWait
  /-- At an instruction that parks until earlier accesses are performed, or whose one access for the gang is held (R252, R336, R372). -/
  | drain
  /-- At a CKPT whose commit has not completed (R252). -/
  | ckpt
  /-- A class-H trap of its strand waits for its handler's entry, whose tile is moving or whose record is under rebuild: code, detail, TPC
  and TLANES (R195, R370). -/
  | trapped (code detail : Nat) (pc : W64) (tl : Mask)
  deriving DecidableEq, Repr

/-- The special values of a gang, fixed when it starts (R86). -/
structure Special where
  gangId : Nat
  block : List Nat
  cluster : List Nat
  grid : List Nat
  extent : List Nat
  role : Nat
  rank : Nat
  glanes : W64
  blanes : Nat
  deriving DecidableEq, Repr

/-- Where the bytes of a memory access lie once translated (R191, R206, R211). -/
inductive Place where
  /-- A physical address: HBM or the flag window (R211). -/
  | phys (pa : Nat)
  /-- A bus address of host memory, and whether the object is hostord (R200, R220). -/
  | host (ba : Nat) (ord : Bool)
  /-- A byte of a block's scratchpad (R206). -/
  | spad (blk off : Nat)
  /-- A byte of another device (R185). -/
  | remote (ptr : W64)
  /-- A byte that a zero-fill object does not hold (R193). -/
  | zero
  deriving DecidableEq, Repr

/-- What a lane access does (R228, R241, R243). -/
inductive AccessKind where
  | load
  | store
  | atom
  | red
  | redc
  /-- A read of a contribution counter (R337). -/
  | poll
  /-- An access an instruction makes once for its gang (R372): the instruction is taken again. -/
  | once
  deriving DecidableEq, Repr

/-- One lane's access, with every operand it needs (R228, R287). -/
structure Access where
  kind : AccessKind
  lane : Nat
  /-- The pointer, or the scratchpad offset. -/
  ptr : W64
  /-- Signed coordinates, for LDC and STC (R233). -/
  coords : Option (List Int)
  scratch : Bool
  /-- Bytes of the access; 0 while an LDC or STC has not read the element size (R233). -/
  size : Nat
  strong : Bool
  acquire : Bool
  release : Bool
  scope : Nat
  aop : Nat
  /-- MODE at issue: the class of an atomic (R240). -/
  mode : W32
  /-- The data words, or the compare and new values. -/
  v0 : W64
  v1 : W64
  /-- The registers it fills, as keys of the register map, those from 2³² on as numbers of s registers: the value's words in turn, once for
each copy (R229, R302, R376). -/
  dests : List Nat
  ticket : Nat
  iword : W32
  ctl : Byte
  pc : W64
  deriving DecidableEq, Repr

/-- An access of a gang on path G that has issued and is not yet performed (R216, R228, R250, R257). -/
structure Waiting where
  ticket : Nat
  /-- What it does; acc.ticket names its instruction. -/
  acc : Access
  /-- The bytes it writes; for any other access, the places it reads or changes, with byte 0. -/
  bytes : List (Place × Byte)
  /-- The lanes whose later accesses it precedes in program order (R138). -/
  before : Mask
  /-- The upper half of a 16-byte access, performed after the lower (R219, R225). -/
  upper : Bool
  /-- A store performed at scope BLK (level 0) or CLU (level 1) and not yet in memory: what the gangs in that scope load (R259), with
  its place in the order of such stores. -/
  shown : Option (Nat × Nat)
  /-- Its lane is held in a replay buffer: its place in local order, until it is translated again (R266). -/
  held : Bool
  /-- The epoch parity under which it was translated (R184). -/
  epoch : Bool
  /-- Sectors that its instruction writes whole (R221). -/
  clears : List Nat
  deriving DecidableEq, Repr

/-- A lane access held in a replay buffer, or waiting for a free slot in it (R184, R195). -/
structure Held where
  gang : Nat
  acc : Access
  /-- The object and residency tile it waits for. -/
  ctx : Nat
  obj : Nat
  tile : Nat
  sub : Nat
  /-- It waits for a NOTRES answer, and not for a publication (R195, R372). -/
  notres : Bool
  /-- Its strand has gone on past the instruction. -/
  passed : Bool
  /-- It met NOTRES in switch-out mode: its block is to be saved (R373). -/
  out : Bool
  /-- Another lane of its instruction has performed its access (R369). -/
  others : Bool
  /-- Bytes that a higher lane of its instruction stores to: they keep that lane's value (R227). -/
  above : List Place
  deriving DecidableEq, Repr

/-- A result a long-latency instruction still owes to registers (R77). Register numbers are those of the sparse register
map. -/
structure Pending where
  ticket : Nat
  /-- v register writes: key of the register map and value. -/
  vs : List (Nat × W64)
  /-- s register writes. -/
  ss : List (Nat × W64)
  deriving DecidableEq, Repr

/-- A range of bytes that an asynchronous copy has not yet written, for one lane (R235, R239). -/
structure CopyLane where
  lane : Nat
  dst : W64
  dstScratch : Bool
  src : W64
  srcScratch : Bool
  /-- First byte of the range, counted from the pointers; for a box, from its first element in scratchpad order. -/
  pos : Nat
  len : Nat
  deriving DecidableEq, Repr

/-- The box of an ACPT (R238). -/
structure CopyBox where
  ptr : W64
  desc : W64
  org0 : W64
  org1 : W64
  toObject : Bool
  /-- The element size found at issue. -/
  esize : Nat
  deriving DecidableEq, Repr

/-- A copy in flight (R235). -/
structure CopyOp where
  ticket : Nat
  lanes : List CopyLane
  /-- The ranges as it began. -/
  whole : List CopyLane
  box : Option CopyBox
  /-- Pieces wait for these sub-tiles, as object, tile and sub-tile (R235). -/
  held : List (Nat × Nat × Nat)
  /-- A piece met NOTRES on this sub-tile in switch-out mode: its block is to be saved (R373). -/
  out : Option (Nat × Nat × Nat)
  iword : W32
  ctl : Byte
  pc : W64
  deriving DecidableEq, Repr

/-- A counted operation of a gang, in issue order within its class (R332). -/
structure Counted where
  cls : Nat
  ticket : Nat
  done : Bool
  deriving DecidableEq, Repr

/-- Remote lane writes of one instruction not yet acknowledged (R230). -/
structure RemoteWrite where
  ticket : Nat
  accs : List Access
  /-- The lanes whose later accesses they precede in program order (R138). -/
  before : Mask
  deriving DecidableEq, Repr

/-- Contributions of a REDC not yet performed (R243). -/
structure Contribution where
  ticket : Nat
  accs : List Access
  deriving DecidableEq, Repr

/-- A CKPT under way (R252). -/
structure Checkpoint where
  slot : Nat
  obj : Nat
  gen : Nat
  lanes : Mask
  deriving DecidableEq, Repr

/-- A sampled access under way (R344, R345). -/
structure Sampled where
  record : W64
  op : Nat
  lane : Nat
  addr : W64
  pc : W64
  /-- The instruction's ticket. -/
  ticket : Nat
  /-- The die's clock at issue. -/
  since : Nat
  /-- Once performed, or cut short: where it was served, its cycles, and whether a save interrupted it. Its record waits for BUD4. -/
  finished : Option (Nat × Nat × Bool)
  deriving DecidableEq, Repr

/-- The instruction being issued (R20, R50). -/
structure Issue where
  gang : Nat
  /-- The lanes of the issuing strand (R18). -/
  lanes : Mask
  pc : W64
  ctl : Byte
  iword : W32
  deriving DecidableEq, Repr

/-- A gang and everything it holds (R13, R71). -/
structure Gang where
  /-- The block it belongs to, and its place (R14, R292). -/
  block : Nat
  die : Nat
  cu : Nat
  quarter : Nat
  slot : Nat
  ctx : Nat
  grid : Nat
  prio : Nat
  special : Special
  /-- Window registers: key 32·row + lane, rows logical (R71, R74). -/
  v : SMap Reg
  /-- Uniform registers s0–s15 (R71). -/
  sreg : SMap Reg
  /-- Predicates p0–p23 as lane masks (R71). -/
  p : SMap Mask
  mode : W32
  wb : Nat
  lrow : Nat
  nrows : Nat
  wsize : Nat
  cb : SMap W32
  /-- Lane PCs (R83). -/
  pc : SMap W64
  exited : Mask
  halted : Mask
  haltReason : SMap HaltReason
  park : SMap Park
  gstat : W32
  tcause : W32
  tpc : W64
  tlanes : Mask
  tmask : W32
  /-- While a handler runs: the lanes of the trapping strand, the others being parked (R370). -/
  handlerLanes : Mask
  /-- KC0–KC3 (R332). -/
  kc : SMap (BitVec 16)
  /-- Both codebooks: entry i of book c under key 16·c + i (R312). -/
  books : SMap (BitVec 16)
  /-- Harp lane states: key 32·context + lane (R295). -/
  harp : SMap (BitVec 5)
  /-- The spill object (R74, R286). -/
  spill : W64
  vtab : W64
  /-- Compatibility binding: bound registers, least recently written first, and those moved to L1 (R76). -/
  bound : List Nat
  boundOut : List Nat
  pending : List Pending
  accesses : List Waiting
  copies : List CopyOp
  counted : List Counted
  remotes : List RemoteWrite
  contribs : List Contribution
  checkpoint : Option Checkpoint
  /-- Gang performance counters 0–11 (R341). -/
  perf : SMap W64
  /-- The armed memory sample's record pointer (R344). -/
  armed : Option W64
  /-- Sampled accesses whose records are not yet written, oldest first (R344). -/
  sampled : List Sampled
  /-- Lowest lane of the strand that ran last (R23). -/
  lastLane : Option Nat
  /-- Consecutive choices of the quarter through which it stayed eligible (R23). -/
  waited : Nat
  /-- The order in which it was promoted (R23). -/
  promoted : Option Nat
  /-- Block barrier words in whose current phase it has arrived (R244). -/
  arrivedBars : List Nat
  arrivedCbars : List Nat
  killed : Bool
  /-- The MMAQ or MMAQS at which it is parked (R172). -/
  rendezvous : Option Issue
  /-- Stopped by the debug service, and the lane whose strand it was granted a single step (R380). -/
  debugStop : Bool
  stepOne : Option Nat
  /-- A fault carried into a task's first instruction: trap code and range index (R290). -/
  carried : Option (Nat × Nat)
  /-- The PC of the EXIT that ended it, for samples (R343). -/
  exitPc : W64
  /-- The transfer sequencer has started its steps: none of its strands goes on before they end (R302, R306). -/
  sequencing : Bool
  deriving DecidableEq, Repr

/-- A run in progress on a quarter (R20). -/
structure Run where
  gang : Nat
  lanes : Mask
  /-- Instructions issued in it. -/
  count : Nat
  /-- The packet whose control word has been checked (R48). -/
  packet : Option W64
  deriving DecidableEq, Repr

/-- An accepted matrix-queue instruction with its operands, read at issue (R162). -/
structure MatrixOp where
  gang : Nat
  block : Nat
  ticket : Nat
  opcode : Nat
  acc : Nat
  sel : Nat
  /-- The lanes it acts on. -/
  lanes : Mask
  /-- The format word and its parameter words per lane (R164, R166). -/
  fmt : W64
  pa : List W64
  pb : List (List W64)
  /-- Sparsity metadata per row (R171). -/
  sparse : List W32
  /-- The A and B groups, four words per lane, B and its parameters once for each participant (R167, R172); ACC operands use A. -/
  a : List W64
  b : List (List W64)
  /-- The codebooks of A, and of each B (R312). -/
  booksA : SMap (BitVec 16)
  booksB : List (SMap (BitVec 16))
  mode : W32
  /-- The destination registers, as v numbers, and the window base (R177, R179). -/
  dest : Nat
  wb : Nat
  /-- The scratchpad offset of ACCST and ACCLD (R180). -/
  off : Nat
  pc : W64
  /-- After a transfer: where the results for its destination keys go, pair by pair (R78, R302). -/
  moved : Option (List (Nat × Nat))
  deriving DecidableEq, Repr

/-- A Harp table context: the descriptor and the transition entries (R308). -/
structure HarpTable where
  desc : List W64
  trans : SMap (BitVec 16)
  valid : Bool
  deriving DecidableEq, Repr

/-- A resident block (R25). -/
structure Block where
  grid : Nat
  ctx : Nat
  /-- Linear block index in the grid (R16). -/
  index : Nat
  cluster : Nat
  crank : Nat
  die : Nat
  cu : Nat
  q0 : Nat
  /-- Gangs of the block, in gang order; they were started or never will be (R16). -/
  gangs : List Nat
  spb : Nat
  tiles : Nat
  /-- Scratchpad bytes (R204). -/
  spad : SMap Byte
  /-- Poisoned 4-byte scratchpad words (R221). -/
  spadPoison : List Nat
  /-- Barrier words 0–31 (R207). -/
  bars : SMap W32
  /-- Words whose current phase began with a given count, so that an exit does not change it (R244). -/
  given : List Nat
  /-- Pool rows by quarter (R154). -/
  pool : SMap Nat
  /-- Waiting CLAIMs in the order they first issued: quarter, gang, lanes, rows (R154). -/
  claims : List (Nat × Nat × Mask × Nat)
  /-- Accumulator words: key 1024·(16·quarter + tile) + 32·row + column (R161). -/
  acc : SMap W32
  /-- Harp table contexts: key 4·quarter + context (R295). -/
  harp : List (Nat × HarpTable)
  mirrored : Bool
  /-- The block is a task, and its quarter (R28, R289). -/
  task : Bool
  deriving DecidableEq, Repr

/-- A cluster and the barrier words the Rennet of its die holds for it (R249). -/
structure Cluster where
  grid : Nat
  blocks : List Nat
  words : SMap W32
  given : List Nat
  deriving DecidableEq, Repr

/-- A launch block that waits to run (R288, R290). -/
structure Task where
  ptr : W64
  ctx : Nat
  grid : Nat
  vtab : W64
  ver : Nat
  code : W64
  exitPc : W64
  /-- The die it belongs to, from which it never moves; none where an image brought it (R290). -/
  die : Option Nat
  deriving DecidableEq, Repr

/-- A task in a shadow slot (R290). -/
structure Shadow where
  task : Task
  /-- Its launch block's sixteen words, as read when it entered the slot. -/
  words : List W64
  quarter : Nat
  slot : Nat
  /-- Input ranges not yet copied. -/
  inputs : List Nat
  /-- The scratchpad the inputs are written to. -/
  spad : SMap Byte
  /-- The first fault met: trap code and range index. -/
  fault : Option (Nat × Nat)
  deriving DecidableEq, Repr

/-- A started block of a saved image that is not yet placed again (R284, R373). -/
structure SavedBlock where
  index : Nat
  task : Bool
  /-- The image object, and the byte offset of the block record in it. -/
  image : W64
  off : Nat
  /-- Saved in switch-out mode: the object, tile and sub-tile it waits for. -/
  wait : Option (Nat × Nat × Nat)
  /-- The sub-tile was declined: what waited for it is to raise NOTRES once the block is restored. -/
  declined : Option (Nat × Nat × Nat)
  deriving DecidableEq, Repr

/-- What an image does not hold of a saved gang: the barrier words in whose phase it has arrived, its park condition at a barrier, and
the lanes that its handler runs in (R244, R245, R370). -/
structure SaveNote where
  task : Bool
  index : Nat
  gang : Nat
  bars : List Nat
  cbars : List Nat
  park : Option Park
  handler : Mask
  deriving DecidableEq, Repr

/-- What an image does not hold of a saved block: its barrier words whose phase began with a given count, its cluster's barrier words,
and those of them that began so (R244, R249). -/
structure GivenNote where
  task : Bool
  index : Nat
  given : List Nat
  words : SMap W32
  cgiven : List Nat
  deriving DecidableEq, Repr

/-- What a RESUME is owed when its grid ends: its queue, ASYNC, and completion signal and value (R278). -/
structure Completion where
  queue : Nat
  async : Bool
  signal : W64
  value : W64
  deriving DecidableEq, Repr

/-- A grid: all blocks of one launch (R13). -/
structure Grid where
  ctx : Nat
  image : W64
  vtab : W64
  ver : Nat
  /-- Header words 0–31 of its image (R283). -/
  header : List W64
  completions : List Completion
  rank : Nat
  /-- The die mask of its share (R313). -/
  dies : Nat
  /-- Linear block indices not yet placed. -/
  unstarted : List Nat
  saved : List SavedBlock
  notes : List SaveNote
  givens : List GivenNote
  /-- Blocks and tasks live now. -/
  live : Nat
  tasks : Nat
  coop : Bool
  /-- It lies in its context's saved image and runs again once that image is resumed (R378). -/
  away : Bool
  /-- Order of hand-over (R383). -/
  order : Nat
  /-- The tile of blocks that each die's front end has taken, plus one (R291). -/
  fronts : SMap Nat
  deriving DecidableEq, Repr

/-- A context (R282). -/
structure Context where
  slot : Nat
  system : Bool
  prio : Nat
  slice : Nat
  drain : Nat
  overrun : Nat
  saveArea : W64
  tlog : W64
  /-- Physical address of object record 0, and the table's length (R184). -/
  otBase : Nat
  otLen : Nat
  taskSpill : W64
  taskSpilled : List Task
  /-- The control-store object (R307). -/
  cstore : W64
  spill : W64
  /-- CKP0–CKP3 (R85). -/
  ckp : SMap W64
  /-- Sequence number of the next trap-log record (R294). -/
  seq : Nat
  breakpoints : SMap (Nat × Nat)
  sampler : Nat
  /-- Its image is saved, and not resumed since (R281). -/
  savedImage : Bool
  /-- Held until its save area is repaired: the code of the fault that its save met there (R379). -/
  held : Option Nat
  deriving DecidableEq, Repr

/-- A contribution counter, held by a Rennet (R335). -/
structure ContribCounter where
  /-- The line tile it belongs to, by the physical address of its first byte. -/
  line : Nat
  declared : Nat
  landed : Nat
  flag : W64
  ctx : Nat
  ready : Bool
  excess : Bool
  /-- It lies in the overflow area and not in SRAM (R213). -/
  overflow : Bool
  deriving DecidableEq, Repr

/-- One quarter's scheduling state (R20, R23, R162). -/
structure Quarter where
  run : Option Run
  /-- Round-robin position of each priority: the slot at which its next choice begins (R23). -/
  rr : SMap Nat
  /-- Promotions given so far. -/
  promotions : Nat
  matrix : List MatrixOp
  /-- Round robin of the PC sampler (R343). -/
  samplePos : Nat
  deriving DecidableEq, Repr

/-- One CU (R205, R290). -/
structure Cu where
  /-- L1 (R204, R208, R262): the number of byte writes performed when it was last emptied, and under each address the number as of
  which it holds a byte or has returned it. It may return any value that a byte has had since. -/
  l1Since : Nat
  l1 : SMap Nat
  /-- Object-record cache and tile translation cache: context, object, record, and context, object, tile, entry (R184). -/
  orc : List (Nat × Nat × List W64)
  ttc : List (Nat × Nat × Nat × W64)
  /-- What the parity of its translation epoch differs by from that of State (R184). -/
  epoch : Bool
  /-- The replay buffer's 64 lane accesses (R184). -/
  replay : List Held
  /-- Lane accesses that wait for a free replay slot (R195). -/
  replayWait : List Held
  tasks : List Task
  shadows : List Shadow
  /-- Cached copies of control-store slots: context, slot, 16 words (R320). -/
  micro : List (Nat × Nat × List W64)
  /-- BBC combining cache: place and increments not yet performed, with gang (R339). -/
  bbc : List (Nat × W64 × Nat)
  /-- Its emergency area: the context, and the bytes still to be copied out, each with its place in the save area (R379). -/
  emergency : Option (Nat × List (W64 × List Byte))
  deriving DecidableEq, Repr

/-- One vat (R292). -/
structure Vat where
  eligible : Bool
  celsius : Int
  droops : Nat
  /-- Periods it stays ineligible because of droop. -/
  droopBan : Nat
  deriving DecidableEq, Repr

/-- One compute die (R11). -/
structure Die where
  clock : Nat
  /-- SYSSCR0–7 (R63). -/
  scr : SMap W64
  /-- Dirty bytes of its L2, by physical address (R209). -/
  l2 : List (Nat × Byte)
  /-- Addresses that have been written through it since its last reset (R218). -/
  wrote : List Nat
  /-- 8-byte variables its Rennet holds in SRAM and in the overflow area, most recently used first (R204, R213). -/
  rennet : List (Nat × W64)
  overflow : List (Nat × W64)
  /-- The die translation cache: records and entries (R184). -/
  dtcRec : List (Nat × Nat × List W64)
  dtcEnt : List (Nat × Nat × Nat × W64)
  normal : Bool
  resets : Nat
  curve : List Byte
  vats : List Vat
  counters : List ContribCounter
  /-- Ready flags that its Rennet has still to write with 1, their tiles moving or not resident: context and pointer (R335). -/
  flags : List (Nat × W64)
  /-- Die performance counters 32–41 (R341). -/
  perf : SMap W64
  /-- The cycle of the budget period (R330), the requests of each budget class served in it and those beyond the limit that wait for a
  later one, those withheld in the last, and the limits in force (R340). -/
  periodCycle : BitVec 12
  spent : SMap Nat
  waiting : SMap Nat
  withheld : SMap Nat
  limits : SMap Nat
  deriving DecidableEq, Repr

/-- A command queue (R274). -/
structure Queue where
  ring : W64
  /-- 0 disabled, 1 running, 2 waiting, 3 halted. -/
  state : Nat
  prio : Nat
  k : Nat
  rd : W32
  ctx : Nat
  hasSib : Bool
  sib : Nat
  hrec : W64
  lost : W32
  /-- Handler list: packets of eight words (R279). -/
  handlers : List (List W64)
  delivered : W64
  /-- A RESUME without ASYNC waits for this grid (R278). -/
  waitGrid : Option Nat
  deriving DecidableEq, Repr

/-- A port of the Zheum link (R390). -/
structure Port where
  up : Bool
  resends : Nat
  /-- Tags in its deduplication window (R264). -/
  tags : List Nat
  deriving DecidableEq, Repr

/-- A residency tile, or a record with its tile map, that the relocation engine has copied and not yet published (R195). -/
structure Move where
  ctx : Nat
  obj : Nat
  /-- None where the whole record moves with its tile map. -/
  tile : Option Nat
  /-- The new frame, or the new address of the tile map. -/
  target : Nat
  deriving DecidableEq, Repr

/-- A record or tile-map entry under rebuild (R198). -/
structure Rebuild where
  ctx : Nat
  obj : Nat
  tile : Option Nat
  /-- The physical address of the record or entry. -/
  addr : Nat
  deriving DecidableEq, Repr

/-- The recovery of a context after a die reset that has still to choose its image: the die, the context, and its lost grids (R383). -/
structure Recovery where
  die : Nat
  ctx : Nat
  grids : List (Nat × Grid)
  deriving DecidableEq, Repr

/-- An entry of the BAR2 export table: offset, length, object pointer, and the context whose object table it names (R388). -/
structure Export where
  off : Nat
  len : Nat
  ptr : W64
  ctx : Nat
  deriving DecidableEq, Repr

/-- An error that arises in a memory of the device (R81, R215, R221, R279). The spec says what each then does, and not when one arises. -/
inductive Upset where
  /-- An uncorrectable error in a 4-byte scratchpad word of a block. -/
  | scratch (blk word : Nat)
  /-- An uncorrectable error in one copy of a register of a gang. -/
  | register (gang : Nat)
  /-- An uncorrectable error in a queue's descriptor. -/
  | descriptor (q : Nat)
  /-- A byte of HBM that ECC takes for sound. -/
  | silent (k : Nat) (b : Byte)
  deriving DecidableEq, Repr

/-- The next thing the world does: a step that is no instruction, or the next instruction of a quarter's run. The order in
which the parts of the device, its firmware and its host act is free, and this plain list carries it. -/
inductive Turn where
  | event (i : Instr)
  | issue (q : Nat)
  /-- The next packet of the quarter's run is not in its fetch buffer (R20). -/
  | miss (q : Nat)
  /-- An error arises in a memory. -/
  | upset (u : Upset)
  deriving DecidableEq, Repr

/-- Why the machine stops. -/
inductive Fault where
  /-- Raised by no instruction of a started gang: an instruction was handed to exec while no strand issues it (R20). Safe:
  nothing is claimed of a machine that issues without a strand. -/
  | noIssuingStrand
  deriving DecidableEq, Repr

/-- Why a step has no meaning. -/
inductive Refusal where
  /-- Raised by exec's arms alone, for an instruction without a meaning yet. Safe. -/
  | notModelled (mnemonic : String)
  deriving DecidableEq, Repr

/-- One K4 package, the host memory it reaches, and the order in which its parts act next. -/
structure State where
  /-- The free counter: what Config.freeWord is applied to next. The model's own field. -/
  tick : Nat
  /-- What happens next, in order; when it is empty the device goes on by itself. The model's own field. -/
  agenda : List Turn
  /-- The quarter that issues next. The model's own field. -/
  focus : Option Nat
  /-- The instruction being issued. The model's own field. -/
  cur : Option Issue
  /-- Names of gangs, blocks and tickets not yet used. The model's own field. -/
  fresh : Nat
  gangs : List (Nat × Gang)
  blocks : List (Nat × Block)
  clusters : List (Nat × Cluster)
  grids : List (Nat × Grid)
  contexts : List (Nat × Context)
  queues : List (Nat × Queue)
  quarters : List (Nat × Quarter)
  cus : List (Nat × Cu)
  dies : List (Nat × Die)
  /-- HBM, the Cave's write-back view, and the flag window, by physical address (R211). -/
  mem : List Host.Cell
  /-- Host memory by bus address (R200). -/
  hostMem : List Host.Cell
  /-- The number of writes performed so far. The model's own field. -/
  writes : Nat
  /-- Under each address, the values that writes have replaced, newest first, each with the number of the write that replaced it: what
  an L1 may still hold (R208, R262). The model's own field. -/
  replaced : SMap (List (Nat × Byte))
  /-- Poisoned 128-byte sectors (R221). -/
  poison : List Nat
  /-- 8-byte words of poisoned sectors that firmware has written since: tile-map entries that no longer carry the error (R198). -/
  mended : List Nat
  /-- Rind ranges in order of their bases: base, size, mirror partner (R214). -/
  rind : List (Nat × Nat × Option Nat)
  /-- The CRC area's words (R204, R215): under each 256-byte block of a Rind range, its CRC-32C; a block not listed has that of blank
  bytes. -/
  crcs : SMap W32
  /-- The recovery directory's held entries: context, slot, CKP0–3 (R395). -/
  heldContexts : List (Nat × Nat × SMap W64)
  /-- The parity of the translation epoch, which every shootdown advances on every CU (R184, R190). -/
  epoch : Bool
  /-- Changes to an object's record or entries whose shootdown has not yet been performed: context and object (R190). -/
  publishing : List (Nat × Nat)
  moves : List Move
  rebuilds : List Rebuild
  /-- Recoveries that wait for an image to become resident (R383). -/
  recoveries : List Recovery
  /-- What has arrived from the host or another device and waits for a publication, oldest first (R195, R196). -/
  outside : List Instr
  /-- BAR2 export table by entry (R388). -/
  exports : List (Nat × Export)
  /-- STATUS stage, boot error and rdy; NODE, MBXBASE, MBXWR, MBXRD, RSTKEY (R386). -/
  stage : Nat
  bootErr : Nat
  rdy : Bool
  node : W64
  mbxBase : W64
  mbxWr : W64
  mbxRd : W64
  rstkey : W64
  powered : Bool
  /-- The lim fields of BUD0–BUD7, which each die takes up at its next period (R340). -/
  budgets : SMap Nat
  /-- RESYNC's eight error counts (R281). -/
  errors : SMap W64
  resyncSeq : W64
  routes : List (Nat × List Nat)
  ports : List (Nat × Port)
  /-- Where the round robin of each priority begins: the queue after the one served last (R276). -/
  queueRr : SMap Nat
  /-- Where the round robin of each context priority begins: the context after the one whose slice ended last (R293). -/
  ctxRr : SMap Nat
  gridOrder : Nat
  /-- Words of the last answers to the host: BAR2 reads and service results, newest first (R388, R392). -/
  answers : List (List Byte)
  deriving DecidableEq, Repr

/-- A quarter after a reset of its die (R23). -/
def Quarter.reset : Quarter := ⟨none, [], 0, [], 0⟩

/-- A CU after a reset of its die (R184, R204). -/
def Cu.reset : Cu := ⟨0, [], [], [], false, [], [], [], [], [], [], none⟩

/-- The reset curve table: the Hilbert order of an 8 × 8 tile from (0, 0) to (7, 0), as steps dx in [3:0] and dy in
[7:4] (R291). -/
def hilbertTable : List Byte :=
  [0x00, 0x10, 0x01, 0xF0, 0x01, 0x01, 0x10, 0x0F, 0x10, 0x01, 0x10, 0x0F, 0x0F, 0xF0, 0x0F, 0x10,
    0x10, 0x01, 0x10, 0x0F, 0x10, 0x10, 0x01, 0xF0, 0x01, 0x10, 0x01, 0xF0, 0xF0, 0x0F, 0xF0, 0x01,
    0x01, 0x01, 0x10, 0x0F, 0x10, 0x10, 0x01, 0xF0, 0x01, 0x10, 0x01, 0xF0, 0xF0, 0x0F, 0xF0, 0x01,
    0xF0, 0xF0, 0x0F, 0x10, 0x0F, 0x0F, 0xF0, 0x01, 0xF0, 0x0F, 0xF0, 0x01, 0x01, 0x10, 0x01, 0xF0]

/-- A vat after reset: eligible (R273). -/
def Vat.reset : Vat := ⟨true, 0, 0, 0⟩

/-- A die after its reset (R63, R218, R340, R373): its fault service starts in switch-out mode (R367). -/
def Die.reset : Die :=
  ⟨0, [], [], [], [], [], [], [], false, 0, hilbertTable, List.replicate 12 Vat.reset, [], [], [], 0, [], [], [], [(3, 64), (4, 512)]⟩

/-- A quarter, CU or die that nothing has changed since reset stands as after its reset and is not listed. -/
def State.reset : State where
  tick := 0
  agenda := []
  focus := none
  cur := none
  fresh := 0
  gangs := []
  blocks := []
  clusters := []
  grids := []
  contexts := []
  queues := []
  quarters := []
  cus := []
  dies := []
  mem := []
  hostMem := []
  writes := 0
  replaced := []
  poison := []
  mended := []
  rind := []
  crcs := []
  heldContexts := []
  epoch := false
  publishing := []
  moves := []
  rebuilds := []
  recoveries := []
  outside := []
  exports := []
  stage := 0
  bootErr := 0
  rdy := false
  node := 511
  mbxBase := 0
  mbxWr := 0
  mbxRd := 0
  rstkey := 0
  powered := true
  budgets := [(3, 64), (4, 512)]
  errors := []
  resyncSeq := 0
  routes := []
  ports := []
  queueRr := []
  ctxRr := []
  gridOrder := 0
  answers := []

end Sys2Proof.Machine
end

