-- ==== Sys2Proof/Machine/Maps.lean ====
section
/-! DEFINITION. Sparse maps and memories: lists of key and value in one canonical form (keys strictly rising, no entry
equal to what an unlisted key reads as), with one lookup and one update each. -/

namespace Sys2Proof.Machine

/-- The outcome of one step of the machine. -/
abbrev Out := Host.Outcome State Fault Refusal

/-- The first entry under a key. -/
def find {β : Type} : List (Nat × β) → Nat → Option β
  | [], _ => none
  | (j, v) :: rest, k => if j = k then some v else find rest k

/-- Enters a value under a key, in key order, in place of the entry there. -/
def put {β : Type} : List (Nat × β) → Nat → β → List (Nat × β)
  | [], k, v => [(k, v)]
  | (j, u) :: rest, k, v =>
    if k < j then (k, v) :: (j, u) :: rest else if k = j then (k, v) :: rest else (j, u) :: put rest k v

/-- Removes every entry under a key. -/
def drop {β : Type} : List (Nat × β) → Nat → List (Nat × β)
  | [], _ => []
  | (j, u) :: rest, k => if j = k then drop rest k else (j, u) :: drop rest k

/-- Reads a sparse map whose unlisted keys read as `z`. -/
def getAt {β : Type} (z : β) (m : SMap β) (k : Nat) : β := (find m k).getD z

/-- Writes a sparse map whose unlisted keys read as `z`; writing `z` removes the entry. -/
def setAt {β : Type} [DecidableEq β] (z : β) (m : SMap β) (k : Nat) (v : β) : SMap β :=
  if v = z then drop m k else put m k v

/-- The keys of a list rise strictly. -/
def rising {β : Type} : List (Nat × β) → Bool
  | [] => true
  | (k, _) :: rest => (match rest with | [] => true | (j, _) :: _ => decide (k < j)) && rising rest

/-- The canonical form of a sparse map. -/
def canonical {β : Type} [DecidableEq β] (z : β) (m : SMap β) : Bool := rising m && m.all fun e => decide (e.2 ≠ z)

/-- What a byte of memory that nothing has written reads as: 0. DESIGN CHOICE: the manual gives no contents (R9). -/
def blankByte : Byte := 0

/-- The canonical form of a memory. -/
def Memory.wf (m : List Host.Cell) : Bool := canonical blankByte m

/-- One byte of a memory. -/
def readByte (m : List Host.Cell) (a : Nat) : Byte := getAt blankByte m a

/-- A memory with one byte written. -/
def writeByte (m : List Host.Cell) (a : Nat) (b : Byte) : List Host.Cell := setAt blankByte m a b

/-- `n` bytes from an address on. -/
def readBytes (m : List Host.Cell) : Nat → Nat → List Byte
  | _, 0 => []
  | a, n + 1 => readByte m a :: readBytes m (a + 1) n

/-- Bytes written from an address on. -/
def writeBytes (m : List Host.Cell) : Nat → List Byte → List Host.Cell
  | _, [] => m
  | a, b :: bs => writeBytes (writeByte m a b) (a + 1) bs

/-- The number little-endian bytes hold (R3). -/
def bytesNat : List Byte → Nat
  | [] => 0
  | b :: bs => b.toNat + 256 * bytesNat bs

/-- The `n` low bytes of a number, lowest address first (R3). -/
def natBytes : Nat → Nat → List Byte
  | 0, _ => []
  | n + 1, v => BitVec.ofNat 8 v :: natBytes n (v / 256)

/-- The word that eight bytes hold (R3). -/
def bytesW64 (bs : List Byte) : W64 := BitVec.ofNat 64 (bytesNat bs)

/-- The bytes of a 64-bit word (R3). -/
def w64Bytes (w : W64) : List Byte := natBytes 8 w.toNat

/-- 64-bit words one after another. -/
def wordsBytes (ws : List W64) : List Byte := ws.flatMap w64Bytes

/-- Bytes in groups of `n`, up to `k` groups. -/
def groupsOf (n : Nat) : Nat → List Byte → List (List Byte)
  | 0, _ => []
  | k + 1, bs => bs.take n :: groupsOf n k (bs.drop n)

/-- The `k` 64-bit words that bytes hold. -/
def bytesWords (k : Nat) (bs : List Byte) : List W64 := (groupsOf 8 k bs).map bytesW64

/-- Maps the entry under a key, where there is one. -/
def change {β : Type} (m : List (Nat × β)) (k : Nat) (f : β → β) : List (Nat × β) :=
  match find m k with
  | some v => put m k (f v)
  | none => m

/-- The lowest number from `k` on, within `fuel` numbers, that satisfies a test. -/
def firstFrom (p : Nat → Bool) : Nat → Nat → Option Nat
  | 0, _ => none
  | fuel + 1, k => if p k then some k else firstFrom p fuel (k + 1)

end Sys2Proof.Machine
end

