-- ==== Sys2Proof/Machine/Bits.lean ====
section
/-! DEFINITION. Bit fields, sub-elements of a register (R31) and lane masks, and the helpers of R65 over them. -/

namespace Sys2Proof.Machine

/-- Bits [hi:lo] of a number. -/
def bits (v hi lo : Nat) : Nat := v / 2 ^ lo % 2 ^ (hi - lo + 1)

/-- Bits [hi:lo] of a 64-bit word as a number. -/
def fld (w : W64) (hi lo : Nat) : Nat := bits w.toNat hi lo

/-- A number as a 64-bit word, modulo 2 to the 64th. -/
def word (n : Nat) : W64 := BitVec.ofNat 64 n

/-- A number as a 32-bit word. -/
def word32 (n : Nat) : W32 := BitVec.ofNat 32 n

/-- 1 for true, 0 for false. -/
def bitNat (b : Bool) : Nat := if b then 1 else 0

/-- An n-bit number read as two's complement. -/
def signedOf (n x : Nat) : Int := if x < 2 ^ (n - 1) then (x : Int) else (x : Int) - (2 ^ n : Nat)

/-- An integer reduced modulo 2 to the n-th: Wrap of R65. -/
def wrapTo (n : Nat) (x : Int) : Nat := (x % ((2 ^ n : Nat) : Int)).toNat

/-- SignExt of an n-bit number to 64 bits (R65). -/
def signExt (n x : Nat) : W64 := word (wrapTo 64 (signedOf n (x % 2 ^ n)))

/-- Sub-element i of width w of a 64-bit value (R31, R65). -/
def sub (v : W64) (i w : Nat) : Nat := v.toNat / 2 ^ (w * i) % 2 ^ w

/-- The number whose sub-elements of width w are given, the lowest first. -/
def packNat (w : Nat) : List Nat → Nat
  | [] => 0
  | x :: xs => x % 2 ^ w + 2 ^ w * packNat w xs

/-- The register whose sub-elements of width w are given, the lowest first; the rest are zero. -/
def pack (w : Nat) (xs : List Nat) : W64 := word (packNat w xs)

/-- SetSub of R65. -/
def setSub (v : W64) (i w e : Nat) : W64 :=
  word (v.toNat % 2 ^ (w * i) + 2 ^ (w * i) * (e % 2 ^ w) + 2 ^ (w * (i + 1)) * (v.toNat / 2 ^ (w * (i + 1))))

/-- The sub-elements of width w of a register, the lowest first. -/
def subs (v : W64) (w : Nat) : List Nat := (List.range (64 / w)).map fun i => sub v i w

/-- Lane l of a mask (R83). -/
def lane (m : Mask) (l : Nat) : Bool := m.getLsbD l

/-- The lanes of a mask, in increasing order. -/
def lanesOf (m : Mask) : List Nat := laneNumbers.filter (lane m)

/-- The mask of the lanes that satisfy a test. -/
def maskOf (p : Nat → Bool) : Mask :=
  laneNumbers.foldl (fun m l => if p l then m ||| BitVec.twoPow 32 l else m) 0

/-- The mask of one lane. -/
def oneLane (l : Nat) : Mask := BitVec.twoPow 32 l

/-- Every lane. -/
def allLanes : Mask := BitVec.allOnes 32

/-- The lowest-numbered lane of a mask; 0 for the empty mask. -/
def lowestLane (m : Mask) : Nat := (laneNumbers.find? (lane m)).getD 0

/-- The number of one bits of a number below 2 to the n-th. -/
def popCount : Nat → Nat → Nat
  | 0, _ => 0
  | n + 1, x => x % 2 + popCount n (x / 2)

/-- The number of zero bits below the lowest one of an n-bit number; n for zero. -/
def trailing : Nat → Nat → Nat
  | 0, _ => 0
  | n + 1, x => if x % 2 = 1 then 0 else 1 + trailing n (x / 2)

/-- The low n bits of a number in reverse order. -/
def reverseBits : Nat → Nat → Nat
  | 0, _ => 0
  | n + 1, x => x % 2 * 2 ^ n + reverseBits n (x / 2)

/-- The number of zero bits above the highest one of an n-bit number; n for zero. -/
def leading (n x : Nat) : Nat := trailing n (reverseBits n x)

/-- A bitwise operation on the low n bits of two numbers. -/
def bitwiseNat (f : Bool → Bool → Bool) : Nat → Nat → Nat → Nat
  | 0, _, _ => 0
  | n + 1, x, y => bitNat (f (x % 2 == 1) (y % 2 == 1)) + 2 * bitwiseNat f n (x / 2) (y / 2)

/-- The greatest number below 2 to the n-th whose square is at most x, continuing from r. -/
def rootFrom (x : Nat) : Nat → Nat → Nat
  | 0, r => r
  | i + 1, r => if (r + 2 ^ i) * (r + 2 ^ i) ≤ x then rootFrom x i (r + 2 ^ i) else rootFrom x i r

/-- The integer square root. -/
def isqrt (x : Nat) : Nat := rootFrom x (Nat.log2 x / 2 + 1) 0

end Sys2Proof.Machine
end

