-- ==== Sys2Proof/Machine/Num.lean ====
section
/-! DEFINITION. Number formats, exact values and the one rounding (R32 to R42). Values are exact rationals; nothing here
rounds but `roundFloat` and `roundInt`. -/

namespace Sys2Proof.Machine

/-- The float formats of R32. -/
inductive Format where
  | fp64 | fp32 | bf16 | fp16 | e4m3 | e5m2
  deriving DecidableEq, Repr

/-- Fraction bits (R32). -/
def Format.frac : Format → Nat
  | .fp64 => 52 | .fp32 => 23 | .bf16 => 7 | .fp16 => 10 | .e4m3 => 3 | .e5m2 => 2

/-- Exponent bits (R32). -/
def Format.expo : Format → Nat
  | .fp64 => 11 | .fp32 => 8 | .bf16 => 8 | .fp16 => 5 | .e4m3 => 4 | .e5m2 => 5

/-- Exponent bias (R32). -/
def Format.bias : Format → Nat
  | .fp64 => 1023 | .fp32 => 127 | .bf16 => 127 | .fp16 => 15 | .e4m3 => 7 | .e5m2 => 15

/-- The MODE.ff code (R79). -/
def Format.code : Format → Nat
  | .fp64 => 0 | .fp32 => 1 | .bf16 => 2 | .fp16 => 3 | .e4m3 => 4 | .e5m2 => 5

/-- Width in bits (R32). -/
def Format.width (f : Format) : Nat := 1 + f.expo + f.frac

/-- The magnitude bits of the largest finite value (R32). -/
def Format.maxBits : Format → Nat
  | .e4m3 => 0x7E
  | f => (2 ^ f.expo - 1) * 2 ^ f.frac - 1

/-- The magnitude bits of the canonical NaN (R32). -/
def Format.nanBits : Format → Nat
  | .e4m3 => 0x7F
  | f => (2 ^ f.expo - 1) * 2 ^ f.frac + 2 ^ (f.frac - 1)

/-- The magnitude bits of infinity; E4M3 has none (R32). -/
def Format.infBits (f : Format) : Nat := (2 ^ f.expo - 1) * 2 ^ f.frac

/-- One of the four formats whose overflow is the IEEE 754 condition and whose results are flushed (R39, R41). -/
def Format.ieee : Format → Bool
  | .e4m3 => false | .e5m2 => false | _ => true

/-- The formats whose subnormal sources MODE.ftz flushes: those still subnormal after widening to FP32, and FP64 (R41). -/
def Format.flushesSource : Format → Bool
  | .fp64 => true | .fp32 => true | .bf16 => true | _ => false

/-- An exact real or special value (R65 Value): a signed magnitude num/den, or infinity, or NaN. -/
inductive Val where
  | nan
  | inf (neg : Bool)
  | fin (neg : Bool) (num den : Nat)
  deriving DecidableEq, Repr

/-- A condition that an ARITH record names (R114); the record's code is R294's. -/
inductive Cause where
  | invalid | divzero | overflow | saturate | nanint | qscale
  deriving DecidableEq, Repr

/-- A value is zero, of either sign. -/
def Val.isZero : Val → Bool
  | .fin _ 0 _ => true
  | _ => false

/-- The value of a float element's bits (R32). -/
def valOf (f : Format) (b : Nat) : Val :=
  let neg := b / 2 ^ (f.width - 1) % 2 == 1
  let mag := b % 2 ^ (f.width - 1)
  let e := mag / 2 ^ f.frac
  let m := mag % 2 ^ f.frac
  if f = .e4m3 && mag == 0x7F then .nan
  else if f ≠ .e4m3 && e == 2 ^ f.expo - 1 then (if m == 0 then .inf neg else .nan)
  else
    let sig := if e == 0 then m else m + 2 ^ f.frac
    let q := (if e == 0 then 1 else e)
    let up := q - (f.bias + f.frac)
    let down := (f.bias + f.frac) - q
    if sig == 0 then .fin neg 0 1 else .fin neg (sig * 2 ^ up) (2 ^ down)

/-- Magnitude bits of a nonzero subnormal. -/
def subnormalBits (f : Format) (mag : Nat) : Bool := mag != 0 && mag < 2 ^ f.frac

/-- The value of a source element, flushed under MODE.ftz (R41). -/
def sourceVal (ftz : Bool) (f : Format) (b : Nat) : Val :=
  if ftz && f.flushesSource && subnormalBits f (b % 2 ^ (f.width - 1)) then
    .fin (b / 2 ^ (f.width - 1) % 2 == 1) 0 1
  else valOf f b

/-- The value of an integer (R34). -/
def valInt (x : Int) : Val := .fin (x < 0) x.natAbs 1

/-- Whether a mode moves away from the floor of a magnitude whose remainder is r/d: the table of R39. -/
def roundsUp (rm : Nat) (neg : Bool) (m r d : Nat) : Bool :=
  match rm with
  | 0 => decide (2 * r > d) || (decide (2 * r = d) && m % 2 == 1)
  | 1 => false
  | 2 => r != 0 && neg
  | _ => r != 0 && !neg

/-- A magnitude divided by two to the q, as a fraction. -/
def overPow (num den : Nat) (q : Int) : Nat × Nat :=
  match q with
  | .ofNat k => (num, den * 2 ^ k)
  | .negSucc k => (num * 2 ^ (k + 1), den)

/-- The floor of the base-2 logarithm of a positive magnitude. -/
def floorLog (num den : Nat) : Int :=
  let e : Int := (Nat.log2 num : Int) - (Nat.log2 den : Int)
  let (n, d) := overPow num den e
  if d ≤ n then e else e - 1

/-- The exponent of a format's last fraction bit at a magnitude, subnormal spacing included: the ulp of R124. -/
def ulpExp (f : Format) (num den : Nat) : Int :=
  max (floorLog num den) (1 - (f.bias : Int)) - (f.frac : Int)

/-- The exponent of a format's smallest subnormal. -/
def minUlp (f : Format) : Int := 1 - (f.bias : Int) - (f.frac : Int)

/-- The magnitude bits of a positive magnitude rounded to a format's precision, the exponent unbounded above (R39
step 3). -/
def roundMag (f : Format) (rm : Nat) (neg : Bool) (num den : Nat) : Nat :=
  let q := ulpExp f num den
  let (n, d) := overPow num den q
  let m := n / d
  let m' := if roundsUp rm neg m (n % d) d then m + 1 else m
  (q - minUlp f).toNat * 2 ^ f.frac + m'

/-- A sign bit over magnitude bits. -/
def signed (f : Format) (neg : Bool) (mag : Nat) : Nat := bitNat neg * 2 ^ (f.width - 1) + mag

/-- The overflow of R39 in a float target. -/
def overflowBits (f : Format) (rm : Nat) (sat neg : Bool) : Nat :=
  let toMax := sat || !f.ieee || rm == 1 || (rm == 2 && !neg) || (rm == 3 && neg)
  signed f neg (if toMax then f.maxBits else f.infBits)

/-- The conditions an overflow raises (R39, R114). -/
def overflowCause (f : Format) (sat : Bool) : List Cause :=
  if f.ieee then [.overflow] else if sat then [] else [.saturate]

/-- RoundTo of R65: R39 with the result flushing of R41, and the conditions it meets. -/
def roundFloat (f : Format) (rm : Nat) (sat ftz : Bool) : Val → Nat × List Cause
  | .nan => (f.nanBits, [])
  | .inf neg =>
    if f = .e4m3 then (signed f neg f.maxBits, if sat then [] else [.saturate]) else (signed f neg f.infBits, [])
  | .fin neg 0 _ => (signed f neg 0, [])
  | .fin neg num den =>
    let mag := roundMag f rm neg num den
    if mag > f.maxBits then (overflowBits f rm sat neg, overflowCause f sat)
    else if ftz && f.ieee && subnormalBits f mag then (signed f neg 0, [])
    else (signed f neg mag, [])

/-- The rounding of a magnitude to an integer (R39 step 3). -/
def roundNat (rm : Nat) (neg : Bool) (num den : Nat) : Nat :=
  let m := num / den
  if roundsUp rm neg m (num % den) den then m + 1 else m

/-- RoundTo of R65 for an integer target of the given range. -/
def roundInt (lo hi : Int) (rm : Nat) (sat : Bool) : Val → Int × List Cause
  | .nan => (0, [.nanint])
  | .inf neg => (if neg then lo else hi, if sat then [] else [.saturate])
  | .fin neg num den =>
    let m : Int := roundNat rm neg num den
    let x := if neg then -m else m
    if x < lo then (lo, if sat then [] else [.saturate])
    else if hi < x then (hi, if sat then [] else [.saturate])
    else (x, [])

/-- The least value of an n-bit integer type (R34). -/
def intMin (uns : Bool) (n : Nat) : Int := if uns then 0 else -((2 ^ (n - 1) : Nat) : Int)

/-- The greatest value of an n-bit integer type (R34). -/
def intMax (uns : Bool) (n : Nat) : Int := if uns then ((2 ^ n : Nat) : Int) - 1 else ((2 ^ (n - 1) : Nat) : Int) - 1

/-- Sat of R65. -/
def satTo (uns : Bool) (n : Nat) (x : Int) : Int := max (intMin uns n) (min (intMax uns n) x)

/-- An n-bit element read by its type (R34). -/
def intOf (uns : Bool) (n x : Nat) : Int := if uns then (x : Int) else signedOf n x

/-- The negation of a value. -/
def Val.neg : Val → Val
  | .nan => .nan
  | .inf n => .inf (!n)
  | .fin n a b => .fin (!n) a b

/-- A value's sign; a NaN has none. -/
def Val.sign : Val → Bool
  | .nan => false
  | .inf n => n
  | .fin n _ _ => n

/-- A NaN. -/
def Val.isNan : Val → Bool
  | .nan => true
  | _ => false

/-- An infinity. -/
def Val.isInf : Val → Bool
  | .inf _ => true
  | _ => false

/-- The exact product; an infinity times a zero is a NaN. The sign of a zero product is the exclusive or of the signs, also where a factor
is an integer of a matrix instruction: DESIGN CHOICE (log 62), of which R34 and R43 say nothing. -/
def mulVal : Val → Val → Val
  | .nan, _ => .nan
  | _, .nan => .nan
  | .inf a, .inf b => .inf (a != b)
  | .inf a, .fin b n _ => if n == 0 then .nan else .inf (a != b)
  | .fin a n _, .inf b => if n == 0 then .nan else .inf (a != b)
  | .fin a n d, .fin b m e => .fin (a != b) (n * m) (d * e)

/-- An exact signed fraction. -/
structure Frac where
  num : Int
  den : Nat
  deriving DecidableEq, Repr

/-- The sum of two fractions, over the larger denominator where one divides the other. -/
def Frac.add (x y : Frac) : Frac :=
  if x.den % y.den == 0 then ⟨x.num + y.num * (x.den / y.den : Nat), x.den⟩
  else if y.den % x.den == 0 then ⟨x.num * (y.den / x.den : Nat) + y.num, y.den⟩
  else ⟨x.num * (y.den : Int) + y.num * (x.den : Int), x.den * y.den⟩

/-- A finite value as a fraction; a special value counts as 0. -/
def Val.frac : Val → Frac
  | .fin n a b => ⟨if n then -(a : Int) else a, b⟩
  | _ => ⟨0, 1⟩

/-- A fraction as a value, with a sign for zero. -/
def Frac.val (zeroNeg : Bool) (x : Frac) : Val :=
  if x.num = 0 then .fin zeroNeg 0 1 else .fin (x.num < 0) x.num.natAbs x.den

/-- The sign of an exact zero sum (R39): the addends' common sign, otherwise minus under RD alone. -/
def zeroSign (rm : Nat) (ts : List Val) : Bool :=
  if ts.all Val.sign then true else if ts.all fun t => !t.sign then false else rm == 2

/-- The exact sum of values, with the NaN and infinity cases of R43. An infinity of each sign is a NaN. -/
def sumVals (rm : Nat) (ts : List Val) : Val :=
  if ts.any Val.isNan then .nan
  else if ts.any (fun t => t.isInf && t.sign) then
    (if ts.any (fun t => t.isInf && !t.sign) then .nan else .inf true)
  else if ts.any Val.isInf then .inf false
  else (ts.foldl (fun (acc : Frac) t => acc.add t.frac) ⟨0, 1⟩).val (zeroSign rm ts)

/-- The invalid-operation condition of a sum (R117): no NaN operand, and infinities of both signs. -/
def sumCauses (ts : List Val) : List Cause :=
  if !ts.any Val.isNan && ts.any (fun t => t.isInf && t.sign) && ts.any (fun t => t.isInf && !t.sign) then [.invalid]
  else []

/-- x < y as exact values; false for a NaN, and a zero equals a zero. -/
def ltVal : Val → Val → Bool
  | .nan, _ => false
  | _, .nan => false
  | .inf a, .inf b => a && !b
  | .inf a, .fin .. => a
  | .fin .., .inf b => !b
  | .fin a n d, .fin b m e =>
    let x : Int := (if a then -(n : Int) else n) * (e : Int)
    let y : Int := (if b then -(m : Int) else m) * (d : Int)
    decide (x < y)

/-- x = y as exact values; false for a NaN, and −0 = +0. -/
def eqVal (x y : Val) : Bool := !x.isNan && !y.isNan && !ltVal x y && !ltVal y x

/-- FADD of R116 and R117: the exact sum and its condition. -/
def addVal (rm : Nat) (x y : Val) : Val × List Cause := (sumVals rm [x, y], sumCauses [x, y])

/-- The conditions of a product (R117). -/
def mulCauses (x y : Val) : List Cause :=
  if (x.isInf && y.isZero) || (x.isZero && y.isInf) then [.invalid] else []

/-- The fused sum a × b + c (R117): a NaN operand raises nothing; an infinity times a zero is invalid. -/
def fmaVal (rm : Nat) (a b c : Val) : Val × List Cause :=
  if a.isNan || b.isNan || c.isNan then (.nan, [])
  else if !(mulCauses a b).isEmpty then (.nan, [.invalid])
  else (sumVals rm [mulVal a b, c], sumCauses [mulVal a b, c])

/-- The exact quotient and its conditions (R117). -/
def divVal : Val → Val → Val × List Cause
  | .nan, _ => (.nan, [])
  | _, .nan => (.nan, [])
  | .inf _, .inf _ => (.nan, [.invalid])
  | .inf a, .fin b _ _ => (.inf (a != b), [])
  | .fin a _ _, .inf b => (.fin (a != b) 0 1, [])
  | .fin a n d, .fin b m e =>
    if m == 0 then (if n == 0 then (.nan, [.invalid]) else (.inf (a != b), [.divzero]))
    else if n == 0 then (.fin (a != b) 0 1, [])
    else (.fin (a != b) (n * e) (d * m), [])

/-- The square root of a positive magnitude to `prec` bits and more: exact where it is exact, otherwise a value strictly
between its neighbours, so that every rounding to fewer bits is that of the exact root. -/
def sqrtMag (prec num den : Nat) : Nat × Nat :=
  let k := prec + Nat.log2 den + 1
  let x := num * 2 ^ (2 * k) / den
  let r := isqrt x
  if r * r * den == num * 2 ^ (2 * k) then (r, 2 ^ k) else (2 * r + 1, 2 ^ (k + 1))

/-- FSQRT of R116 and R117. -/
def sqrtVal (prec : Nat) : Val → Val × List Cause
  | .nan => (.nan, [])
  | .inf neg => if neg then (.nan, [.invalid]) else (.inf false, [])
  | .fin neg n d =>
    if n == 0 then (.fin neg 0 1, [])
    else if neg then (.nan, [.invalid])
    else let (r, q) := sqrtMag prec n d; (.fin false r q, [])

/-- x × 2^k, exact. -/
def scaleVal (k : Int) : Val → Val
  | .fin neg n d =>
    match k with
    | .ofNat j => .fin neg (n * 2 ^ j) d
    | .negSucc j => .fin neg n (d * 2 ^ (j + 1))
  | v => v

/-- FMIN of R118: −0 below +0, and a NaN gives way. -/
def minVal (x y : Val) : Val :=
  if x.isNan then y else if y.isNan then x
  else if ltVal x y then x else if ltVal y x then y
  else if x.isZero then (if x.sign then x else y) else x

/-- FMAX of R118. -/
def maxVal (x y : Val) : Val :=
  if x.isNan then y else if y.isNan then x
  else if ltVal x y then y else if ltVal y x then x
  else if x.isZero then (if x.sign then y else x) else x

/-- The code of R121. -/
def classOf (f : Format) (b : Nat) : Nat :=
  let mag := b % 2 ^ (f.width - 1)
  match valOf f b with
  | .nan => 8
  | .inf neg => if neg then 0 else 7
  | .fin neg 0 _ => if neg then 3 else 4
  | .fin neg _ _ => if subnormalBits f mag then (if neg then 2 else 5) else (if neg then 1 else 6)

/-- RND of R122: an integral value under the mode; a zero keeps the sign. -/
def integralVal (rm : Nat) : Val → Val
  | .fin neg n d => .fin neg (roundNat rm neg n d) 1
  | v => v

/-- The distance |x − e| of R37 between non-NaN values; none is infinite. -/
def distance (x e : Val) : Option Frac :=
  if eqVal x e then some ⟨0, 1⟩
  else if x.isInf || e.isInf then none
  else let d := x.frac.add e.neg.frac; some ⟨d.num.natAbs, d.den⟩

/-- One distance is smaller than another. -/
def nearer : Option Frac → Option Frac → Bool
  | some a, some b => decide (a.num * (b.den : Int) < b.num * (a.den : Int))
  | some _, none => true
  | none, _ => false

/-- The best index so far while the entries of a codebook are tried in order (R37). -/
def bestEntry (x : Val) : List (Nat × Val) → Option (Nat × Option Frac) → Option (Nat × Option Frac)
  | [], best => best
  | (i, e) :: rest, best =>
    if e.isNan then bestEntry x rest best
    else
      let d := distance x e
      match best with
      | none => bestEntry x rest (some (i, d))
      | some (_, d') => bestEntry x rest (if nearer d d' then some (i, d) else best)

/-- The CB4 index of a value under a codebook's sixteen entries (R37). -/
def encodeBook (book : List Val) (x : Val) : Nat :=
  if x.isNan then 15
  else match bestEntry x ((List.range 16).zip book) none with
    | none => 15
    | some (i, _) => i

end Sys2Proof.Machine
end

