-- ==== Sys2Proof/Config.lean ====
section
/-! DEFINITION. What an implementation fixes and the manual leaves open: constants with no body, so that nothing can be
proved of them but what holds for every value. -/

namespace Sys2Proof.Config

/-- The value behind every "unpredictable" (R9, R10) and every unstated number: applied to the machine's free counter. -/
opaque freeWord : Nat → W64

/-- Which of the results that R124 allows the part gives for an inexact special function: the opcode, MODE.ff, the source
bits after flushing, and MODE.ftz and MODE.sat choose one of the values within the bound (R123). -/
opaque specialChoice : Nat → Nat → W64 → Bool → Bool → Nat

/-- The cycles of a die's clock that one step of the machine takes, beyond one (R5, R331). -/
opaque elapsed : Nat → Nat

/-- What another device's translation of an access answers (R185): the counters tick and fresh and the pointer choose none or one of
the faults that it may return. -/
opaque remoteFault : Nat → Nat → W64 → Nat

/-- The element size, as log2 of bytes, in the record that another device has for a pointer's object (R185, R233): the counter tick and
the pointer choose it. -/
opaque remoteEsz : Nat → W64 → Nat

/-- A byte that another device holds, as it is read there once (R185): the counters and the byte's pointer choose it. -/
opaque remoteByte : Nat → Nat → W64 → Byte

/-- How many 8-byte variables the Rennet's overflow area holds: firmware sets it at bring-up (R204). -/
opaque overflowWords : Nat

/-- The stepping byte of DEVID (R386). -/
opaque stepping : Byte

/-- The firmware version word of a RESYNC summary (R281). -/
opaque firmwareVersion : W64

/-- Byte n of the measurement register MRk (R393). -/
opaque measurement : Nat → Nat → Byte

/-- Byte n of the SHA-512 of the device's public key (R393). -/
opaque deviceKeyDigest : Nat → Byte

/-- Byte n of the ECDSA signature of a quote whose digest is given (R393): the key is held only by the policy core. -/
opaque signature : List Byte → Nat → Byte

end Sys2Proof.Config
end

