-- ==== Sys2Proof/Machine/Memory.lean ====
section
/-! DEFINITION. The memories behind translation: HBM, the flag window, host memory, the L2s, the Rennets, what L1 may still
return, and the scratchpads, with one read and one write of a byte (R204 to R221, R255). -/

namespace Sys2Proof.Machine

/-- The first `some` among the results of a list. -/
def firstSome {α β : Type} (f : α → Option β) : List α → Option β
  | [] => none
  | x :: xs => match f x with
    | some y => some y
    | none => firstSome f xs

/-- The CU under its number in the package, 48 to a die (R11). -/
def State.cu (s : State) (c : Nat) : Cu := (find s.cus c).getD Cu.reset

/-- A CU changed. -/
def State.setCu (s : State) (c : Nat) (x : Cu) : State := { s with cus := put s.cus c x }

/-- The compute die under its number (R11). -/
def State.die (s : State) (d : Nat) : Die := (find s.dies d).getD Die.reset

/-- A die changed. -/
def State.setDie (s : State) (d : Nat) (x : Die) : State := { s with dies := put s.dies d x }

/-- A location of memory as one number: a physical address, or 2⁶⁴ + the bus address of host memory. -/
abbrev Key := Nat

/-- The key of host memory. -/
def hostKey (ba : Nat) : Key := 2 ^ 64 + ba

/-- The first byte of the flag window (R211). -/
def flagBase : Nat := 0xF00000000000

/-- The host flag window (R211). -/
def inFlags (k : Key) : Bool := decide (flagBase ≤ k) && decide (k < flagBase + 2 ^ 20)

/-- HBM (R211). -/
def inHbm (k : Key) : Bool := decide (k < 2 ^ 40)

/-- The stack of an address (R212). -/
def stackOf (pa : Nat) : Nat := bits pa 11 8 ^^^ bits pa 23 20

/-- The home compute die of an address (R212). -/
def homeDie (pa : Nat) : Nat := stackOf pa / 4

/-- The copy of a byte in a mirrored Rind range (R215). -/
def mirrorOf (rind : List (Nat × Nat × Option Nat)) (k : Key) : Option Key :=
  firstSome (fun (r : Nat × Nat × Option Nat) =>
    if r.1 ≤ k && k < r.1 + r.2.1 then r.2.2.map fun b => b + ((k - r.1) ^^^ 0x800) else none) rind

/-- An address lies in a designated Rind range (R214). -/
def inRind (s : State) (k : Key) : Bool := s.rind.any fun r => decide (r.1 ≤ k) && decide (k < r.1 + r.2.1)

/-- The byte of a mirrored range whose copy lies at a location (R215). -/
def originOf (rind : List (Nat × Nat × Option Nat)) (k : Key) : Option Key :=
  firstSome (fun (r : Nat × Nat × Option Nat) => r.2.2.bind fun b =>
    if b ≤ k && k < b + r.2.1 then some (r.1 + ((k - b) ^^^ 0x800)) else none) rind

/-- An address lies in a Rind range or in the partner of one: its blocks have CRCs (R215). -/
def hasCrc (s : State) (k : Key) : Bool := inHbm k && (inRind s k || (originOf s.rind k).isSome)

/-- The CRC-32C of the bytes that memory holds in a 256-byte block (R215). -/
def blockCrc (m : List Host.Cell) (blk : Nat) : W32 := word32 (crc32c (readBytes m (256 * blk) 256))

/-- The CRC of a block of blank bytes. -/
def blankCrc : W32 := word32 (crc32c (List.replicate 256 blankByte))

/-- The block of a written address takes its CRC with it: both are written as one unit (R215). -/
def sealBlock (s : State) (k : Key) : State :=
  if hasCrc s k then { s with crcs := setAt blankCrc s.crcs (k / 256) (blockCrc s.mem (k / 256)) } else s

/-- A block whose CRC word does not match its bytes (R215). -/
def crcFails (s : State) (k : Key) : Bool :=
  hasCrc s k && getAt blankCrc s.crcs (k / 256) != blockCrc s.mem (k / 256)

/-- A byte written behind the caches: HBM with its mirror copy and their CRCs (R215), the flag window, or host memory. -/
def memWrite (s : State) (k : Key) (b : Byte) : State :=
  if k < 2 ^ 64 then
    let m := writeByte s.mem k b
    match (if inHbm k then mirrorOf s.rind k else none) with
    | some k' => sealBlock (sealBlock { s with mem := writeByte m k' b } k) k'
    | none => sealBlock { s with mem := m } k
  else { s with hostMem := writeByte s.hostMem (k - 2 ^ 64) b }

/-- A byte as the memory behind the caches holds it: what the host sees through BAR2 (R220). -/
def memRead (s : State) (k : Key) : Byte :=
  if k < 2 ^ 64 then readByte s.mem k else readByte s.hostMem (k - 2 ^ 64)

/-- The 8-byte variable a Rennet holds for an address, in SRAM or in the overflow area (R213). -/
def rennetVar (s : State) (v : Key) : Option W64 :=
  firstSome (fun (d : Nat × Die) => (find d.2.rennet v).or (find d.2.overflow v)) s.dies

/-- Byte i of a word. -/
def byteAt (w : W64) (i : Nat) : Byte := w.extractLsb' (8 * i) 8

/-- A word with byte i replaced. -/
def setByteAt (w : W64) (i : Nat) (b : Byte) : W64 := setSub w i 8 b.toNat

/-- The coherent value of a byte (R209, R213, R255): what a load performed at L2 returns. -/
def coherent (s : State) (k : Key) : Byte :=
  match rennetVar s (k / 8 * 8) with
  | some w => byteAt w (k % 8)
  | none =>
    match firstSome (fun (d : Nat × Die) => find d.2.l2 k) s.dies with
    | some b => b
    | none => memRead s k

/-- Coherent bytes from an address on. -/
def coherentBytes (s : State) : Key → Nat → List Byte
  | _, 0 => []
  | k, n + 1 => coherent s k :: coherentBytes s (k + 1) n

/-- The coherent 64-bit word at an address. -/
def coherentW64 (s : State) (k : Key) : W64 := bytesW64 (coherentBytes s k 8)

/-- A byte replaced by the write under way: every L1 may still hold the old value, but not the writing CU's own, which is updated
(R208). -/
def noteReplaced (s : State) (writer : Option Nat) (k : Key) (old : Byte) : State :=
  let t := { s with replaced := put s.replaced k ((s.writes, old) :: (find s.replaced k).getD []) }
  match writer with
  | some c => t.setCu c { t.cu c with l1 := put (t.cu c).l1 k (s.writes + 1) }
  | none => t

/-- Updates the variable a Rennet holds. -/
def rennetPoke (s : State) (v : Key) (i : Nat) (b : Byte) : State :=
  { s with dies := s.dies.map fun d =>
      (d.1, { d.2 with
        rennet := d.2.rennet.map fun e => if e.1 = v then (v, setByteAt e.2 i b) else e
        overflow := d.2.overflow.map fun e => if e.1 = v then (v, setByteAt e.2 i b) else e }) }

/-- The byte of one L2 made dirty, every other die's copy invalidated (R209). -/
def l2Write (s : State) (d : Nat) (k : Key) (b : Byte) : State :=
  let t := { s with dies := s.dies.map fun (e : Nat × Die) => (e.1, { e.2 with l2 := drop e.2.l2 k }) }
  let x := t.die d
  t.setDie d { x with l2 := put x.l2 k b, wrote := k :: x.wrote.filter (· != k) }

/-- One byte performed at its point of coherence: in a Rennet that holds it, in the flag window or host memory of an ordered
object, or in the L2 of die d (R208, R209, R213, R219, R220). What a Rennet holds is in no L1. -/
def performByte (s : State) (d : Nat) (writer : Option Nat) (direct : Bool) (k : Key) (b : Byte) : State :=
  if (rennetVar s (k / 8 * 8)).isSome then rennetPoke s (k / 8 * 8) (k % 8) b
  else noteReplaced (if direct || inFlags k then memWrite s k b else l2Write s d k b) writer k (coherent s k)

/-- The poisoned sectors that a list of written addresses does not cover whole (R221). -/
def poisonAfter (poison : List Nat) (keys : List Key) : List Nat :=
  poison.filter fun p => !(List.range 128).all fun i => keys.contains (128 * p + i)

/-- The key of a translated byte that lies in memory behind the caches. -/
def Place.key : Place → Option (Key × Bool)
  | .phys pa => some (pa, false)
  | .host ba ord => some (hostKey ba, ord)
  | _ => none

/-- A scratchpad byte written (R204). -/
def spadWrite (s : State) (blk off : Nat) (b : Byte) : State :=
  { s with blocks := change s.blocks blk fun x => { x with spad := setAt 0 x.spad off b } }

/-- One translated byte performed. A byte that no memory holds, and one on another device, changes nothing here. -/
def performPlace (s : State) (d : Nat) (writer : Option Nat) (pb : Place × Byte) : State :=
  match pb.1 with
  | .spad blk off => spadWrite s blk off pb.2
  | p =>
    match p.key with
    | some (k, ord) => performByte s d writer ord k pb.2
    | none => s

/-- Poisoned scratchpad words that written offsets do not cover whole (R221). -/
def spadPoisonAfter (blk : Nat) (x : Nat × Block) (ps : List (Place × Byte)) : Nat × Block :=
  if x.1 = blk && !x.2.spadPoison.isEmpty then
    (x.1, { x.2 with spadPoison := x.2.spadPoison.filter fun w =>
      !(List.range 4).all fun i => ps.any fun p => decide (p.1 = .spad blk (4 * w + i)) })
  else x

/-- The bytes of one write performed together, full sectors losing their poison (R221). -/
def performBytes (s : State) (d : Nat) (writer : Option Nat) (ps : List (Place × Byte)) : State :=
  let t := ps.foldl (fun t p => performPlace t d writer p) s
  { t with
    writes := t.writes + 1
    poison := if t.poison.isEmpty then [] else poisonAfter t.poison (ps.filterMap fun p => p.1.key.map Prod.fst)
    blocks := t.blocks.map fun x => spadPoisonAfter x.1 x ps }

/-- The write as of which a CU's L1 holds or has returned a byte, or was emptied (R208). -/
def l1Floor (s : State) (c : Nat) (k : Key) : Nat := max (s.cu c).l1Since (getAt 0 (s.cu c).l1 k)

/-- The values an L1 may return for a byte besides the coherent one, each with the number of the write that replaced it; what a Rennet
holds is in no L1 (R208, R213, R262). -/
def staleOf (s : State) (c : Nat) (k : Key) : List (Nat × Byte) :=
  if (rennetVar s (k / 8 * 8)).isSome then []
  else ((find s.replaced k).getD []).filter fun e => decide (l1Floor s c k ≤ e.1)

/-- The value a byte had when write number t had not yet happened. -/
def valueBefore (now : Byte) (vs : List (Nat × Byte)) (t : Nat) : Byte :=
  match (vs.filter fun e => decide (t ≤ e.1)).getLast? with
  | some e => e.2
  | none => now

/-- An L1 that has returned the value of time t no longer returns an older one. -/
def keepSince (s : State) (c : Nat) (k : Key) (t : Nat) : State :=
  s.setCu c { s.cu c with l1 := put (s.cu c).l1 k t }

/-- The moment, among those at which some byte of an access still had an older value in L1, as of which it is read; the free
word chooses (R262). -/
def chosenTime (s : State) (c : Nat) (ks : List Key) (n : Nat) : Nat :=
  let ts := ks.flatMap fun k => (staleOf s c k).map Prod.fst
  (s.writes :: ts).getD (n % (ts.length + 1)) s.writes

/-- An acquire at scope CLU or wider: the CU's L1 is invalidated (R208). -/
def invalidateL1 (s : State) (c : Nat) : State := s.setCu c { s.cu c with l1Since := s.writes, l1 := [] }

/-- No L1 holds an older value of a location any more (R195, R213). -/
def forgetL1 (s : State) (p : Key → Bool) : State := { s with replaced := s.replaced.filter fun e => !p e.1 }

/-- Dirty bytes of every L2 that satisfy a test are written back. -/
def writeBackL2 (s : State) (p : Key → Bool) : State :=
  let dirty := s.dies.flatMap fun d => d.2.l2.filter fun e => p e.1
  let t := { s with dies := s.dies.map fun d => (d.1, { d.2 with l2 := d.2.l2.filter fun e => !p e.1 }) }
  dirty.foldl (fun t e => memWrite t e.1 e.2) t

/-- The bytes of the variables that Rennets hold, by location. -/
def rennetBytes (s : State) : List (Key × Byte) :=
  s.dies.flatMap fun d => (d.2.rennet ++ d.2.overflow).flatMap fun e => (List.range 8).map fun i => (e.1 + i, byteAt e.2 i)

/-- Dirty bytes of every L2 that satisfy a test are written back, and so are those of variables that a Rennet holds, which it keeps: the
values of the locations are then in memory (R213, R216, R251, R263). -/
def writeBack (s : State) (p : Key → Bool) : State :=
  ((rennetBytes s).filter fun e => p e.1).foldl (fun t e => memWrite t e.1 e.2) (writeBackL2 s p)

/-- Words a Rennet's SRAM holds: 16 MiB of 8-byte variables (R11). -/
def rennetCapacity : Nat := 2 ^ 21

/-- Room for plain variables in a Rennet's SRAM and in its overflow area, beside the contribution counters there (R213). -/
def rennetRoom (x : Die) (overflow : Bool) : Nat :=
  (if overflow then Config.overflowWords else rennetCapacity) - (x.counters.filter fun c => c.overflow == overflow).length

/-- Moves of a die's Rennet to its overflow area counted (R341). -/
def countOverflow (x : Die) (n : Nat) : Die := if n = 0 then x else { x with perf := setAt 0 x.perf 39 (getAt 0 x.perf 39 + word n) }

/-- A Rennet with variables in order of use: the least recently used ones go to the overflow area, and from a full overflow area home
(R213). -/
def rennetTrim (s : State) (d : Nat) : State :=
  let x := s.die d
  let out := x.rennet.drop (rennetRoom x false)
  let rest := out ++ x.overflow
  let s' := s.setDie d { countOverflow x out.length with
    rennet := x.rennet.take (rennetRoom x false), overflow := rest.take (rennetRoom x true) }
  (rest.drop (rennetRoom x true)).foldl
    (fun t e => (List.range 8).foldl (fun t i => memWrite t (e.1 + i) (byteAt e.2 i)) t) s'

/-- A variable becomes the most recently used of its Rennet (R213). -/
def rennetPut (s : State) (v : Key) (w : W64) : State :=
  let d := homeDie v
  let x := s.die d
  rennetTrim (s.setDie d { x with rennet := (v, w) :: drop x.rennet v, overflow := drop x.overflow v }) d

/-- A Rennet takes a variable of a line tile, given by its locations: copies of the line tile go out of every L1 and L2, dirty bytes first
written back (R213). -/
def rennetTake (s : State) (line : List Key) (v : Key) : State :=
  let w := coherentW64 s v
  rennetPut (forgetL1 (writeBackL2 s fun k => line.contains k || k / 8 * 8 == v) fun k => line.contains k || k / 8 * 8 == v) v w

/-- A sector of memory is poisoned (R221). -/
def poisoned (s : State) (k : Key) : Bool := s.poison.contains (k / 128)

/-- A translated byte carries poison (R221). -/
def placePoisoned (s : State) : Place → Bool
  | .spad blk off => match find s.blocks blk with
    | some b => b.spadPoison.contains (off / 4)
    | none => false
  | .phys pa => poisoned s pa
  | _ => false

end Sys2Proof.Machine
end

