-- ==== Sys2Proof/Machine/Translate.lean ====
section
/-! DEFINITION. Object pointers, object records, tile maps and Translate (R184 to R202). -/

namespace Sys2Proof.Machine

/-- The kind of an access (R192). -/
inductive Kind where
  | read | write | atomic | execute
  deriving DecidableEq, Repr

/-- The kind's code in the detail of PERM (R368). -/
def Kind.code : Kind → Nat
  | .read => 0 | .write => 1 | .atomic => 2 | .execute => 3

/-- The trap codes of R368. -/
inductive Code where
  | illop | illpk | empty | conv | fmtdiv | align | oos | notres | perm | objinv | objue | memue | regue | sdc | dtund
  | exitmis | xfernone | trapsw | arith | dierst
  deriving DecidableEq, Repr

/-- The numbers of R368. -/
def Code.num : Code → Nat
  | .illop => 0x01 | .illpk => 0x02 | .empty => 0x03 | .conv => 0x04 | .fmtdiv => 0x05 | .align => 0x06
  | .oos => 0x07 | .notres => 0x08 | .perm => 0x09 | .objinv => 0x0A | .objue => 0x0B | .memue => 0x0C
  | .regue => 0x0D | .sdc => 0x0E | .dtund => 0x0F | .exitmis => 0x10 | .xfernone => 0x11 | .trapsw => 0x12
  | .arith => 0x13 | .dierst => 0x3F

/-- The codes whose detail carries P, in bit 31 of TCAUSE (R368). -/
def Code.carriesP : Code → Bool
  | .align => true | .oos => true | .notres => true | .perm => true | .objinv => true
  | _ => false

/-- Class K: kills the gang (R368). -/
def Code.kills : Code → Bool
  | .objue => true | .memue => true | .regue => true | .sdc => true
  | _ => false

/-- Why a lane's access is not performed (R191, R198). -/
inductive Miss where
  /-- A fault with its detail. -/
  | fault (code : Code) (detail : Nat)
  /-- NOTRES at a sub-tile of a residency tile. -/
  | notres (tile sub : Nat)
  /-- Held while the record (no tile) or an entry is moving or under rebuild (R195, R198). -/
  | hold (tile : Option Nat)
  /-- An uncorrectable error first met here: OBJUE, and a rebuild begins (R198). -/
  | damaged (tile : Option Nat)
  deriving DecidableEq, Repr

/-- The node, object and offset of a pointer (R185). -/
def ptrNode (p : W64) : Nat := fld p 63 55
def ptrObj (p : W64) : Nat := fld p 54 36
def ptrOff (p : W64) : Nat := fld p 35 0

/-- A pointer of this device: node 511 or the device's own index (R185). -/
def localNode (s : State) (n : Nat) : Bool := n == 511 || n == s.node.toNat

/-- A pointer that names another device (R185). -/
def isRemote (s : State) (p : W64) : Bool := ptrNode p < 384 && !localNode s (ptrNode p)

/-- An object record's sixteen words (R186). -/
abbrev Record := List W64

/-- Word w of a record. -/
def Record.w (r : Record) (i : Nat) : W64 := r.getD i 0

/-- The fields of a record (R186). -/
def Record.rgen (r : Record) : Nat := fld (r.w 0) 63 32
def Record.state (r : Record) : Nat := fld (r.w 0) 31 29
def Record.rank (r : Record) : Nat := fld (r.w 0) 28 27 + 1
def Record.esz (r : Record) : Nat := fld (r.w 0) 26 24
def Record.layout (r : Record) : Nat := fld (r.w 0) 23 22
def Record.lts (r : Record) : Nat := fld (r.w 0) 21 19
def Record.bmode (r : Record) : Nat := fld (r.w 0) 18 17
def Record.flag (r : Record) (b : Nat) : Bool := (r.w 0).getLsbD b
def Record.du (r : Record) : Bool := r.flag 16
def Record.at (r : Record) : Bool := r.flag 15
def Record.ex (r : Record) : Bool := r.flag 14
def Record.wr (r : Record) : Bool := r.flag 13
def Record.rd (r : Record) : Bool := r.flag 12
def Record.hostord (r : Record) : Bool := r.flag 11
def Record.shared (r : Record) : Bool := r.flag 10
def Record.sysm (r : Record) : Bool := r.flag 9
def Record.extent (r : Record) (i : Nat) : Nat :=
  if i % 2 = 0 then fld (r.w (1 + i / 2)) 31 0 else fld (r.w (1 + i / 2)) 63 32
def Record.stride (r : Record) (i : Nat) : Nat := fld (r.w (3 + i)) 47 0
def Record.tmap (r : Record) : Nat := fld (r.w 7) 47 0
def Record.tmlen (r : Record) : Nat := fld (r.w 8) 63 32
def Record.sset (r : Record) : Nat := fld (r.w 9) 47 0
def Record.mirror (r : Record) : Nat := fld (r.w 10) 47 0
/-- The global id, which names an object's lines (R202). DESIGN CHOICE (log 60): no access looks at it; where two records of one gid have
different storage, which makes the values read through them unpredictable, each reads its own storage. -/
def Record.gid (r : Record) : Nat := fld (r.w 11) 35 0

/-- The element size in bytes. -/
def Record.esize (r : Record) : Nat := 2 ^ r.esz

/-- The canonical size Z (R187). -/
def Record.size (r : Record) : Nat := r.esize * r.extent 0 * r.extent 1 * r.extent 2 * r.extent 3

/-- Rows and bytes of the line tile shape (R186). -/
def Record.ltRows (r : Record) : Nat := 2 ^ r.lts
def Record.ltBytes (r : Record) : Nat := 256 / 2 ^ r.lts

/-- The bits of a record that are always zero (R186). -/
def Record.zeros (r : Record) : Bool :=
  fld (r.w 0) 8 0 == 0 && (List.range 4).all (fun i => fld (r.w (3 + i)) 63 48 == 0) && fld (r.w 7) 63 48 == 0 &&
  fld (r.w 8) 31 20 == 0 && fld (r.w 9) 63 48 == 0 && fld (r.w 10) 63 48 == 0 && fld (r.w 11) 63 36 == 0 &&
  (List.range 4).all fun i => r.w (12 + i) == 0

/-- A well-formed record (R187, R211). -/
def Record.wf (r : Record) : Bool :=
  (List.range 4).all (fun i =>
    if i < r.rank then r.extent i != 0 else r.extent i == 1) &&
  decide (r.size ≤ 2 ^ 36) &&
  (r.layout == 3 || (List.range 4).all fun i => r.stride i == 0) &&
  (!r.ex || (!r.rd && !r.wr && !r.at)) && (!r.hostord || r.sysm) &&
  (!r.sysm || (r.rank == 1 && r.esz == 0 && r.layout == 0 && r.lts == 0)) &&
  r.zeros && decide (r.state ≤ 4) && decide (r.esz ≤ 4) && decide (r.lts ≤ 4) && decide (r.bmode ≤ 2) &&
  decide (r.tmap < 2 ^ 40) && decide (r.sset < 2 ^ 40) && decide (r.mirror < 2 ^ 40) && r.tmap % 8 == 0

/-- The bytes of a residency tile: 64 KiB, or 4 KiB of host memory (R189, R200). -/
def Record.tileBytes (r : Record) : Nat := if r.sysm then 4096 else 65536

/-- Coordinates of the element with index k: the last dimension is not reduced (R187). -/
def Record.coordsOf (r : Record) (k : Nat) : List Int :=
  let n0 := r.extent 0
  let n1 := n0 * r.extent 1
  let n2 := n1 * r.extent 2
  let last := r.rank - 1
  [ (if last = 0 then k else k % r.extent 0 : Nat),
    (if last < 1 then 0 else if last = 1 then k / n0 else k / n0 % r.extent 1 : Nat),
    (if last < 2 then 0 else if last = 2 then k / n1 else k / n1 % r.extent 2 : Nat),
    (if last < 3 then 0 else k / n2 : Nat) ]

/-- Every coordinate within its extent (R193). -/
def Record.inShape (r : Record) (c : List Int) : Bool :=
  (List.range 4).all fun i => decide (0 ≤ c.getD i 0) && decide (c.getD i 0 < (r.extent i : Int))

/-- Coordinates clamped to the shape (R193). -/
def Record.clamp (r : Record) (c : List Int) : List Int :=
  (List.range 4).map fun i => max 0 (min (c.getD i 0) ((r.extent i : Int) - 1))

/-- The bits of x in the even positions and those of y in the odd ones (R188). -/
def interleave : Nat → Nat → Nat → Nat
  | 0, _, _ => 0
  | n + 1, x, y => x % 2 + 2 * (y % 2) + 4 * interleave n (x / 2) (y / 2)

/-- The least power of two at least n. -/
def powerFrom (n : Nat) : Nat := if n ≤ 1 then 1 else 2 ^ (Nat.log2 (n - 1) + 1)

/-- The storage offset of byte b of the element at in-shape coordinates (R188). -/
def Record.storage (r : Record) (c : List Int) (b : Nat) : Nat :=
  let c0 := (c.getD 0 0).toNat
  let c1 := (c.getD 1 0).toNat
  let c2 := (c.getD 2 0).toNat
  let c3 := (c.getD 3 0).toNat
  let E := r.esize
  match r.layout with
  | 0 => E * (c0 + r.extent 0 * (c1 + r.extent 1 * (c2 + r.extent 2 * c3))) + b
  | 1 => E * (c1 + r.extent 1 * (c0 + r.extent 0 * (c2 + r.extent 2 * c3))) + b
  | 2 =>
    let q := r.ltBytes
    let rows := r.ltRows
    let p := powerFrom (max ((E * r.extent 0 + q - 1) / q) ((r.extent 1 + rows - 1) / rows))
    256 * interleave 40 ((E * c0 + b) / q) (c1 / rows) + q * (c1 % rows) + (E * c0 + b) % q
      + 256 * (p * p) * (c2 + r.extent 2 * c3)
  | _ => c0 * r.stride 0 + c1 * r.stride 1 + c2 * r.stride 2 + c3 * r.stride 3 + b

/-- The line tile of a byte: x, y, c2, c3 (R202). -/
def Record.line (r : Record) (c : List Int) (b : Nat) : List Nat :=
  [(r.esize * (c.getD 0 0).toNat + b) / r.ltBytes, (c.getD 1 0).toNat / r.ltRows, (c.getD 2 0).toNat, (c.getD 3 0).toNat]

/-- A tile-map entry's fields (R189, R200, R211). -/
def entState (sysm : Bool) (e : W64) : Nat := if sysm then fld e 11 8 else fld e 59 56
def entFrame (e : W64) : Nat := fld e 47 16
def entPresent (e : W64) (sub : Nat) : Bool := e.getLsbD sub
def entGen (sysm : Bool) (e : W64) : Nat := if sysm then fld e 7 0 else fld e 55 48

/-- A reserved state, a nonzero zero field, or a frame where no memory lies is an uncorrectable error in the entry (R189,
R211). -/
def entDamaged (sysm : Bool) (e : W64) : Bool :=
  decide (3 < entState sysm e) ||
  (!sysm && (fld e 63 60 != 0 ||
    (decide (0x01000000 ≤ entFrame e) && !(decide (0xF0000000 ≤ entFrame e) && decide (entFrame e ≤ 0xF000000F)))))

/-- The context under its number. -/
def State.ctx? (s : State) (c : Nat) : Option Context := find s.contexts c

/-- Where a record lies (R184). -/
def recordAt (x : Context) (obj : Nat) : Nat := x.otBase + 128 * obj

/-- Bytes of a record or an entry carry an uncorrectable error: their sector is poisoned, and firmware has not written them since. -/
def damagedAt (s : State) (pa n : Nat) : Bool :=
  !s.poison.isEmpty && (List.range n).any fun i => poisoned s (pa + i) && !s.mended.contains ((pa + i) / 8)

/-- The cached copy of a record, else the record in memory (R184, R190): ORC, then DTC, then a walk. -/
def recordOf (s : State) (cu : Nat) (c : Nat) (x : Context) (obj : Nat) : Record :=
  let hit (l : List (Nat × Nat × List W64)) := (l.find? fun e => e.1 == c && e.2.1 == obj).map fun e => e.2.2
  match (hit (s.cu cu).orc).or (hit (s.die (cu / 48)).dtcRec) with
  | some r => r
  | none => bytesWords 16 (coherentBytes s (recordAt x obj) 128)

/-- The cached copy of a tile-map entry, else the entry in memory: TTC, then DTC, then a walk. -/
def entryOf (s : State) (cu : Nat) (c obj : Nat) (r : Record) (j : Nat) : W64 :=
  let hit (l : List (Nat × Nat × Nat × W64)) :=
    (l.find? fun e => e.1 == c && e.2.1 == obj && e.2.2.1 == j).map fun e => e.2.2.2
  match (hit (s.cu cu).ttc).or (hit (s.die (cu / 48)).dtcEnt) with
  | some e => e
  | none => coherentW64 s (r.tmap + 8 * j)

/-- Two contexts' records of one shared object: both shared, with one global id and generation (R186, R202). -/
def sameShared (r q : Record) : Bool := r.shared && q.shared && r.gid == q.gid && r.rgen == q.rgen

/-- Object numbers of two contexts name one object: the same number of one context, one record, or records of one shared object. -/
def sameObject (s : State) (ctx obj ctx' obj' : Nat) : Bool :=
  (ctx == ctx' && obj == obj') || match s.ctx? ctx, s.ctx? ctx' with
    | some x, some y => recordAt x obj == recordAt y obj' ||
        sameShared (bytesWords 16 (coherentBytes s (recordAt x obj) 128)) (bytesWords 16 (coherentBytes s (recordAt y obj') 128))
    | _, _ => false

/-- One byte of an access after R193: performed at a storage offset and line tile, or zero-filled. -/
inductive ByteAt where
  | at (S : Nat) (line : List Nat)
  | zero
  deriving DecidableEq, Repr

/-- R193 for byte b of the element at coordinates; none is an out-of-shape byte of a faulting object. -/
def shapeByte (r : Record) (c : List Int) (b : Nat) : Option ByteAt :=
  if r.inShape c then some (.at (r.storage c b) (r.line c b))
  else match r.bmode with
    | 1 => let d := r.clamp c; some (.at (r.storage d b) (r.line d b))
    | 2 => some .zero
    | _ => none

/-- The steps of R191 from the pointer to a readable, well-formed, still record. -/
def findRecord (s : State) (cu ctx : Nat) (node obj : Nat) : Except Miss Record :=
  if 384 ≤ node && node ≤ 510 then .error (.fault .objinv 0)
  else
    match s.ctx? ctx with
    | none => .error (.fault .objinv 1)
    | some x =>
      if x.otLen ≤ obj then .error (.fault .objinv 1)
      else if s.rebuilds.any fun b => b.addr == recordAt x obj || sameObject s b.ctx b.obj ctx obj then .error (.hold none)
      else if damagedAt s (recordAt x obj) 128 then .error (.damaged none)
      else
        let r := recordOf s cu ctx x obj
        if r.state == 0 || r.state == 4 then .error (.fault .objinv 2)
        else if r.state == 3 then .error (.fault .objue 2)
        else if !r.wf then .error (.fault .objinv 3)
        else .ok r

/-- The permission a kind requires (R192). -/
def permitted (r : Record) (k : Kind) (rcv : Bool) : Except Miss Unit :=
  let ok := match k with
    | .read => r.rd | .write => r.wr | .atomic => r.at | .execute => r.ex
  if !ok then .error (.fault .perm k.code)
  else if rcv && !r.du then .error (.fault .perm 4)
  else .ok ()

/-- The entry steps of R191 for one storage offset: its physical place, or why not. -/
def placeOf (s : State) (cu ctx obj : Nat) (r : Record) (S : Nat) : Except Miss Place :=
  let j := S / r.tileBytes
  let e := entryOf s cu ctx obj r j
  let sub := if r.sysm then 0 else S % 65536 / 4096
  if s.rebuilds.any fun b => b.addr == r.tmap + 8 * j then .error (.hold (some j))
  else if damagedAt s (r.tmap + 8 * j) 8 || entDamaged r.sysm e then .error (.damaged (some j))
  else if entState r.sysm e == 3 then .error (.fault .objue 2)
  else if entState r.sysm e == 2 then .error (.hold (some j))
  else if entState r.sysm e == 0 || (!r.sysm && !entPresent e sub) then .error (.notres j sub)
  else if r.sysm then .ok (.host (fld e 63 12 * 4096 + S % 4096) r.hostord)
  else .ok (.phys (entFrame e * 65536 + S % 65536))

/-- A sub-tile of an object is not resident yet, or its record cannot be read. -/
def stillMissing (s : State) (cu ctx obj tile sub : Nat) : Bool :=
  match findRecord s cu ctx 511 obj with
  | .error _ => true
  | .ok r => match placeOf s cu ctx obj r (tile * r.tileBytes + sub * 4096) with
    | .error _ => true
    | .ok _ => false

/-- The first error of a list of results, or all the results. -/
def allOk {ε α : Type} : List (Except ε α) → Except ε (List α)
  | [] => .ok []
  | .error e :: _ => .error e
  | .ok x :: xs => match allOk xs with
    | .ok ys => .ok (x :: ys)
    | .error e => .error e

/-- Where the entry steps of R191 place a miss among them. -/
def Miss.entryStep : Miss → Nat
  | .damaged _ => 0 | .fault _ _ => 1 | .hold _ => 2 | .notres _ _ => 3

/-- The miss of the earliest step of R191 among the bytes of one access, the first byte's where two meet at one step; or every
place. -/
def allPlaced (rs : List (Except Miss Place)) : Except Miss (List Place) :=
  match rs.filterMap fun r => match r with
      | .error m => some m
      | .ok _ => none with
  | [] => allOk rs
  | m :: ms => .error (ms.foldl (fun best x => if x.entryStep < best.entryStep then x else best) m)

/-- The bytes of an access, as coordinates and byte within the element. -/
def linearBytes (r : Record) (off size : Nat) : List (List Int × Nat) :=
  (List.range size).map fun i => (r.coordsOf ((off + i) / r.esize), (off + i) % r.esize)

/-- The bytes of a strong access lie in one line tile and are contiguous in storage (R194). -/
def oneLine : List ByteAt → Bool
  | .at a l :: .at b m :: rest => b == a + 1 && decide (l = m) && oneLine (.at b m :: rest)
  | _ => true

/-- R193 over every byte of an access. -/
def shapeBytes (r : Record) (bs : List (List Int × Nat)) : Option (List ByteAt) :=
  bs.mapM fun cb => shapeByte r cb.1 cb.2

/-- The residency tile of a byte lies beyond the map (R188). -/
def beyondMap (r : Record) : ByteAt → Bool
  | .at S _ => decide (r.tmlen ≤ S / r.tileBytes)
  | .zero => false

/-- Translate from a found record on: moving, permission, shape, tiles (R191). A strong access whose bytes do not lie in one
line tile raises ALIGN before them all (R194, R226). -/
def translateBytes (s : State) (cu ctx obj : Nat) (r : Record) (k : Kind) (rcv strong : Bool)
    (bs : List (List Int × Nat)) : Except Miss (List Place) :=
  if strong && !oneLine ((shapeBytes r bs).getD []) then .error (.fault .align 0)
  else if r.state == 2 then .error (.hold none)
  else match permitted r k rcv with
    | .error m => .error m
    | .ok _ =>
      match shapeBytes r bs with
      | none => .error (.fault .oos 0)
      | some ps =>
        if ps.any (beyondMap r) then .error (.fault .oos 1)
        else allPlaced (ps.map fun p => match p with
          | .zero => .ok .zero
          | .at S _ => placeOf s cu ctx obj r S)

/-- The faults that another device's translation may return to the issuing gang (R185, R191): for an access with a kind, at recovery scope
or not, strong or not; `denied`: an atomic or reduction that no system-memory object takes (R241, R242). -/
def remoteFaults (k : Kind) (rcv strong denied : Bool) : List Miss :=
  [.fault .objinv 0, .fault .objinv 1, .fault .objinv 2, .fault .objinv 3, .fault .objue 0, .fault .objue 1, .fault .objue 2,
    .fault .perm k.code, .fault .oos 0, .fault .oos 1, .fault .notres 0] ++
    (if rcv then [.fault .perm 4] else []) ++ (if denied then [.fault .perm 5] else []) ++
    (if strong then [.fault .align 0] else []) ++ (if k = .write then [] else [.fault .memue 0])

/-- Translate on another device (R185): its bytes, or a fault met there. The device is not in the state, so which is free. -/
def remotePlaces (s : State) (p : W64) (k : Kind) (rcv strong denied : Bool) (skip size : Nat) : Except Miss (List Place) :=
  match (remoteFaults k rcv strong denied)[Config.remoteFault s.tick s.fresh p]? with
  | some m => .error m
  | none => .ok ((List.range size).map fun i => .remote (p + word (skip + i)))

/-- The element size another device's record gives (R185, R233). -/
def remoteElem (s : State) (p : W64) : Nat := 2 ^ (Config.remoteEsz s.tick (word (fld p 63 36)) % 5)

/-- Translate of a linear pointer (R191): the place of each byte. A pointer to another device is translated there. -/
def translate (s : State) (cu ctx : Nat) (p : W64) (k : Kind) (rcv strong : Bool) (size : Nat) :
    Except Miss (List Place) :=
  if isRemote s p then remotePlaces s p k rcv strong false 0 size
  else match findRecord s cu ctx (ptrNode p) (ptrObj p) with
    | .error m => .error m
    | .ok r => translateBytes s cu ctx (ptrObj p) r k rcv strong (linearBytes r (ptrOff p) size)

/-- Translate of one element at coordinates (R191, R233). -/
def translateElem (s : State) (cu ctx : Nat) (p : W64) (c : List Int) (k : Kind) : Except Miss (List Place) :=
  match findRecord s cu ctx (ptrNode p) (ptrObj p) with
  | .error m => .error m
  | .ok r => translateBytes s cu ctx (ptrObj p) r k false false ((List.range r.esize).map fun b => (c, b))

/-- The element size an access at coordinates finds (R233); none where the record cannot be read. -/
def elemSize (s : State) (cu ctx : Nat) (p : W64) : Option Nat :=
  if isRemote s p then some (remoteElem s p)
  else match findRecord s cu ctx (ptrNode p) (ptrObj p) with
    | .ok r => some r.esize
    | .error _ => none

/-- The location of a storage offset whose entry gives it a frame, resident there or not (R203). -/
def frameKey (s : State) (cu ctx obj : Nat) (r : Record) (S : Nat) : Option Key :=
  let e := entryOf s cu ctx obj r (S / r.tileBytes)
  if r.tmlen ≤ S / r.tileBytes || entState r.sysm e == 0 then none
  else if r.sysm then some (hostKey (fld e 63 12 * 4096 + S % 4096))
  else some (entFrame e * 65536 + S % 65536)

/-- The storage offsets of the bytes of a line tile that lie in shape (R202). -/
def lineOffsets (r : Record) (ln : List Nat) : List Nat :=
  (List.range 256).filterMap fun i =>
    let col := ln.getD 0 0 * r.ltBytes + i % r.ltBytes
    let c : List Int := [((col / r.esize : Nat) : Int), ((ln.getD 1 0 * r.ltRows + i / r.ltBytes : Nat) : Int),
      ((ln.getD 2 0 : Nat) : Int), ((ln.getD 3 0 : Nat) : Int)]
    if r.inShape c then some (r.storage c (col % r.esize)) else none

/-- The locations that the bytes of a line tile of an object have in memory (R202, R203). -/
def lineKeys (s : State) (cu ctx obj : Nat) (r : Record) (ln : List Nat) : List Key :=
  (lineOffsets r ln).filterMap (frameKey s cu ctx obj r)

/-- The line tile that holds the byte of a linear pointer (R202). -/
def Record.lineAt (r : Record) (p : W64) : List Nat := r.line (r.coordsOf (ptrOff p / r.esize)) (ptrOff p % r.esize)

/-- The locations of the line tile that a linear pointer's byte lies in; none where its record cannot be read. -/
def lineOf (s : State) (cu ctx : Nat) (p : W64) : List Key :=
  if isRemote s p then []
  else match findRecord s cu ctx (ptrNode p) (ptrObj p) with
    | .error _ => []
    | .ok r => lineKeys s cu ctx (ptrObj p) r (r.lineAt p)

/-- The location that homes the line tile of a pointer: that of its byte with the least storage offset among those that have one (R203),
by which its contribution counter is known (R335). -/
def lineBase (s : State) (cu ctx : Nat) (p : W64) : Option Key :=
  if isRemote s p then none
  else match findRecord s cu ctx (ptrNode p) (ptrObj p) with
    | .error _ => none
    | .ok r =>
      ((lineOffsets r (r.lineAt p)).filterMap fun S => (frameKey s cu ctx (ptrObj p) r S).map fun k => (S, k)).foldl
        (fun (best : Option (Nat × Key)) x => match best with
          | some b => if x.1 < b.1 then some x else best
          | none => some x) none |>.map Prod.snd

/-- Copies of an old record and old entries that walks before a change may have left in a CU and in its die's cache, until a shootdown
removes them (R184, R190): which CUs and dies hold them is free. -/
def leaveCopies (s : State) (ctx obj : Nat) (record : Option Record) (entries : List (Nat × W64)) (skip : Nat → Bool) : State :=
  let rs := match record with
    | some r => [(ctx, obj, r)]
    | none => []
  let es := entries.map fun e => (ctx, obj, e.1, e.2)
  let held (n : Nat) : Bool := (Config.freeWord (s.tick + n)).getLsbD 0
  { s with
    tick := s.tick + 1024
    cus := s.cus.map fun c =>
      if held c.1 && !skip c.1 then (c.1, { c.2 with orc := rs ++ c.2.orc, ttc := es ++ c.2.ttc }) else c
    dies := s.dies.map fun d =>
      if held (512 + d.1) && !(s.cus.any fun c => c.1 / 48 == d.1 && skip c.1) then
        (d.1, { d.2 with dtcRec := rs ++ d.2.dtcRec, dtcEnt := es ++ d.2.dtcEnt })
      else d }

/-- The tiles of an object that translated bytes and a record's storage fall in. -/
def tilesOf (r : Record) (bs : List (List Int × Nat)) : List Nat :=
  ((shapeBytes r bs).getD []).filterMap fun p => match p with
    | .at S _ => some (S / r.tileBytes)
    | .zero => none

/-- A NOTRES drops the faulting entry from the TTC of its CU and from the DTC (R190). -/
def dropEntry (s : State) (cu ctx obj tile : Nat) : State :=
  let keep := fun (e : Nat × Nat × Nat × W64) => !(e.1 == ctx && e.2.1 == obj && e.2.2.1 == tile)
  let s' := if (find s.cus cu).isSome then s.setCu cu { s.cu cu with ttc := (s.cu cu).ttc.filter keep } else s
  if (find s'.dies (cu / 48)).isSome then
    s'.setDie (cu / 48) { s'.die (cu / 48) with dtcEnt := (s'.die (cu / 48)).dtcEnt.filter keep }
  else s'

/-- A shootdown removes an object's copies, under every context's number for it, from every cache of the device and advances every CU's
epoch (R190). -/
def shootdownObject (s : State) (ctx obj : Nat) : State :=
  let keep (c o : Nat) : Bool := !sameObject s ctx obj c o
  { s with
    epoch := !s.epoch
    cus := s.cus.map fun c =>
      (c.1, { c.2 with orc := c.2.orc.filter fun e => keep e.1 e.2.1, ttc := c.2.ttc.filter fun e => keep e.1 e.2.1 })
    dies := s.dies.map fun d =>
      (d.1, { d.2 with dtcRec := d.2.dtcRec.filter fun e => keep e.1 e.2.1, dtcEnt := d.2.dtcEnt.filter fun e => keep e.1 e.2.1 }) }

/-- The parity of a CU's translation epoch (R184). -/
def epochOf (s : State) (cu : Nat) : Bool := s.epoch != (s.cu cu).epoch

/-- The in-flight counter of a CU for an epoch parity: its gangs' accesses translated under it and not yet performed or held (R184). -/
def inFlight (s : State) (cu : Nat) (parity : Bool) : Nat :=
  (s.gangs.filter fun g => 48 * g.2.die + g.2.cu == cu).foldl
    (fun n g => n + (g.2.accesses.filter fun x => x.epoch == parity && !x.held && !x.bytes.any fun b => match b.1 with
      | .remote _ => true
      | _ => false).length) 0

/-- The kind read of the bytes an engine of the device makes for a context, such as the trap log's head. -/
def readObject (s : State) (cu ctx : Nat) (p : W64) (size : Nat) : Except Miss (List Byte) :=
  match translate s cu ctx p .read false false size with
  | .error m => .error m
  | .ok ps => .ok (ps.map fun q => match q with
    | .remote r => Config.remoteByte s.tick s.fresh r
    | q => match q.key with
      | some (k, _) => coherent s k
      | none => 0)

/-- A write an engine of the device makes for a context; nothing is written where it faults. -/
def writeObject (s : State) (cu ctx : Nat) (p : W64) (bs : List Byte) : Option State :=
  match translate s cu ctx p .write false false bs.length with
  | .error _ => none
  | .ok ps => some (performBytes s (cu / 48 % 4) none (ps.zip bs))

end Sys2Proof.Machine
end

