-- ==== Sys2Proof/Machine/Ops.lean ====
section
/-! DEFINITION. The named operations on gangs: registers, predicates, lane PCs, the trap log, barrier words, killing a gang,
taking an exception and returning from one (R53, R71 to R84, R244, R294, R370, R371, R374). -/

namespace Sys2Proof.Machine

/-- The gang under its name. -/
def State.gang? (s : State) (g : Nat) : Option Gang := find s.gangs g

/-- A gang changed. -/
def State.setGang (s : State) (g : Nat) (x : Gang) : State := { s with gangs := put s.gangs g x }

/-- A gang changed by a function, where it exists. -/
def State.onGang (s : State) (g : Nat) (f : Gang → Gang) : State := { s with gangs := change s.gangs g f }

/-- The block under its name. -/
def State.block? (s : State) (b : Nat) : Option Block := find s.blocks b

/-- A block changed by a function, where it exists. -/
def State.onBlock (s : State) (b : Nat) (f : Block → Block) : State := { s with blocks := change s.blocks b f }

/-- A context changed by a function, where it exists. -/
def State.onCtx (s : State) (c : Nat) (f : Context → Context) : State := { s with contexts := change s.contexts c f }

/-- The CU of a gang in the package (R14). -/
def Gang.cuKey (g : Gang) : Nat := 48 * g.die + g.cu

/-- The quarter of a gang in the package (R14). -/
def Gang.qKey (g : Gang) : Nat := 4 * g.cuKey + g.quarter

/-- The quarter under its number. -/
def State.quarter (s : State) (q : Nat) : Quarter := (find s.quarters q).getD Quarter.reset

/-- A quarter changed. -/
def State.setQuarter (s : State) (q : Nat) (x : Quarter) : State := { s with quarters := put s.quarters q x }

/-- A fresh name or ticket, and the state after it. -/
def State.nextName (s : State) : Nat × State := (s.fresh, { s with fresh := s.fresh + 1 })

/-- A free word: any value at all, and the state after drawing it. -/
def State.draw (s : State) : W64 × State := (Config.freeWord s.tick, { s with tick := s.tick + 1 })

/-- Fields of GSTAT (R80). -/
def Gang.curv (g : Gang) : Nat := bits g.gstat.toNat 23 16
def Gang.xver (g : Gang) : Nat := bits g.gstat.toNat 15 8
def Gang.mir (g : Gang) : Bool := g.gstat.getLsbD 5
def Gang.c16 (g : Gang) : Bool := g.gstat.getLsbD 4
def Gang.prot (g : Gang) : Bool := g.gstat.getLsbD 3
def Gang.xferPend (g : Gang) : Bool := g.gstat.getLsbD 2

/-- A 32-bit register with one bit written. -/
def setBit (w : W32) (i : Nat) (b : Bool) : W32 :=
  if b then w ||| BitVec.twoPow 32 i else w &&& ~~~BitVec.twoPow 32 i

/-- Bits [hi:lo] of a 32-bit register written. -/
def setFld (w : W32) (hi lo v : Nat) : W32 :=
  word32 (w.toNat % 2 ^ lo + 2 ^ lo * (v % 2 ^ (hi - lo + 1)) + 2 ^ (hi + 1) * (w.toNat / 2 ^ (hi + 1)))

/-- MODE, GSTAT and TCAUSE without their zero bits, which the K4 ignores (R6, R79, R80, R84). -/
def modeBits (w : W32) : W32 := w &&& 0xFFFFF
def gstatBits (w : W32) : W32 := w &&& 0xFFFF3F
def causeBits (w : W32) : W32 := w &&& 0xFFFFFFBF

/-- Fields of MODE (R79). -/
def modeGuard (m : W32) : Nat := bits m.toNat 4 0
def modeGneg (m : W32) : Bool := m.getLsbD 5
def modeEt (m : W32) : Nat := bits m.toNat 8 6
def modeEc (m : W32) : Nat := bits m.toNat 10 9
def modeFf (m : W32) : Nat := bits m.toNat 13 11
def modeRm (m : W32) : Nat := bits m.toNat 15 14
def modeSat (m : W32) : Bool := m.getLsbD 16
def modeFtz (m : W32) : Bool := m.getLsbD 17
def modeAlog (m : W32) : Bool := m.getLsbD 18
def modeCbsel (m : W32) : Nat := bitNat (m.getLsbD 19)

/-- The key of window register vk of lane l: logical row WB + k (R74). -/
def Gang.vKey (g : Gang) (k l : Nat) : Nat := 32 * (g.wb + k) + l

/-- Register field f of lane l: a window register, or a uniform one (R55). -/
def Gang.reg (g : Gang) (f l : Nat) : Reg :=
  if f < 112 then getAt Reg.zero g.v (g.vKey f l) else getAt Reg.zero g.sreg (f - 112)

/-- Register field f of lane l replaced, with its state. -/
def Gang.setReg (g : Gang) (f l : Nat) (r : Reg) : Gang :=
  if f < 112 then { g with v := setAt Reg.zero g.v (g.vKey f l) r }
  else { g with sreg := setAt Reg.zero g.sreg (f - 112) r }

/-- What a read of a register returns: poison when it is dead (R51). -/
def Reg.read (r : Reg) : W64 :=
  match r.st with
  | .dead => poisonWord
  | _ => r.val

/-- A register is empty (R77). -/
def Reg.isEmpty (r : Reg) : Bool :=
  match r.st with
  | .empty _ => true
  | _ => false

/-- The value ReadReg gives (R65). -/
def Gang.read (g : Gang) (f l : Nat) : W64 := (g.reg f l).read

/-- A performance counter of a gang raised (R341). -/
def Gang.count (g : Gang) (n k : Nat) : Gang := { g with perf := setAt 0 g.perf n (getAt 0 g.perf n + word k) }

/-- A write binds a row of a compatibility kernel, as the most recently written, and brings a moved row back; when the bound rows exceed
N the least recently written one moves to L1. The spill counters show both moves (R76, R341). -/
def Gang.bindRow (g : Gang) (row : Nat) : Gang :=
  let order := g.bound.filter (· != row) ++ [row]
  let out := g.boundOut.filter (· != row)
  let inside := order.filter fun r => !out.contains r
  let g1 := if g.boundOut.contains row then g.count 6 1 else g
  if g.nrows < inside.length then { g1.count 5 1 with bound := order, boundOut := inside.headD row :: out }
  else { g1 with bound := order, boundOut := out }

/-- A read brings a moved row back, keeping its place in the order of writes (R76). -/
def Gang.fetchRow (g : Gang) (row : Nat) : Gang :=
  if g.boundOut.contains row then
    let out := g.boundOut.filter (· != row)
    let inside := g.bound.filter fun r => !out.contains r
    if g.nrows < inside.length then
      { (g.count 6 1).count 5 1 with boundOut := ((inside.filter (· != row)).headD row) :: out }
    else { g.count 6 1 with boundOut := out }
  else g

/-- The binding that a write of register field f makes in a compatibility kernel. -/
def Gang.bindField (g : Gang) (f : Nat) : Gang := if g.c16 && f < 112 then g.bindRow (g.wb + f) else g

/-- WriteReg in the lanes of a mask: full and live (R53, R65). -/
def Gang.write (g : Gang) (m : Mask) (f : Nat) (val : Nat → W64) : Gang :=
  if m = 0 then g
  else (lanesOf m).foldl (fun g l => g.setReg f l ⟨val l, .full⟩) (g.bindField f)

/-- MarkEmpty in the lanes of a mask, owed by a ticket (R65). -/
def Gang.markEmpty (g : Gang) (m : Mask) (f : Nat) (ticket : Nat) : Gang :=
  if m = 0 then g
  else (lanesOf m).foldl (fun g l => g.setReg f l ⟨(g.reg f l).val, .empty ticket⟩) (g.bindField f)

/-- Predicate p as a lane mask; 31 reads true in every lane (R56). -/
def Gang.pred (g : Gang) (p : Nat) : Mask := if p = 31 then allLanes else getAt 0 g.p p

/-- WritePred in the lanes of a mask; a write of 31 is discarded (R56). -/
def Gang.setPred (g : Gang) (m : Mask) (p : Nat) (v : Mask) : Gang :=
  if p = 31 then g else { g with p := setAt 0 g.p p ((g.pred p &&& ~~~m) ||| (v &&& m)) }

/-- The lanes in which the guard is true (R79). -/
def Gang.guardMask (g : Gang) : Mask :=
  let m := g.pred (modeGuard g.mode)
  if modeGneg g.mode then ~~~m else m

/-- The non-exited lanes. -/
def Gang.liveLanes (g : Gang) : Mask := ~~~g.exited

/-- A lane's PC (R83). -/
def Gang.pcOf (g : Gang) (l : Nat) : W64 := getAt 0 g.pc l

/-- The lanes of a mask moved to given PCs. -/
def Gang.setPcs (g : Gang) (m : Mask) (pc : Nat → W64) : Gang :=
  { g with pc := (lanesOf m).foldl (fun p l => setAt 0 p l (pc l)) g.pc }

/-- An address with its offset field replaced. -/
def withOff (p : W64) (o : Nat) : W64 := word (fld p 63 36 * 2 ^ 36 + o % 2 ^ 36)

/-- The next slot: 1 to 2, 2 to 3, 3 to slot 1 of the next packet (R46). -/
def nextSlot (pc : W64) : W64 := withOff pc (ptrOff pc + if fld pc 3 2 = 3 then 8 else 4)

/-- The packet that holds a slot (R46). -/
def packetOf (pc : W64) : W64 := withOff pc (ptrOff pc / 16 * 16)

/-- An address at which a lane may stand (R46, R49). -/
def goodPc (pc : W64) : Bool := fld pc 1 0 == 0 && fld pc 3 2 != 0

/-- The lanes of a mask advance to the next slot. -/
def Gang.advance (g : Gang) (m : Mask) : Gang := g.setPcs m fun l => nextSlot (g.pcOf l)

/-- What a lane waits for. -/
def Gang.parkOf (g : Gang) (l : Nat) : Park := getAt .ready g.park l

/-- The lanes of a mask parked, or made ready. -/
def Gang.setPark (g : Gang) (m : Mask) (p : Park) : Gang :=
  { g with park := (lanesOf m).foldl (fun q l => setAt .ready q l p) g.park }

/-- The strand of lane l: the live lanes that hold its PC, within one half under C16 (R18). -/
def Gang.strandOf (g : Gang) (l : Nat) : Mask :=
  maskOf fun m => lane g.liveLanes m && g.pcOf m == g.pcOf l && (!g.c16 || m / 16 == l / 16)

/-- The halves of a gang (R2). -/
def halfMask (h : Nat) : Mask := if h = 0 then 0x0000FFFF else 0xFFFF0000

/-- A lane's number among the lanes its kernel sees: logical lanes under protected launch mode (R376). -/
def Gang.visible (g : Gang) (l : Nat) : Nat := if g.prot then l / 2 else l

/-- The width a kernel sees: 16 lanes under protected launch mode (R376). -/
def Gang.width (g : Gang) : Nat := if g.prot then 16 else 32

/-- The linear index of a gang's block in its grid (R16, R284). A task is the one block of its grid, whatever its tag (R289). -/
def Special.linear (x : Special) : Nat :=
  if x.grid.getD 0 1 ≤ x.block.getD 0 0 then 0
  else x.block.getD 0 0 + x.grid.getD 0 1 * (x.block.getD 1 0 + x.grid.getD 1 1 * x.block.getD 2 0)

/-- Helper(l) of R65: at or beyond the block's lane count or the grid's lane total (R16); logical lanes are counted under
protected launch mode (R376). -/
def Gang.helper (g : Gang) (l : Nat) : Bool :=
  let n := g.width * g.special.gangId + g.visible l
  decide (g.special.blanes ≤ n) || decide (g.special.glanes.toNat ≤ g.special.linear * g.special.blanes + n)

/-- The helper lanes of a gang. -/
def Gang.helpers (g : Gang) : Mask := maskOf g.helper

/-- A performance counter of a die raised (R341). -/
def countDie (s : State) (d n k : Nat) : State :=
  if k = 0 then s else s.setDie d { s.die d with perf := setAt 0 (s.die d).perf n (getAt 0 (s.die d).perf n + word k) }

/-- A die's clock read: it has moved on since it was last looked at, by any number of cycles (R5, R331). -/
def readClock (s : State) (d : Nat) : Nat × State :=
  let x := s.die d
  let c := x.clock + 1 + Config.elapsed s.tick
  (c, { s.setDie d { x with clock := c, periodCycle := x.periodCycle + BitVec.ofNat 12 (c - x.clock) } with tick := s.tick + 1 })

/-- The who word of a trap-log or sample record (R294, R345). -/
def whoWord (g : Gang) (mask : Mask) : W64 :=
  word (mask.toNat * 2 ^ 32 + g.special.gangId * 2 ^ 16 + g.die * 2 ^ 14 + g.cu * 2 ^ 8 + g.quarter * 2 ^ 6 + g.slot)

/-- A trap-log record appended for a context (R294): written at wr mod 2^k, or dropped and counted when the log is full. Where
the log cannot be reached nothing is written; the sequence number rises all the same. -/
def appendRecord (s : State) (cu ctx : Nat) (kind cause : Nat) (pc who detail : W64) : State :=
  match s.ctx? ctx with
  | none => s
  | some x =>
    let s1 := s.onCtx ctx fun x => { x with seq := x.seq + 1 }
    match readObject s cu ctx x.tlog 64 with
    | .error _ => s1
    | .ok head =>
      let w (i : Nat) := bytesW64 ((head.drop (8 * i)).take 8)
      let k := fld (w 2) 4 0
      let rec_ := wordsBytes [word (x.seq % 2 ^ 32 * 2 ^ 32 + cause * 2 ^ 8 + kind), pc, who, detail]
      if (w 0 - w 1).toNat = 2 ^ k then (writeObject s1 cu ctx (x.tlog + 24) (w64Bytes (w 3 + 1))).getD s1
      else
        match writeObject s1 cu ctx (x.tlog + word (64 + 32 * ((w 0).toNat % 2 ^ k))) rec_ with
        | none => s1
        | some s2 => (writeObject s2 cu ctx x.tlog (w64Bytes (w 0 + 1))).getD s2

/-- A record that concerns a gang. -/
def logGang (s : State) (g : Gang) (kind cause : Nat) (pc : W64) (mask : Mask) (detail : W64) : State :=
  appendRecord s g.cuKey g.ctx kind cause pc (whoWord g mask) detail

/-- Codes of the ARITH causes (R294). -/
def Cause.num : Cause → Nat
  | .invalid => 0 | .divzero => 1 | .overflow => 2 | .saturate => 3 | .nanint => 4 | .qscale => 5

/-- A cause that is recorded only under MODE.alog (R114). -/
def Cause.needsAlog : Cause → Bool
  | .invalid => true | .divzero => true | .overflow => true
  | _ => false

/-- LogArith: one record for each cause that an instruction met, in increasing code (R114). The record's approximate PC is that of
the instruction. -/
def logArith (s : State) (id : Nat) (pc : W64) (mask : Mask) (mode : W32) (cs : List Cause) : State :=
  [Cause.invalid, .divzero, .overflow, .saturate, .nanint, .qscale].foldl
    (fun s c =>
      if cs.contains c && (modeAlog mode || !c.needsAlog) then
        match s.gang? id with
        | some g => (logGang s g 0 c.num pc mask 0).onGang id fun g => g.count 10 1
        | none => s
      else s) s

/-- RESYNC's error counts (R281): corrected, uncorrectable, SDC, REGUE, MEMUE, OBJUE, firmware core, fabric. -/
def countError (s : State) (n : Nat) : State := { s with errors := setAt 0 s.errors n (getAt 0 s.errors n + 1) }

/-- The RESYNC count that a kill's code raises. -/
def Code.errorIndex : Code → Option Nat
  | .sdc => some 2 | .regue => some 3 | .memue => some 4 | .objue => some 5
  | _ => none

/-- Fields of a barrier word (R207). -/
def barPhase (w : W32) : Bool := w.getLsbD 31
def barAb (w : W32) : Bool := w.getLsbD 30
def barExp (w : W32) : Nat := bits w.toNat 23 12
def barArr (w : W32) : Nat := bits w.toNat 11 0

/-- A barrier word of its fields. -/
def barWord (phase ab : Bool) (exp arr : Nat) : W32 :=
  word32 (bitNat phase * 2 ^ 31 + bitNat ab * 2 ^ 30 + exp % 4096 * 2 ^ 12 + arr % 4096)

/-- A gang whose lanes at a barrier are released: predicate d of every live lane, BARAB when it completes an abandoned phase, and
the strand goes on (R244, R247). -/
def releaseBar (g : Gang) (ab : Bool) (p : Park) : Gang :=
  match p with
  | .bar w _ d =>
    let m := maskOf fun l => decide (g.parkOf l = p)
    let g1 := (g.setPred g.liveLanes d (if ab then allLanes else 0)).advance m
    { g1.setPark m .ready with arrivedBars := g1.arrivedBars.filter (· != w), gstat := setBit g1.gstat 1 (ab || g1.gstat.getLsbD 1) }
  | .cbar w _ d =>
    let m := maskOf fun l => decide (g.parkOf l = p)
    let g1 := (g.setPred g.liveLanes d (if ab then allLanes else 0)).advance m
    { g1.setPark m .ready with arrivedCbars := g1.arrivedCbars.filter (· != w), gstat := setBit g1.gstat 1 (ab || g1.gstat.getLsbD 1) }
  | .barHold _ _ _ => g.setPark (maskOf fun l => decide (g.parkOf l = p)) .ready
  | _ => g

/-- A park condition that waits to leave a phase of a word. -/
def waitsOn (cluster : Bool) (w : Nat) (old : Bool) : Park → Bool
  | .bar w' ph _ => !cluster && w' == w && ph == old
  | .cbar w' ph _ => cluster && w' == w && ph == old
  | .barHold w' ph c => c == cluster && w' == w && ph == old
  | _ => false

/-- The gangs of a block or cluster that wait on a word leave the phase that ends (R244); a gang released from a cluster barrier
acquires at scope CLU (R246). Released gangs read the word again when they were held for the next phase. -/
def releasePhase (s : State) (gs : List Nat) (cluster : Bool) (w : Nat) (old ab : Bool) : State :=
  let t := gs.foldl (fun s id => s.onGang id fun g =>
    let g0 := if cluster then { g with arrivedCbars := g.arrivedCbars.filter (· != w) }
              else { g with arrivedBars := g.arrivedBars.filter (· != w) }
    (laneNumbers.foldl (fun g l => if waitsOn cluster w old (g.parkOf l) then releaseBar g ab (g.parkOf l) else g) g0)) s
  if cluster then gs.foldl (fun s id => match s.gang? id with
    | some g => invalidateL1 s g.cuKey
    | none => s) t
  else t

/-- The gangs of a block. -/
def blockGangs (s : State) (b : Nat) : List Nat := match s.block? b with
  | some x => x.gangs
  | none => []

/-- The cluster a block belongs to. -/
def clusterOf (s : State) (b : Nat) : Nat := match s.block? b with
  | some x => x.cluster
  | none => 0

/-- The gangs of a cluster. -/
def clusterGangs (s : State) (c : Nat) : List Nat := match find s.clusters c with
  | some x => x.blocks.flatMap (blockGangs s)
  | none => []

/-- A gang counts at a barrier: it has a live lane that is no helper (R17, R244). A killed gang counts no more. -/
def Gang.counts (g : Gang) : Bool := !g.killed && g.liveLanes &&& ~~~g.helpers != 0

/-- How many of some gangs count. -/
def countOf (s : State) (gs : List Nat) : Nat :=
  (gs.filter fun id => match s.gang? id with
    | some g => g.counts
    | none => false).length

/-- The barrier word of a block, or of its cluster. -/
def barGet (s : State) (cluster : Bool) (b w : Nat) : W32 :=
  if cluster then (match find s.clusters (clusterOf s b) with
    | some c => getAt 0 c.words w
    | none => 0)
  else match s.block? b with
    | some x => getAt 0 x.bars w
    | none => 0

/-- The barrier word written. -/
def barSet (s : State) (cluster : Bool) (b w : Nat) (v : W32) : State :=
  if cluster then { s with clusters := change s.clusters (clusterOf s b) fun c => { c with words := setAt 0 c.words w v } }
  else s.onBlock b fun x => { x with bars := setAt 0 x.bars w v }

/-- The gangs that share a barrier word. -/
def barGangs (s : State) (cluster : Bool) (b : Nat) : List Nat :=
  if cluster then clusterGangs s (clusterOf s b) else blockGangs s b

/-- The word's current phase began with a given count. -/
def barGiven (s : State) (cluster : Bool) (b w : Nat) : Bool :=
  if cluster then (match find s.clusters (clusterOf s b) with
    | some c => c.given.contains w
    | none => false)
  else match s.block? b with
    | some x => x.given.contains w
    | none => false

/-- Notes whether a word's phase has a given count. -/
def setGiven (s : State) (cluster : Bool) (b w : Nat) (yes : Bool) : State :=
  let upd (l : List Nat) := if yes then w :: l.filter (· != w) else l.filter (· != w)
  if cluster then { s with clusters := change s.clusters (clusterOf s b) fun c => { c with given := upd c.given } }
  else s.onBlock b fun x => { x with given := upd x.given }

/-- A phase ends: the phase bit flips, the counts clear, the waiting gangs go on (R244). -/
def completePhase (s : State) (cluster : Bool) (b w : Nat) : State :=
  let v := barGet s cluster b w
  let s1 := setGiven (barSet s cluster b w (barWord (!barPhase v) (barAb v) 0 0)) cluster b w false
  releasePhase s1 (barGangs s cluster b) cluster w (barPhase v) (barAb v)

/-- A gang's arrival at a word (R244): the first arrival of a phase sets the expected number, and the phase ends when it is
reached, or at once on an abandoned word. A count of 0 or above 32 ends it at the first arrival. -/
def arriveBar (s : State) (cluster : Bool) (b w : Nat) (cnt : Option Nat) : State :=
  let v := barGet s cluster b w
  let first := barArr v == 0
  let exp := if !first then barExp v else match cnt with
    | none => countOf s (barGangs s cluster b)
    | some n => if n = 0 || 32 < n then 1 else n
  let arr := barArr v + 1
  let s1 := barSet s cluster b w (barWord (barPhase v) (barAb v) exp arr)
  let s2 := if first then setGiven s1 cluster b w cnt.isSome else s1
  if exp ≤ arr || barAb v then completePhase s2 cluster b w else s2

/-- A gang's last counted lane has exited: words in whose phase it has not arrived expect one fewer (R244). -/
def leaveBars (s : State) (id b : Nat) : State :=
  match s.gang? id with
  | none => s
  | some g =>
    let one (cluster : Bool) (arrived : List Nat) (s : State) (w : Nat) : State :=
      let v := barGet s cluster b w
      if barArr v != 0 && !arrived.contains w && !barGiven s cluster b w then
        let s1 := barSet s cluster b w (barWord (barPhase v) (barAb v) (barExp v - 1) (barArr v))
        if barExp v - 1 ≤ barArr v then completePhase s1 cluster b w else s1
      else s
    let s1 := (List.range 32).foldl (one false g.arrivedBars) s
    (List.range 8).foldl (one true g.arrivedCbars) s1

/-- A kill abandons every word of the gang's block and cluster, and every phase in progress ends at once (R244, R249). -/
def abandonBars (s : State) (b : Nat) : State :=
  let one (cluster : Bool) (s : State) (w : Nat) : State :=
    let v := barGet s cluster b w
    let s1 := barSet s cluster b w (barWord (barPhase v) true (barExp v) (barArr v))
    if barArr v = 0 then s1 else completePhase s1 cluster b w
  (List.range 8).foldl (one true) ((List.range 32).foldl (one false) s)

/-- TCAUSE as trap entry writes it (R84): code, precise bit, detail. -/
def causeWord (code detail : Nat) (precise : Bool) : W32 :=
  word32 (code + bitNat precise * 2 ^ 7 + detail % 2 ^ 24 * 2 ^ 8)

/-- A pending transfer of a gang that ends before its strands park: status NONE, and an XFERNONE record (R305, R318). -/
def endTransferNone (s : State) (id : Nat) : State :=
  match s.gang? id with
  | none => s
  | some g =>
    if g.xferPend then
      let s1 := logGang s g 2 Code.xfernone.num (g.pcOf (lowestLane g.liveLanes)) g.liveLanes (word g.xver)
      s1.onGang id fun g => { g with gstat := setFld (setBit g.gstat 2 false) 15 8 10 }
    else s

/-- A stopped gang no longer competes: its run ends. -/
def stopRuns (s : State) (id : Nat) : State :=
  { s with
    quarters := s.quarters.map fun (q : Nat × Quarter) => match q.2.run with
      | some r => if r.gang = id then (q.1, { q.2 with run := none }) else q
      | none => q
    focus := match s.focus with
      | some q => match (s.quarter q).run with
        | some r => if r.gang = id then none else some q
        | none => some q
      | none => none }

/-- Lanes parked in a way that a change elsewhere may end take their instruction again. -/
def wakeParked (p : Park → Bool) (g : Gang) : Gang :=
  { g with park := g.park.filter fun e => !p e.2 }

/-- Partners parked at a rendezvous take their MMAQ again: they will find that a participant has ended (R172). -/
def wakePartners (s : State) (g : Gang) : State :=
  { s with gangs := s.gangs.map fun (h : Nat × Gang) =>
      if h.2.block == g.block && h.2.special.gangId / 4 == g.special.gangId / 4 then
        (h.1, wakeParked (fun p => decide (p = .rendezvous)) h.2) else h }

/-- Killing a gang (R374). Accesses performed stand, stores that its block or cluster has seen among them (R266); the rest, and the results
it is owed, are gone. -/
def killGang (s : State) (id : Nat) (code : Code) (detail : Nat) (precise : Bool) (pc : W64) (tl : Mask) : State :=
  match s.gang? id with
  | none => s
  | some g =>
    if g.killed then s
    else
      let g1 : Gang := { g with
        killed := true, halted := g.halted ||| g.liveLanes,
        haltReason := (lanesOf g.liveLanes).foldl (fun h l => setAt .none h l .killed) g.haltReason,
        tcause := causeWord code.num detail precise, tpc := pc, tlanes := tl,
        pending := [], accesses := g.accesses.filter fun x => x.shown.isSome, copies := [], counted := [], remotes := [],
        contribs := [], checkpoint := none, armed := none, sampled := [] }
      let s1 := (s.setGang id g1)
      let s2 := { s1 with cus := s1.cus.map fun c =>
        (c.1, { c.2 with
          replay := c.2.replay.filter fun h => h.gang != id
          replayWait := c.2.replayWait.filter fun h => h.gang != id }) }
      let s3 := wakePartners (stopRuns (endTransferNone (abandonBars s2 g.block) id) id) g1
      let s4 := match code.errorIndex with
        | some n => countError s3 n
        | none => s3
      logGang s4 g1 2 code.num pc tl (word (detail % 2 ^ 24))

/-- A gang halted by a class-H trap in its handler: reason NESTED, trap state as it was, and a record (R84, R370). -/
def haltNested (s : State) (id : Nat) (code : Code) (detail : Nat) (pc : W64) (tl : Mask) : State :=
  match s.gang? id with
  | none => s
  | some g =>
    let g1 : Gang := { g with
      halted := g.halted ||| g.liveLanes
      haltReason := (lanesOf g.liveLanes).foldl
        (fun h l => if getAt .none h l = .none then setAt .none h l .nested else h) g.haltReason }
    logGang (stopRuns (s.setGang id g1) id) g1 2 code.num pc tl (word (detail % 2 ^ 24))

/-- A gang that is not eligible loses its promotion and the count it has built up (R23, R24). -/
def Gang.loseTurn (g : Gang) : Gang := { g with waited := 0, promoted := none }

/-- The handler offset for the running version, none where R370 finds no handler. -/
def handlerOf (s : State) (g : Gang) : Option Nat :=
  match s.ctx? g.ctx with
  | none => none
  | some x =>
    match readObject s g.cuKey g.ctx (x.tlog + 32) 8 with
    | .error _ => none
    | .ok pb =>
      let p := bytesW64 pb
      if p = 0 then none
      else match readObject s g.cuKey g.ctx (p + word (8 * g.curv)) 8 with
        | .error _ => none
        | .ok eb =>
          let e := bytesW64 eb
          if e = 0 || !goodPc (word (fld e 35 0)) then none else some (fld e 35 0)

/-- A read that is held, its tile moving or its record under rebuild (R195, R198). -/
def isHeld {α : Type} : Except Miss α → Bool
  | .error (.hold _) => true
  | _ => false

/-- The reads that find the handler are held, and the trap with them (R195, R370). -/
def handlerHeld (s : State) (g : Gang) : Bool :=
  match s.ctx? g.ctx with
  | none => false
  | some x => match readObject s g.cuKey g.ctx (x.tlog + 32) 8 with
    | .ok pb => bytesW64 pb != 0 && isHeld (readObject s g.cuKey g.ctx (bytesW64 pb + word (8 * g.curv)) 8)
    | r => isHeld r

/-- A class-H trap of a gang would kill it: no handler runs and none is found (R84, R370). -/
def trapKills (s : State) (id : Nat) : Bool :=
  match s.gang? id with
  | none => false
  | some g => !g.tmask.getLsbD 0 && (handlerOf s g).isNone && !handlerHeld s g

/-- TAKING AN EXCEPTION: a class-H trap of the strand `m` of gang `id` at `pc` (R84, R370). With TMASK[0] set the gang halts
NESTED; with no handler it is killed; otherwise the trap state is written and the strand enters the handler. While the handler's entry
cannot be read, the strand waits with its trap. -/
def takeTrap (s : State) (id : Nat) (m : Mask) (pc : W64) (code : Code) (detail : Nat) (tl : Mask) : State :=
  match s.gang? id with
  | none => s
  | some g =>
    if g.tmask.getLsbD 0 then haltNested s id code detail pc tl
    else match handlerOf s g with
      | none =>
        if handlerHeld s g then stopRuns (s.setGang id (g.setPark m (.trapped code.num detail pc tl))) id
        else killGang s id code detail true pc tl
      | some o =>
        let g1 := (g.setPcs m fun l => withOff (g.pcOf l) o).setPark m .ready
        stopRuns (s.setGang id { g1 with
          tcause := causeWord code.num detail true, tpc := pc, tlanes := tl, tmask := 1, handlerLanes := m }) id

/-- RETURN FROM AN EXCEPTION: the new PC of each lane of the strand under RTT x (R156, R371). -/
def returnPc (g : Gang) (x : Nat) (l : Nat) : W64 :=
  let partialDone := g.tcause.getLsbD 7 && g.tcause.getLsbD 31 &&
    [Code.align, .oos, .notres, .perm, .objinv].any fun c => c.num == bits g.tcause.toNat 5 0
  if x = 0 && (!partialDone || lane g.tlanes l) then g.tpc else nextSlot g.tpc

/-- RTT's move: TMASK[0] clears, the strand's lanes go to their places, and the other strands go on (R156, R371). -/
def returnTrap (g : Gang) (m : Mask) (x : Nat) : Gang :=
  { g.setPcs m (returnPc g x) with tmask := 0, handlerLanes := 0 }

end Sys2Proof.Machine
end

