-- ==== Sys2Proof/Machine/Operands.lean ====
section
/-! DEFINITION. What each instruction reads and writes, and the checks every instruction shares: the control byte, the
register fields, the MODE combination, a direct target, empty sources (R38, R49 to R56, R62, R73). -/

namespace Sys2Proof.Machine

/-- What an instruction finds at its issue: its gang as it stood, the issuing strand, and the tiles of its quarter (R82). -/
structure Env where
  id : Nat
  iss : Issue
  g : Gang
  tiles : Nat
  /-- SystemContext() of R65. -/
  sys : Bool
  deriving DecidableEq, Repr

/-- The operand slots a hint governs (R50). -/
inductive Slot where
  | a | b | d
  deriving DecidableEq, Repr

/-- The lanes in which a source is read. -/
inductive Readers where
  /-- The lanes active for the instruction. -/
  | active
  /-- Every lane of the strand: instructions that ignore the guard. -/
  | strand
  /-- Once: the s register, or the lowest-numbered lane of the strand (R315). -/
  | once
  /-- A given set of lanes (R129). -/
  | given (m : Mask)
  deriving DecidableEq, Repr

/-- A source: its slot, first register, number of consecutive registers, and readers. -/
structure Source where
  slot : Slot
  reg : Nat
  n : Nat
  readers : Readers
  deriving DecidableEq, Repr

/-- What R62 needs to know of an instruction. -/
structure Operands where
  /-- Sources in the order step 5 checks them. -/
  reads : List Source := []
  /-- Registers written, and further registers that must lie in the window (R73). -/
  writes : List Nat := []
  /-- An s destination is allowed with U = 0 (R54). -/
  uniformDest : Bool := false
  /-- U = 1 is allowed (R54). -/
  uOk : Bool := false
  /-- MODE.guard is honoured. -/
  guarded : Bool := true
  /-- The MODE combination and the other field values that depend on the gang are allowed. -/
  ok : Bool := true
  /-- A direct target's offset field (R59). -/
  target : Option Nat := none
  deriving DecidableEq, Repr

/-- The combinations of R38. -/
def modeValid (m : W32) : Bool :=
  if modeEc m ≤ 1 then decide (modeEt m ≤ 4)
  else modeEc m == 2 && ((modeEt m == 0 && modeFf m == 0) || (modeEt m == 1 && modeFf m == 1) ||
    (modeEt m == 2 && (modeFf m == 2 || modeFf m == 3)) || (modeEt m == 3 && (modeFf m == 4 || modeFf m == 5)))

/-- R87: an arithmetic instruction needs a valid integer combination. -/
def modeArith (m : W32) : Bool := modeValid m && modeEc m != 2

/-- R113: a float instruction needs a valid float combination. -/
def modeFloat (m : W32) : Bool := modeValid m && modeEc m == 2

/-- R123, R127: FP32, BF16 or FP16. -/
def modeNarrow (m : W32) : Bool := modeFloat m && 1 ≤ modeFf m && modeFf m ≤ 3

/-- R128: CBENC and CBDEC. -/
def modeBook (m : W32) : Bool := modeEc m == 2 && modeFf m == 6

/-- R129: the element width alone. -/
def modeWidth (m : W32) : Bool := decide (modeEt m ≤ 4)

/-- R135, R136: PACK and UNPACK. -/
def modePack (m : W32) : Bool := 1 ≤ modeEt m && modeEt m ≤ 4 && modeEc m != 3

/-- R240: the variable of an atomic, and the operation it allows on it. -/
def modeAtomic (m : W32) (aop : Nat) : Bool :=
  let int := modeEc m ≤ 1 && modeEt m ≤ 1
  let float := modeEc m == 2 && ((modeEt m == 0 && modeFf m == 0) || (modeEt m == 1 && modeFf m == 1))
  int || (float && (aop ≤ 2 || aop == 6 || aop == 7))

/-- R177: the combinations of ACCRD and ACCWR with their chunks. -/
def modeAcc (m : W32) (sel : Nat) : Bool :=
  modeValid m && ((modeEc m == 2 && modeEt m == 0) || modeEt m == 1 || (modeEt m == 2 && sel ≤ 1) ||
    (modeEt m == 3 && sel == 0))

/-- The element width of MODE.et (R79). -/
def modeW (m : W32) : Nat := 64 / 2 ^ modeEt m

/-- The elements of MODE.et's width in a register (R129). -/
def perReg (m : W32) : Nat := 64 / modeW m

/-- A source read in the active lanes. -/
def srcA (f : BitVec 7) (n : Nat := 1) : Source := ⟨.a, f.toNat, n, .active⟩
def srcB (f : BitVec 7) (n : Nat := 1) : Source := ⟨.b, f.toNat, n, .active⟩
def srcD (f : BitVec 7) (n : Nat := 1) : Source := ⟨.d, f.toNat, n, .active⟩

/-- A source read once. -/
def onceA (f : BitVec 7) : Source := ⟨.a, f.toNat, 1, .once⟩

/-- d ← a op b. -/
def ops3 (ok : Bool) (d a b : BitVec 7) : Operands := { reads := [srcA a, srcB b], writes := [d.toNat], uOk := true, ok := ok }

/-- d ← a op b op d. -/
def ops4 (ok : Bool) (d a b : BitVec 7) : Operands :=
  { reads := [srcA a, srcB b, srcD d], writes := [d.toNat], uOk := true, ok := ok }

/-- d ← op a. -/
def ops2 (ok : Bool) (d a : BitVec 7) : Operands := { reads := [srcA a], writes := [d.toNat], uOk := true, ok := ok }

/-- d ← d op immediate. -/
def opsI (ok : Bool) (d : BitVec 7) : Operands := { reads := [srcD d], writes := [d.toNat], uOk := true, ok := ok }

/-- The elements of a lane's domain (R129, R376). -/
def domainLanes (g : Gang) : Nat := if g.c16 || g.prot then 16 else 32

/-- The lane of a domain that supplies its lane j, for the reader l: the reader's half under C16, its copies under protected launch
mode (R129, R376). -/
def physLane (g : Gang) (l j : Nat) : Nat :=
  if g.prot then 2 * j + l % 2 else if g.c16 then 16 * (l / 16) + j else j

/-- The lane of its domain that lane l is. -/
def domainOf (g : Gang) (l : Nat) : Nat := if g.prot then l / 2 else if g.c16 then l % 16 else l

/-- The source element that XLI moves into element e (R131); none keeps the lane's own. -/
def xliSource (mode delta n e : Nat) : Option Nat :=
  match mode with
  | 0 => if e + delta < n then some (e + delta) else none
  | 1 => if delta ≤ e then some (e - delta) else none
  | 2 => if (e ^^^ delta) < n then some (e ^^^ delta) else none
  | _ => some delta

/-- The physical lanes that supply elements to the active lanes: `from` gives, for a lane and sub-element, the source element. -/
def supplyLanes (g : Gang) (active : Mask) (w : Nat) (from_ : Nat → Nat → Option Nat) : Mask :=
  let per := 64 / w
  maskOf fun p => (lanesOf active).any fun l => (List.range per).any fun i =>
    match from_ l i with
    | some e => p == physLane g l (e / per)
    | none => p == l

/-- The lanes active for an instruction (R65). -/
def activeLanes (e : Env) (guarded : Bool) : Mask :=
  let m := e.iss.lanes &&& e.g.liveLanes
  if guarded then m &&& e.g.guardMask else m

/-- The lanes of the strand. -/
def Env.strand (e : Env) : Mask := e.iss.lanes &&& e.g.liveLanes

/-- The lanes active under the guard. -/
def Env.active (e : Env) : Mask := activeLanes e true

/-- MODE at issue. -/
def Env.mode (e : Env) : W32 := e.g.mode

/-- A value read once: from the s register, or the lowest-numbered lane of the strand. -/
def Env.once (e : Env) (f : BitVec 7) : W64 := e.g.read f.toNat (lowestLane e.strand)

/-- The format word of a matrix instruction: the lowest lane's (R168). -/
def Env.format (e : Env) (f : BitVec 7) : W64 := e.g.read f.toNat (lowestLane e.active)

/-- The lanes whose elements the indices of b select (R130); with m = 1 an index outside the domain selects none. -/
def xlSupply (e : Env) (_a b : BitVec 7) (m : Nat) : Mask :=
  let per := perReg e.mode
  let n := domainLanes e.g * per
  maskOf fun p => (lanesOf e.active).any fun l => (List.range per).any fun i =>
    let k := sub (e.g.read b.toNat l) i (modeW e.mode)
    !(m == 1 && decide (n ≤ k)) && p == physLane e.g l (k % n / per)

/-- The sources of a matrix multiply (R163, R166, R171). -/
def mmaOperands (e : Env) (acc : Nat) (quad sparse : Bool) (a b : BitVec 5) (f : BitVec 7) : Operands :=
  let grouped := fld (e.format f) 13 12 != 0
  { reads := [⟨.a, 4 * a.toNat, if sparse then 2 else 4, .active⟩, ⟨.b, 4 * b.toNat, 4, .active⟩, ⟨.d, f.toNat, 1, .active⟩] ++
      (if grouped then [⟨.d, f.toNat + 1, 2, .active⟩] else []) ++
      (if sparse then [⟨.d, f.toNat + 3, 1, .active⟩] else [])
    writes := [4 * a.toNat + 3] ++ (if f.toNat < 112 then [f.toNat + 3] else [])
    ok := !e.g.prot && decide (acc + (if quad then 3 else 0) < e.tiles) }

/-- An accumulator instruction whose guard is honoured. -/
def accOperands (e : Env) (last : Nat) (reads : List Source) (writes : List Nat) (ok : Bool) : Operands :=
  { reads := reads, writes := writes, ok := ok && !e.g.prot && decide (last < e.tiles) }

/-- The four registers of a group (R175). -/
def groupOf (a : BitVec 5) : List Nat := [4 * a.toNat, 4 * a.toNat + 3]

/-- The descriptions' reads and writes, instruction by instruction, in the order of R60. -/
def operands (e : Env) : Instr → Operands
  | .iadd d a b => ops3 (modeArith e.mode) d a b
  | .isub d a b => ops3 (modeArith e.mode) d a b
  | .iadds d a b => ops3 (modeArith e.mode) d a b
  | .isubs d a b => ops3 (modeArith e.mode) d a b
  | .imul d a b => ops3 (modeArith e.mode) d a b
  | .imulh d a b => ops3 (modeArith e.mode) d a b
  | .imac d a b => ops4 (modeArith e.mode) d a b
  | .idiv d a b => ops3 (modeArith e.mode) d a b
  | .irem d a b => ops3 (modeArith e.mode) d a b
  | .imin d a b => ops3 (modeArith e.mode) d a b
  | .imax d a b => ops3 (modeArith e.mode) d a b
  | .iabs d a => ops2 (modeArith e.mode) d a
  | .ineg d a => ops2 (modeArith e.mode) d a
  | .and d a b => ops3 true d a b
  | .or d a b => ops3 true d a b
  | .xor d a b => ops3 true d a b
  | .andn d a b => ops3 true d a b
  | .not d a => ops2 true d a
  | .shl d a b => ops3 (modeValid e.mode) d a b
  | .shr d a b => ops3 (modeValid e.mode) d a b
  | .sar d a b => ops3 (modeValid e.mode) d a b
  | .rotl d a b => ops3 (modeValid e.mode) d a b
  | .bfx d a b _ => ops3 true d a b
  | .bfi d a b => ops4 true d a b
  | .popc d a => ops2 (modeValid e.mode) d a
  | .clz d a => ops2 (modeValid e.mode) d a
  | .ctz d a => ops2 (modeValid e.mode) d a
  | .brev d a => ops2 (modeValid e.mode) d a
  | .bytep d a b => ops3 true d a b
  | .sel d a b _ => ops3 true d a b
  | .mov d a => ops2 true d a
  | .lea d a b _ => ops3 true d a b
  | .icmp _ a b _ => { reads := [srcA a, srcB b], uOk := true, ok := modeArith e.mode }
  | .iaddi d _ => opsI (modeArith e.mode) d
  | .movi d _ => { writes := [d.toNat], uOk := true }
  | .movk0 d _ => opsI true d
  | .movk1 d _ => opsI true d
  | .movk2 d _ => opsI true d
  | .movk3 d _ => opsI true d
  | .icmpi _ a _ _ => { reads := [srcA a], uOk := true, ok := modeArith e.mode }
  | .andi d _ => opsI true d
  | .ori d _ => opsI true d
  | .xori d _ => opsI true d
  | .shli d a _ => ops2 (modeValid e.mode) d a
  | .shri d a _ => ops2 (modeValid e.mode) d a
  | .sari d a _ => ops2 (modeValid e.mode) d a
  | .imuli d _ => opsI (modeArith e.mode) d
  | .dot4 d a b _ => ops4 true d a b
  | .plop .. => {}
  | .p2v d _ _ => { writes := [d.toNat] }
  | .v2p _ a _ => { reads := [srcA a] }
  | .vote d _ x => { writes := if x.toNat = 2 then [d.toNat] else [], uniformDest := true }
  | .setmode _ => { guarded := false }
  | .setmodeh _ => { guarded := false }
  | .getmode d => { writes := [d.toNat], uniformDest := true }
  | .xl d a b x =>
    { reads := [srcB b, ⟨.a, a.toNat, 1, .given (xlSupply e a b x.toNat)⟩], writes := [d.toNat], ok := modeWidth e.mode }
  | .xli d a delta m =>
    let n := domainLanes e.g * (64 / modeW e.mode)
    { reads := [⟨.a, a.toNat, 1, .given (supplyLanes e.g e.active (modeW e.mode) fun l i =>
        xliSource m.toNat delta.toNat n (domainOf e.g l * (64 / modeW e.mode) + i))⟩], writes := [d.toNat]
      ok := modeWidth e.mode && (m.toNat != 3 || delta.toNat < n) }
  | .qx d a h g f c =>
    { reads := [⟨.a, a.toNat, 1, .given (maskOf fun p => (lanesOf e.active).any fun l =>
        p == physLane e.g l (domainOf e.g l / 4 * 4 + ([c, f, g, h].getD (domainOf e.g l % 4) 0).toNat))⟩]
      writes := [d.toNat] }
  | .gred d a _ => { reads := [srcA a], writes := [d.toNat], uniformDest := true, ok := modeValid e.mode }
  | .gscan d a _ _ => { reads := [srcA a], writes := [d.toNat], ok := modeValid e.mode }
  | .pack d a b _ => { reads := [srcA a, srcB b], writes := [d.toNat], ok := modePack e.mode }
  | .unpack d a _ => { reads := [srcA a], writes := [d.toNat], ok := modePack e.mode }
  | .specr d _ => { writes := [d.toNat], uniformDest := true, uOk := true }
  | .fadd d a b => ops3 (modeFloat e.mode) d a b
  | .fsub d a b => ops3 (modeFloat e.mode) d a b
  | .fmul d a b => ops3 (modeFloat e.mode) d a b
  | .fma d a b => ops4 (modeFloat e.mode) d a b
  | .fms d a b => ops4 (modeFloat e.mode) d a b
  | .fnma d a b => ops4 (modeFloat e.mode) d a b
  | .fmin d a b => ops3 (modeFloat e.mode) d a b
  | .fmax d a b => ops3 (modeFloat e.mode) d a b
  | .fabs d a => ops2 (modeFloat e.mode) d a
  | .fneg d a => ops2 (modeFloat e.mode) d a
  | .fcmp _ a b _ => { reads := [srcA a, srcB b], uOk := true, ok := modeFloat e.mode }
  | .fclass d a => ops2 (modeFloat e.mode) d a
  | .fdiv d a b => ops3 (modeFloat e.mode) d a b
  | .fsqrt d a => ops2 (modeFloat e.mode) d a
  | .fscale d a b => ops3 (modeFloat e.mode) d a b
  | .rnd d a => ops2 (modeFloat e.mode) d a
  | .frcp d a => ops2 (modeNarrow e.mode) d a
  | .frsq d a => ops2 (modeNarrow e.mode) d a
  | .fexp2 d a => ops2 (modeNarrow e.mode) d a
  | .flog2 d a => ops2 (modeNarrow e.mode) d a
  | .fsinpi d a => ops2 (modeNarrow e.mode) d a
  | .fcospi d a => ops2 (modeNarrow e.mode) d a
  | .ftanh d a => ops2 (modeNarrow e.mode) d a
  | .cvt d a k _ _ =>
    { reads := [srcA a] ++ (if k = 1 then [srcD d] else []), writes := [d.toNat], uOk := true }
  | .cvtg d a b _ => ops3 (modeNarrow e.mode) d a b
  | .cbenc d a _ => ops2 (modeBook e.mode) d a
  | .cbdec d a _ => ops2 (modeBook e.mode) d a
  | .bra _ _ o => { guarded := false, target := some o.toNat }
  | .jmpi a _ => { reads := [⟨.a, a.toNat, 1, .strand⟩], guarded := false }
  | .call sf o => { guarded := false, target := some o.toNat, ok := decide (sf.toNat ≤ e.g.wsize) }
  | .calli a sf => { reads := [⟨.a, a.toNat, 1, .strand⟩], guarded := false, ok := decide (sf.toNat ≤ e.g.wsize) }
  | .ret => { guarded := false }
  | .meet _ a sf => { reads := if sf = 1 then [onceA a] else [], guarded := false }
  | .join _ => { guarded := false }
  | .yield => { guarded := false }
  | .yieldw _ _ o => { guarded := false, target := some o.toNat }
  | .exit a n => { reads := if n = 0 then [] else [⟨.a, a.toNat, 1, .given (e.active &&& ~~~e.g.helpers)⟩] }
  | .give im =>
    { guarded := false
      ok := e.g.wb == 0 && !e.g.c16 && decide (im.toNat + 8 ≤ e.g.wsize) }
  | .claim im => { guarded := false, ok := e.g.wb == 0 && !e.g.c16 && decide (e.g.wsize + im.toNat ≤ 112) }
  | .trap _ => { guarded := false }
  | .rtt _ => { guarded := false }
  | .tmask _ => { guarded := false }
  | .halt => {}
  | .nop => { guarded := false }
  | .ld d a _ _ w => { reads := [srcA a], writes := d.toNat :: (if w = 4 then [d.toNat + 1] else []) }
  | .st d a _ _ w => { reads := [srcA a, srcD d (if w = 4 then 2 else 1)] }
  | .lds d a _ _ w => { reads := [srcA a], writes := d.toNat :: (if w = 4 then [d.toNat + 1] else []) }
  | .sts d a _ _ w => { reads := [srcA a, srcD d (if w = 4 then 2 else 1)] }
  | .ldc d a b x => { reads := [srcA a, srcB b (if x = 0 then 2 else 1)], writes := [d.toNat] }
  | .stc d a b x => { reads := [srcA a, srcB b (if x = 0 then 2 else 1), srcD d] }
  | .pref a _ => { reads := [srcA a] }
  | .acp d a b => { reads := [srcA a, srcB b, srcD d] }
  | .acps d a b _ => { reads := [srcA a, srcB b, srcD d] }
  | .acpt d a b _ =>
    { reads := [onceA a, ⟨.b, b.toNat, 2, .once⟩, ⟨.d, d.toNat, 1, .once⟩], guarded := false }
  | .atom d a p _ _ =>
    { reads := [srcA a, srcD d (if p = 1 then 2 else 1)], writes := [d.toNat], ok := modeAtomic e.mode p.toNat }
  | .atoms d a p _ _ =>
    { reads := [srcA a, srcD d (if p = 1 then 2 else 1)], writes := [d.toNat], ok := modeAtomic e.mode p.toNat }
  | .red d a p _ _ => { reads := [srcA a, srcD d], ok := modeAtomic e.mode p.toNat }
  | .redc d a p _ _ => { reads := [srcA a, srcD d], ok := modeAtomic e.mode p.toNat }
  | .bar _ a c _ _ => { reads := if c = 1 then [onceA a] else [], guarded := false }
  | .bara d a c _ _ =>
    { reads := if c = 1 then [onceA a] else [], writes := [d.toNat], uniformDest := true, guarded := false }
  | .barw _ a _ _ => { reads := [onceA a], guarded := false }
  | .cbar _ a c _ _ => { reads := if c = 1 then [onceA a] else [], guarded := false }
  | .fence .. => { guarded := false }
  | .flush a b x =>
    { reads := if x = 0 then [⟨.a, a.toNat, 1, .strand⟩, ⟨.b, b.toNat, 1, .strand⟩] else [], guarded := false }
  | .ckpt a _ => { reads := [onceA a], guarded := false }
  | .waitc .. => { guarded := false }
  | .cntrd d _ => { writes := [d.toNat], uniformDest := true }
  | .bbc d _ => { reads := [⟨.d, d.toNat, 1, .once⟩], guarded := false }
  | .redset d a b x =>
    { reads := if x = 0 then [onceA a, ⟨.b, b.toNat, 1, .once⟩, ⟨.d, d.toNat, 1, .once⟩] else [onceA a]
      guarded := false }
  | .redpoll d a _ => { reads := [srcA a], writes := [d.toNat] }
  | .perfrd d _ => { writes := [d.toNat], uniformDest := true }
  | .sample a k => { reads := if k = 0 then [onceA a] else [], guarded := false }
  | .mma c a b f => mmaOperands e c.toNat false false a b f
  | .mmas c a b f _ => mmaOperands e c.toNat false true a b f
  | .mmaq c a b f _ => mmaOperands e c.toNat true false a b f
  | .mmaqs c a b f _ => mmaOperands e c.toNat true true a b f
  | .accz c sf => { guarded := false, ok := !e.g.prot && decide (c.toNat + 2 ^ sf.toNat ≤ e.tiles) }
  | .accrd c a sf => accOperands e c.toNat [] (groupOf a) (modeAcc e.mode sf.toNat)
  | .accwr c a sf => accOperands e c.toNat [⟨.a, 4 * a.toNat, 4, .active⟩] (groupOf a) (modeAcc e.mode sf.toNat)
  | .accsc c a sf =>
    accOperands e (c.toNat + bitNat (sf.toNat % 2 == 1)) [⟨.a, 4 * a.toNat, 1, .active⟩] [] true
  | .accmax c a sf =>
    accOperands e (c.toNat + bitNat (sf.toNat % 2 == 1))
      (if 2 ≤ sf.toNat then [⟨.a, 4 * a.toNat, 1, .active⟩] else []) [4 * a.toNat] true
  | .accsum c a sf =>
    accOperands e (c.toNat + bitNat (sf.toNat % 2 == 1))
      (if 2 ≤ sf.toNat then [⟨.a, 4 * a.toNat, 1, .active⟩] else []) [4 * a.toNat] true
  | .accst c f _ => { accOperands e c.toNat [⟨.d, f.toNat, 1, .once⟩] [] true with guarded := false }
  | .accld c f _ => { accOperands e c.toNat [⟨.d, f.toNat, 1, .once⟩] [] true with guarded := false }
  | .mtr d a =>
    { reads := [⟨.a, a.toNat, 4, .given allLanes⟩], writes := [d.toNat, d.toNat + 3]
      ok := !e.g.prot && decide (modeEt e.mode ≤ 3) && !(modeEt e.mode == 3 && e.g.c16) }
  | .safept _ => { guarded := false }
  | .xfer a sf _ => { reads := if sf = 1 then [onceA a] else [], guarded := false }
  | .xferq d => { writes := [d.toNat], uniformDest := true }
  | .mcall d _ => { writes := if d.toNat < 112 then [d.toNat + 3] else [], uniformDest := true, guarded := false }
  | .mstore _ a _ => { reads := [onceA a], guarded := false }
  | .dtload _ a _ => { reads := [onceA a], guarded := false }
  | .dtset a o _ => { reads := if o.toNat = 2 then [srcA a] else [] }
  | .dadd d a b _ => { reads := [srcA a, srcB b, srcD d], writes := [d.toNat] }
  | .dsub d a b _ => { reads := [srcA a, srcB b, srcD d], writes := [d.toNat] }
  | .dcmp _ a b _ => { reads := [srcA a, srcB b] }
  | .dconv d a _ => { reads := [srcA a, srcD d], writes := [d.toNat] }
  | .dstate d _ => { writes := [d.toNat] }
  | .cbload a _ => { reads := [onceA a], guarded := false }
  | .cbrd d _ _ => { writes := [d.toNat], uniformDest := true }
  | .sysrd d _ => { writes := [d.toNat], uniformDest := true, guarded := false }
  | .syswr a _ => { reads := [onceA a], guarded := false }
  | .tlog a => { reads := [srcA a] }
  | _ => {}

/-- Fields of the control byte (R50). -/
def ctlE (c : Byte) : Bool := c.getLsbD 0
def ctlU (c : Byte) : Bool := c.getLsbD 1
def hintOf (c : Byte) : Slot → Nat
  | .a => bits c.toNat 3 2
  | .b => bits c.toNat 5 4
  | .d => bits c.toNat 7 6

/-- U = 1 of the issuing slot. -/
def Env.u (e : Env) : Bool := ctlU e.iss.ctl

/-- The registers of a source. -/
def Source.regs (x : Source) : List Nat := (List.range x.n).map fun i => x.reg + i

/-- Step 3 of R62 as far as the gang decides it: hints (R52), U (R54), the window (R73), the guard (R56), and the MODE combination and
limits of the description. -/
def fieldsOk (e : Env) (o : Operands) : Bool :=
  let regs := o.reads.flatMap Source.regs ++ o.writes
  ([Slot.a, .b, .d].all fun x => hintOf e.iss.ctl x == 0 || o.reads.any fun r => r.slot == x) &&
  (if e.u then o.uOk && regs.all fun f => decide (112 ≤ f)
   else o.uniformDest || o.writes.all fun f => decide (f < 112)) &&
  (regs.all fun f => decide (112 ≤ f) || decide (f < e.g.wsize)) &&
  (!o.guarded || modeGuard e.mode < 24 || modeGuard e.mode == 31) && o.ok

/-- The offset of a direct target before it is bounded (R59). -/
def targetOff (pc : W64) (o : Nat) : Int :=
  ((ptrOff (packetOf pc) : Nat) : Int) + signedOf 15 (o / 4) * 16 + ((o % 4 * 4 : Nat) : Int)

/-- Target(off17) (R59, R65). -/
def target (pc : W64) (o : Nat) : W64 := withOff pc (targetOff pc o).toNat

/-- A direct target is bad: slot 0, or an offset outside 0 to 2³⁶ − 1 (R49, R59). -/
def badTarget (pc : W64) (o : Nat) : Bool :=
  o % 4 == 0 || decide (targetOff pc o < 0) || decide ((2 ^ 36 : Nat) ≤ targetOff pc o)

/-- The lanes in which a source is read. -/
def readLanes (e : Env) (o : Operands) (x : Source) : Mask :=
  match x.readers with
  | .active => activeLanes e o.guarded
  | .strand => e.strand
  | .once => if e.strand = 0 then 0 else oneLane (lowestLane e.strand)
  | .given m => if activeLanes e o.guarded = 0 then 0 else m

/-- The lanes in which a hint acts on a source: those active for the instruction, though a v register that is read once is read in one of
them (R51). -/
def hintLanes (e : Env) (o : Operands) (x : Source) : Mask :=
  match x.readers with
  | .given _ => activeLanes e o.guarded
  | .once => if x.reg < 112 then activeLanes e o.guarded else readLanes e o x
  | _ => readLanes e o x

/-- A register of a source is empty in a lane that reads it, or in which its hint acts. -/
def regEmpty (e : Env) (o : Operands) (x : Source) (f : Nat) : Bool :=
  (lanesOf (match x.readers with
    | .once => hintLanes e o x
    | _ => readLanes e o x)).any fun l => (e.g.reg f l).isEmpty

/-- A source is empty in a lane that reads it. -/
def sourceEmpty (e : Env) (o : Operands) (x : Source) : Bool := x.regs.any (regEmpty e o x)

/-- A trapping hint governs an empty register of a source: on this field, or on another that names that register (R51, R52). -/
def trapsEmpty (e : Env) (o : Operands) (x : Source) : Bool :=
  x.regs.any fun f => regEmpty e o x f && o.reads.any fun y => y.regs.contains f && decide (2 ≤ hintOf e.iss.ctl y.slot)

/-- The code of a slot in the detail of EMPTY (R368). -/
def Slot.num : Slot → Nat
  | .a => 0 | .b => 1 | .d => 2

/-- What the shared checks find. -/
inductive Verdict where
  /-- The instruction goes on to its own checks. -/
  | go
  /-- A precise trap. -/
  | trap (code : Code) (detail : Nat)
  /-- An empty source holds the strand (R20). -/
  | wait
  deriving DecidableEq, Repr

/-- Step 5 of R62. DESIGN CHOICE (log 64): an empty source that is to be waited for is waited for before a later one is looked at, though
that one would raise EMPTY. -/
def emptyCheck (e : Env) (o : Operands) : List Source → Verdict
  | [] => .go
  | x :: rest =>
    if sourceEmpty e o x then (if trapsEmpty e o x then .trap .empty x.slot.num else .wait)
    else emptyCheck e o rest

/-- The checks of R62 that every instruction shares, from step 3 on. -/
def verdict (e : Env) (o : Operands) : Verdict :=
  if !fieldsOk e o then .trap .illop 0
  else match o.target with
    | some t => if badTarget e.iss.pc t then .trap .illpk 0 else emptyCheck e o o.reads
    | none => emptyCheck e o o.reads

/-- A last-use hint in the lanes given, and POISONSEEN where a dead register was read (R51). -/
def consumeSource (e : Env) (o : Operands) (m : Mask) (g : Gang) (x : Source) : Gang :=
  let rl := readLanes e o x
  let poison := x.regs.any fun f => (lanesOf rl).any fun l => decide ((e.g.reg f l).st = .dead)
  let g1 := if poison then { g with gstat := setBit g.gstat 0 true } else g
  let g2 := if g1.c16 then x.regs.foldl (fun g f => if f < 112 then g.fetchRow (g.wb + f) else g) g1 else g1
  if hintOf e.iss.ctl x.slot = 2 then
    let dl := hintLanes e o x &&& m
    x.regs.foldl (fun g f => (lanesOf dl).foldl (fun g l => g.setReg f l ⟨(g.reg f l).val, .dead⟩) g) g2
  else g2

/-- The gang after an instruction's reads in the lanes given. -/
def consume (e : Env) (o : Operands) (m : Mask) : Gang := o.reads.foldl (consumeSource e o m) e.g

end Sys2Proof.Machine
end

