-- ==== Sys2Proof/Machine/Flags.lean ====
section
/-! DEFINITION. The conditions and predicates that instructions compute: Holds of R65, comparisons of packed elements, the
classes of elements MODE gives, and the collection of ARITH causes (R88, R104, R114, R120). -/

namespace Sys2Proof.Machine

/-- Holds(cc, x, y) of R65: 0 EQ, 1 NE, 2 LT, 3 LE. -/
def holds (cc : Nat) (x y : Int) : Bool :=
  match cc with
  | 0 => decide (x = y)
  | 1 => decide (x ≠ y)
  | 2 => decide (x < y)
  | _ => decide (x ≤ y)

/-- The condition of FCMP (R120): 0 EQ, 1 LT, 2 LE, 3 UN. -/
def fholds (cc : Nat) (x y : Val) : Bool :=
  if cc = 3 then x.isNan || y.isNan
  else if x.isNan || y.isNan then false
  else match cc with
    | 0 => eqVal x y
    | 1 => ltVal x y
    | _ => !ltVal y x

/-- Sub-element values read by MODE: signed under ec = 0, unsigned otherwise (R88). -/
def elemInt (m : W32) (x : Nat) : Int := intOf (modeEc m != 0) (modeW m) x

/-- The integer sub-elements of a register (R88). -/
def elems (m : W32) (v : W64) : List Int := (subs v (modeW m)).map (elemInt m)

/-- The float format of a valid float MODE (R38). -/
def modeFormat (m : W32) : Format :=
  match modeFf m with
  | 0 => .fp64 | 1 => .fp32 | 2 => .bf16 | 3 => .fp16 | 4 => .e4m3 | _ => .e5m2

/-- The float sub-elements of a register, flushed under MODE.ftz (R113). -/
def felems (m : W32) (v : W64) : List Val :=
  (subs v (modeFormat m).width).map (sourceVal (modeFtz m) (modeFormat m))

/-- RoundTo under MODE (R113). -/
def roundMode (m : W32) (v : Val) : Nat × List Cause :=
  roundFloat (modeFormat m) (modeRm m) (modeSat m) (modeFtz m) v

/-- A register value and the conditions met in making it. -/
abbrev Result := W64 × List Cause

/-- Packs rounded elements, collecting their conditions. -/
def packResults (w : Nat) (rs : List (Nat × List Cause)) : Result := (pack w (rs.map Prod.fst), rs.flatMap Prod.snd)

/-- The conditions met by any of some lanes. -/
def causesOf (m : Mask) (f : Nat → Result) : List Cause := (lanesOf m).flatMap fun l => (f l).2

/-- The mask of the lanes in which a test holds. -/
def predMask (m : Mask) (f : Nat → Bool) : Mask := maskOf fun l => lane m l && f l

/-- GSTAT as GSTATC leaves it: BARAB and POISONSEEN clear (R80). -/
def clearSticky (w : W32) : W32 := w &&& ~~~(3 : W32)

/-- The CODE of a barrier predicate: the word's ab (R247). -/
def barResult (ab : Bool) : Mask := if ab then allLanes else 0

end Sys2Proof.Machine
end

