-- ==== Sys2Proof/Machine/Issue.lean ====
section
/-! DEFINITION. The frame every instruction's meaning is set in: who issues it, the shared checks, waiting, advancing, and writing a
result to a register of each active lane or once (R20, R53, R54, R62, R88, R413). -/

namespace Sys2Proof.Machine

/-- The quarter a gang's block and its tiles lie on: T tiles, or none where a task has them on its own quarter only (R82). -/
def tilesFor (s : State) (g : Gang) : Nat := match s.block? g.block with
  | some b => b.tiles
  | none => 0

/-- The gang's context has system privilege (R63). -/
def systemContext (s : State) (g : Gang) : Bool := match s.ctx? g.ctx with
  | some x => x.system
  | none => false

/-- What the issuing strand finds; none where no strand issues. -/
def envOf (s : State) : Option Env :=
  match s.cur with
  | none => none
  | some iss => match s.gang? iss.gang with
    | none => none
    | some g => some ⟨iss.gang, iss, g, tilesFor s g, systemContext s g⟩

/-- The issuing gang as it now stands. -/
def Env.renew (e : Env) (s : State) : Env := { e with g := (s.gang? e.id).getD e.g }

/-- The strand keeps its place and waits; nothing has issued, and the run ends (R20). -/
def holdAs (e : Env) (p : Park) (s : State) : State :=
  { stopRuns (s.onGang e.id fun g => g.setPark e.strand p) e.id with cur := none }

/-- The strand is held at its instruction, which has not issued, without losing the issue slot (R162, R250, R332). -/
def stallQueue (s : State) : State := { s with cur := none, focus := none }

/-- A precise trap of the issuing strand, TLANES naming the strand; the instruction has not issued (R21, R369). -/
def trapStrand (e : Env) (c : Code) (detail : Nat) (s : State) : State :=
  { takeTrap s e.id e.strand e.iss.pc c detail e.strand with cur := none }

/-- A precise trap with its own TLANES. -/
def trapLanes (e : Env) (c : Code) (detail : Nat) (tl : Mask) (s : State) : State :=
  { takeTrap s e.id e.strand e.iss.pc c detail tl with cur := none }

/-- The shared checks, and the instruction's own effect after them. -/
def settle (i : Instr) (f : Env → State → State) (e : Env) (s : State) : State :=
  match verdict e (operands e i) with
  | .trap c d => trapStrand e c d s
  | .wait => holdAs e .regWait s
  | .go => f e s

/-- An instruction's meaning: its effect where the shared checks pass. -/
def issue (i : Instr) (f : Env → State → State) (s : State) : Out :=
  match envOf s with
  | none => .fault .noIssuingStrand
  | some e => .next (settle i f e s)

/-- Under C16 the halves meet before an instruction that the whole gang issues, and before its checks: the first half to reach it parks,
and both issue it as one once every live lane stands there (R142, R168). -/
def meetHalves (i : Instr) (f : Env → State → State) (e : Env) (s : State) : State :=
  let live := e.g.liveLanes
  if e.g.c16 && e.strand != live then
    if (lanesOf live).all fun l => e.g.pcOf l == e.iss.pc then
      let g := e.g.setPark live .ready
      settle i f { e with g := g, iss := { e.iss with lanes := live } } (s.setGang e.id g)
    else holdAs e .c16meet s
  else settle i f e s

/-- The meaning of an instruction for which the halves of a compatibility gang meet. -/
def issueMet (i : Instr) (f : Env → State → State) (s : State) : Out :=
  match envOf s with
  | none => .fault .noIssuingStrand
  | some e => .next (meetHalves i f e s)

/-- The issuing gang put back with its strand advanced to the next slot. -/
def finish (e : Env) (g : Gang) (s : State) : State := s.setGang e.id (g.advance e.strand)

/-- The gang after the instruction's reads, every active lane having read. -/
def reads (e : Env) (i : Instr) : Gang := consume e (operands e i) allLanes

/-- A result into register d: once when the destination is an s register, and only with a lane active; otherwise in each active
lane (R54, R88, R413). -/
def writeResult (e : Env) (d : BitVec 7) (f : Nat → W64) (g : Gang) : Gang :=
  if 112 ≤ d.toNat then
    (if e.active = 0 then g else g.setReg d.toNat 0 ⟨f (lowestLane e.active), .full⟩)
  else g.write e.active d.toNat f

/-- The lanes whose conditions a result meets: the active lanes, or one lane of a uniform instruction. -/
def resultLanes (e : Env) (d : BitVec 7) : Mask :=
  if 112 ≤ d.toNat then (if e.active = 0 then 0 else oneLane (lowestLane e.active)) else e.active

/-- What an instruction on registers does to its gang, with the conditions it meets. -/
abbrev Fx := Env → Gang → Gang × List Cause

/-- A register result lane by lane. -/
def fxReg (d : BitVec 7) (f : Env → Nat → Result) : Fx := fun e g =>
  (writeResult e d (fun l => (f e l).1) g, causesOf (resultLanes e d) (f e))

/-- A register result without conditions. -/
def fxVal (d : BitVec 7) (f : Env → Nat → W64) : Fx := fun e g => (writeResult e d (f e) g, [])

/-- A predicate result in each active lane; a uniform instruction's one result goes to every active lane (R104). -/
def fxPred (p : Nat) (f : Env → Nat → Bool) : Fx := fun e g =>
  let f' := fun l => if e.u then f e (lowestLane e.active) else f e l
  (g.setPred e.active p (predMask e.active f'), [])

/-- An instruction on registers of fixed latency: reads, result, conditions recorded, advance (R88, R113). -/
def alu (i : Instr) (fx : Fx) (s : State) : Out :=
  issue i (fun e s =>
    let r := fx e (reads e i)
    logArith (finish e r.1 s) e.id e.iss.pc e.active e.mode r.2) s

/-- Values of the fields a, b and d in a lane. -/
def Env.rd (e : Env) (f : BitVec 7) (l : Nat) : W64 := e.g.read f.toNat l

/-- A long-latency result: the destination registers are marked empty and a pending result fills them (R77). -/
def owe (p : Pending) (g : Gang) : Gang := { g with pending := g.pending ++ [p] }

end Sys2Proof.Machine
end

