-- ==== Sys2Proof/Machine/SpecialFn.lean ====
section
/-! DEFINITION. The special functions of R123 and R124: the exact cases, and otherwise one of the results within the bound,
which Config.specialChoice picks. Inexact values are formed in fixed point with 256 fraction bits. -/

namespace Sys2Proof.Machine

/-- The seven special functions (R123). -/
inductive SpecialOp where
  | rcp | rsq | exp2 | log2 | sinpi | cospi | tanh
  deriving DecidableEq, Repr

/-- The opcode of R60, which names the function to Config.specialChoice. -/
def SpecialOp.code : SpecialOp → Nat
  | .rcp => 0x0C0 | .rsq => 0x0C1 | .exp2 => 0x0C2 | .log2 => 0x0C3 | .sinpi => 0x0C4 | .cospi => 0x0C5
  | .tanh => 0x0C6

/-- The bound of R124 in ulps. -/
def SpecialOp.bound (op : SpecialOp) (f : Format) : Nat :=
  match op with
  | .rcp => 1
  | .rsq => 1
  | _ => if f = .fp32 then 2 else 1

/-- Fraction bits of the fixed-point values. -/
def fixBits : Nat := 256

/-- 1 in fixed point. -/
def fixOne : Nat := 2 ^ fixBits

/-- π in fixed point, rounded down. -/
def fixPi : Nat := 0x3243f6a8885a308d313198a2e03707344a4093822299f31d0082efa98ec4e6c89

/-- The natural logarithm of 2 in fixed point, rounded down. -/
def fixLn2 : Nat := 0xb17217f7d1cf79abc9e3b39803f2f6af40f343267298b62d8a0d175b8baafa2b

/-- The base-2 logarithm of e in fixed point, rounded down. -/
def fixLog2e : Nat := 0x171547652b82fe1777d0ffda0d23a7d11d6aef551bad2b4b1164a2cd9a342648f

/-- The product of fixed-point numbers. -/
def fixMul (x y : Nat) : Nat := x * y / fixOne

/-- The exponential series of a fixed-point x, from the term t with index i on. -/
def expSeries (x : Nat) : Nat → Nat → Nat → Nat
  | 0, _, _ => 0
  | fuel + 1, i, t => t + expSeries x fuel (i + 1) (fixMul t x / (i + 1))

/-- 2 to a fixed-point fraction below 1. -/
def fixExp2 (x : Nat) : Nat := expSeries (fixMul x fixLn2) 64 0 fixOne

/-- The series of the inverse hyperbolic tangent, from the odd power p with exponent i on. -/
def atanhSeries (sq : Nat) : Nat → Nat → Nat → Nat
  | 0, _, _ => 0
  | fuel + 1, i, p => p / i + atanhSeries sq fuel (i + 2) (fixMul p sq)

/-- The base-2 logarithm of a fixed-point m from 1 to below 2. -/
def fixLog2 (m : Nat) : Nat :=
  let t := (m - fixOne) * fixOne / (m + fixOne)
  fixMul (2 * atanhSeries (fixMul t t) 90 1 t) fixLog2e

/-- The alternating series of sine or cosine, from the term t with index i on. -/
def trigSeries (sq : Nat) : Nat → Nat → Int → Int
  | 0, _, _ => 0
  | fuel + 1, i, t => t + trigSeries sq fuel (i + 2) (-(t * (sq : Int) / (fixOne : Int) / (((i + 1) * (i + 2) : Nat) : Int)))

/-- sin(πy) for a fixed-point y up to 1/2. -/
def fixSinPi (y : Nat) : Nat :=
  let x := fixMul fixPi y
  (trigSeries (fixMul x x) 40 1 (x : Int)).toNat

/-- The signed index of a float element's bits: the number of representable values from zero. -/
def indexOf (neg : Bool) (mag : Nat) : Int := if neg then -(mag : Int) else (mag : Int)

/-- The value at a signed index, the exponent unbounded above. -/
def valAt (f : Format) (k : Int) : Frac :=
  let mag := k.natAbs
  let e := mag / 2 ^ f.frac
  let sig := if e == 0 then mag else mag % 2 ^ f.frac + 2 ^ f.frac
  let q := if e == 0 then 1 else e
  ⟨(if k < 0 then -1 else 1) * ((sig * 2 ^ (q - (f.bias + f.frac)) : Nat) : Int), 2 ^ ((f.bias + f.frac) - q)⟩

/-- Whether the value at an index lies within `bound` ulps of a nonzero value (R124). -/
def within (f : Format) (bound : Nat) (neg : Bool) (num den : Nat) (k : Int) : Bool :=
  let (n, d) := overPow num den (ulpExp f num den)
  let v := (valAt f k)
  let (vn, vd) := overPow v.num.natAbs v.den (ulpExp f num den)
  let x : Int := if neg then -(n : Int) else n
  let y : Int := if v.num < 0 then -(vn : Int) else vn
  decide ((y * (d : Int) - x * (vd : Int)).natAbs ≤ bound * d * vd)

/-- The results R124 allows near a nonzero value, as sign and magnitude bits: every representable value within the bound,
and both zeros where zero is. -/
def candidates (f : Format) (bound : Nat) (neg : Bool) (num den : Nat) : List (Bool × Nat) :=
  let mid := indexOf neg (roundMag f 1 neg num den)
  let near := (List.range 13).map fun (i : Nat) => mid + (i : Int) - 6
  (near.filter (within f bound neg num den)).flatMap fun k =>
    if k = 0 then [(false, 0), (true, 0)] else [(decide (k < 0), k.natAbs)]

/-- The result of an inexact special function: one of the candidates, with the overflow of R39 under RNE and the flushing of
R41. -/
def chosen (f : Format) (bound choice : Nat) (sat ftz neg : Bool) (num den : Nat) : Nat × List Cause :=
  let cs := candidates f bound neg num den
  let (n, mag) := cs.getD (choice % cs.length) (neg, roundMag f 0 neg num den)
  if mag > f.maxBits then (overflowBits f 0 sat n, overflowCause f sat)
  else if ftz && f.ieee && subnormalBits f mag then (signed f n 0, [])
  else (signed f n mag, [])

/-- What a special function does with a non-NaN source: an exact value with its condition, or an inexact magnitude. -/
inductive SpecialVal where
  | exact (v : Val) (cs : List Cause)
  | near (neg : Bool) (num den : Nat)
  deriving DecidableEq, Repr

/-- A magnitude is a power of two; its exponent. -/
def powerOfTwo (num den : Nat) : Option Int :=
  let e := floorLog num den
  let (n, d) := overPow num den e
  if n == d then some e else none

/-- 2 to an integer as a value. -/
def twoTo (e : Int) : Val :=
  match e with
  | .ofNat k => .fin false (2 ^ k) 1
  | .negSucc k => .fin false 1 (2 ^ (k + 1))

/-- FEXP2 of a finite value. An integer within range is exact; exponents beyond ±1,024 give what ±1,024 gives in the formats
the instruction accepts. -/
def exp2Val (neg : Bool) (n d : Nat) : SpecialVal :=
  if n ≥ 1024 * d then (if neg then .near false 1 (2 ^ 1024) else .exact (twoTo 1024) [])
  else if n % d == 0 then .exact (twoTo (if neg then -((n / d : Nat) : Int) else ((n / d : Nat) : Int))) []
  else
    let lo : Int := if neg then -((n / d + 1 : Nat) : Int) else ((n / d : Nat) : Int)
    let r := n % d * fixOne / d
    let x := if neg then fixOne - r else r
    match lo with
    | .ofNat k => .near false (fixExp2 x * 2 ^ k) fixOne
    | .negSucc k => .near false (fixExp2 x) (fixOne * 2 ^ (k + 1))

/-- FLOG2 of a positive finite value. -/
def log2Val (n d : Nat) : SpecialVal :=
  match powerOfTwo n d with
  | some e => .exact (if e < 0 then .fin true e.natAbs 1 else .fin false e.natAbs 1) []
  | none =>
    let e := floorLog n d
    let (a, b) := overPow n d e
    match e with
    | .ofNat k => .near false (k * fixOne + fixLog2 (a * fixOne / b)) fixOne
    | .negSucc k =>
      if k == 0 then
        -- just below 1 the logarithm is formed from the reciprocal, so that it keeps its leading digits
        .near true (fixLog2 (d * fixOne / n)) fixOne
      else .near true ((k + 1) * fixOne - fixLog2 (a * fixOne / b)) fixOne

/-- sin(πx) or cos(πx) of a finite value: exact at multiples of one half. -/
def trigVal (cos neg : Bool) (n d : Nat) : SpecialVal :=
  let whole := n / d
  let r := n % d
  if r == 0 then
    (if cos then .exact (.fin (whole % 2 == 1) 1 1) [] else .exact (.fin neg 0 1) [])
  else if 2 * r == d then
    (if cos then .exact (.fin false 0 1) [] else .exact (.fin (neg != (whole % 2 == 1)) 1 1) [])
  else
    -- y is the distance to the nearer integer, so sin(πx) = ± sin(πy)
    let up := decide (2 * r > d)
    let y := if up then d - r else r
    if cos then
      -- cos(πx) = ± sin(π(1/2 − y)), which for a small y lies nearer to 1 than fixed point shows, and below it
      if y * 2 ^ 64 ≤ d then .near ((whole % 2 == 1) != up) (2 ^ 180 - 1) (2 ^ 180)
      else .near ((whole % 2 == 1) != up) (fixSinPi ((d - 2 * y) * fixOne / (2 * d))) fixOne
    else .near (neg != (whole % 2 == 1)) (fixSinPi (y * fixOne / d)) fixOne

/-- FTANH of a nonzero finite value: that of a large one lies nearer to 1, and that of a small one nearer to x, than fixed point shows, and
in magnitude below it. -/
def tanhVal (neg : Bool) (n d : Nat) : SpecialVal :=
  if n ≥ 64 * d then .near neg (2 ^ 180 - 1) (2 ^ 180)
  else if n * 2 ^ 64 ≤ d then .near neg (n * (2 ^ 200 - 1)) (d * 2 ^ 200)
  else
    let e := fixMul (2 * n * fixOne / d) fixLog2e
    let x := fixExp2 (e % fixOne) * 2 ^ (e / fixOne)
    .near neg (x - fixOne) (x + fixOne)

/-- The special values, exact cases and inexact values of R124. -/
def specialVal (op : SpecialOp) : Val → SpecialVal
  | .nan => .exact .nan []
  | .inf neg =>
    match op with
    | .rcp => .exact (.fin neg 0 1) []
    | .rsq => if neg then .exact .nan [.invalid] else .exact (.fin false 0 1) []
    | .exp2 => if neg then .exact (.fin false 0 1) [] else .exact (.inf false) []
    | .log2 => if neg then .exact .nan [.invalid] else .exact (.inf false) []
    | .sinpi => .exact .nan [.invalid]
    | .cospi => .exact .nan [.invalid]
    | .tanh => .exact (.fin neg 1 1) []
  | .fin neg n d =>
    match op with
    | .rcp =>
      if n == 0 then .exact (.inf neg) [.divzero]
      else (match powerOfTwo n d with
        | some _ => .exact (.fin neg d n) []
        | none => .near neg d n)
    | .rsq =>
      if n == 0 then .exact (.inf neg) [.divzero]
      else if neg then .exact .nan [.invalid]
      else (match powerOfTwo n d with
        | some e => if e % 2 = 0 then .exact (twoTo (-(e / 2))) []
                    else let (a, b) := sqrtMag 256 d n; .near false a b
        | none => let (a, b) := sqrtMag 256 d n; .near false a b)
    | .exp2 => if n == 0 then .exact (.fin false 1 1) [] else exp2Val neg n d
    | .log2 => if n == 0 then .exact (.inf true) [.divzero] else if neg then .exact .nan [.invalid] else log2Val n d
    | .sinpi => trigVal false neg n d
    | .cospi => trigVal true neg n d
    | .tanh => if n == 0 then .exact (.fin neg 0 1) [] else tanhVal neg n d

/-- A positive magnitude is a finite value of the format. -/
def representable (f : Format) (num den : Nat) : Bool :=
  let k := roundMag f 1 false num den
  let v := valAt f (k : Int)
  decide (k ≤ f.maxBits) && decide (v.num * (den : Int) = (num : Int) * (v.den : Int))

/-- The part's choice for a source (R123). -/
def choiceOf (op : SpecialOp) (f : Format) (ftz sat : Bool) (b : Nat) : Nat :=
  Config.specialChoice op.code f.code (word b) ftz sat

/-- One element of a special function under MODE.ftz and MODE.sat (R123): bits and conditions. -/
def specialElem (op : SpecialOp) (f : Format) (ftz sat : Bool) (b : Nat) : Nat × List Cause :=
  let x := sourceVal ftz f b
  let b' := if x.isZero then signed f x.sign 0 else b
  match specialVal op x with
  | .exact (.fin neg (k + 1) d) cs =>
    -- an exact case that the format cannot hold is not in range, and only the bound governs it
    if representable f (k + 1) d then ((roundFloat f 0 sat ftz (.fin neg (k + 1) d)).1, cs)
    else chosen f (op.bound f) (choiceOf op f ftz sat b') sat ftz neg (k + 1) d
  | .exact v cs => ((roundFloat f 0 sat ftz v).1, cs ++ (roundFloat f 0 sat ftz v).2)
  | .near neg num den => chosen f (op.bound f) (choiceOf op f ftz sat b') sat ftz neg num den

end Sys2Proof.Machine
end

