-- ==== Sys2Proof/Machine/Float.lean ====
section
/-! DEFINITION. Float arithmetic, comparison, special functions and conversion (R113 to R128). -/

namespace Sys2Proof.Machine

/-- Rounds an exact result with its conditions (R113). -/
def roundWith (m : W32) (r : Val × List Cause) : Nat × List Cause :=
  ((roundMode m r.1).1, r.2 ++ (roundMode m r.1).2)

/-- result_i from A_i and B_i (R116). -/
def float2 (f : W32 → Val → Val → Val × List Cause) (a b : BitVec 7) (e : Env) (l : Nat) : Result :=
  packResults (modeFormat e.mode).width (List.zipWith (fun x y => roundWith e.mode (f e.mode x y))
    (felems e.mode (e.rd a l)) (felems e.mode (e.rd b l)))

/-- result_i from A_i. -/
def float1 (f : W32 → Val → Val × List Cause) (a : BitVec 7) (e : Env) (l : Nat) : Result :=
  packResults (modeFormat e.mode).width ((felems e.mode (e.rd a l)).map fun x => roundWith e.mode (f e.mode x))

/-- result_i from A_i, B_i and D_i. -/
def float3 (f : W32 → Val → Val → Val → Val × List Cause) (d a b : BitVec 7) (e : Env) (l : Nat) : Result :=
  packResults (modeFormat e.mode).width (List.zipWith (fun (xy : Val × Val) z => roundWith e.mode (f e.mode xy.1 xy.2 z))
    ((felems e.mode (e.rd a l)).zip (felems e.mode (e.rd b l))) (felems e.mode (e.rd d l)))

/-- A bit operation on float elements (R119). -/
def floatBits (f : Nat → Nat → Nat) (a : BitVec 7) (e : Env) (l : Nat) : W64 :=
  let w := (modeFormat e.mode).width
  pack w ((subs (e.rd a l) w).map (f w))

/-- FSCALE's exponent: beyond ±8,192 every format gives what ±8,192 gives. -/
def scaleBy (w x : Nat) : Int := max (-8192) (min 8192 (signedOf w x))

/-- FSCALE (R116, R117). -/
def scaleLane (a b : BitVec 7) (e : Env) (l : Nat) : Result :=
  let w := (modeFormat e.mode).width
  packResults w (List.zipWith (fun x k => roundWith e.mode (if x.isZero then x else scaleVal (scaleBy w k) x, []))
    (felems e.mode (e.rd a l)) (subs (e.rd b l) w))

/-- FCMP holds when every sub-element does (R120). -/
def fcmpAll (m : W32) (cc : Nat) (a b : W64) : Bool := (List.zipWith (fholds cc) (felems m a) (felems m b)).all id

def fxFadd (d a b : BitVec 7) : Fx := fxReg d (float2 (fun m x y => addVal (modeRm m) x y) a b)
def fxFsub (d a b : BitVec 7) : Fx := fxReg d (float2 (fun m x y => addVal (modeRm m) x y.neg) a b)
def fxFmul (d a b : BitVec 7) : Fx := fxReg d (float2 (fun _ x y => (mulVal x y, mulCauses x y)) a b)
def fxFma (d a b : BitVec 7) : Fx := fxReg d (float3 (fun m x y z => fmaVal (modeRm m) x y z) d a b)
def fxFms (d a b : BitVec 7) : Fx := fxReg d (float3 (fun m x y z => fmaVal (modeRm m) x y z.neg) d a b)
def fxFnma (d a b : BitVec 7) : Fx := fxReg d (float3 (fun m x y z => fmaVal (modeRm m) x.neg y z) d a b)
def fxFmin (d a b : BitVec 7) : Fx := fxReg d (float2 (fun _ x y => (minVal x y, [])) a b)
def fxFmax (d a b : BitVec 7) : Fx := fxReg d (float2 (fun _ x y => (maxVal x y, [])) a b)
def fxFabs (d a : BitVec 7) : Fx := fxVal d (floatBits (fun w x => x % 2 ^ (w - 1)) a)
def fxFneg (d a : BitVec 7) : Fx := fxVal d (floatBits (fun w x => (x + 2 ^ (w - 1)) % 2 ^ w) a)
def fxFcmp (d : BitVec 5) (a b : BitVec 7) (c : BitVec 2) : Fx := fxPred d.toNat fun e l =>
  fcmpAll e.mode c.toNat (e.rd a l) (e.rd b l)
def fxFclass (d a : BitVec 7) : Fx := fxVal d fun e l =>
  let w := (modeFormat e.mode).width
  pack w ((subs (e.rd a l) w).map (classOf (modeFormat e.mode)))
def fxFdiv (d a b : BitVec 7) : Fx := fxReg d (float2 (fun _ x y => divVal x y) a b)
def fxFsqrt (d a : BitVec 7) : Fx := fxReg d (float1 (fun _ x => sqrtVal 60 x) a)
def fxFscale (d a b : BitVec 7) : Fx := fxReg d (scaleLane a b)
def fxRnd (d a : BitVec 7) : Fx := fxReg d (float1 (fun m x => (integralVal (modeRm m) x, [])) a)

/-- FADD (R116). -/
def execFadd (d a b : BitVec 7) (s : State) : Out := alu (.fadd d a b) (fxFadd d a b) s
/-- FSUB (R116). -/
def execFsub (d a b : BitVec 7) (s : State) : Out := alu (.fsub d a b) (fxFsub d a b) s
/-- FMUL (R116). -/
def execFmul (d a b : BitVec 7) (s : State) : Out := alu (.fmul d a b) (fxFmul d a b) s
/-- FMA (R116). -/
def execFma (d a b : BitVec 7) (s : State) : Out := alu (.fma d a b) (fxFma d a b) s
/-- FMS (R116). -/
def execFms (d a b : BitVec 7) (s : State) : Out := alu (.fms d a b) (fxFms d a b) s
/-- FNMA (R116). -/
def execFnma (d a b : BitVec 7) (s : State) : Out := alu (.fnma d a b) (fxFnma d a b) s
/-- FMIN (R118). -/
def execFmin (d a b : BitVec 7) (s : State) : Out := alu (.fmin d a b) (fxFmin d a b) s
/-- FMAX (R118). -/
def execFmax (d a b : BitVec 7) (s : State) : Out := alu (.fmax d a b) (fxFmax d a b) s
/-- FABS (R119). -/
def execFabs (d a : BitVec 7) (s : State) : Out := alu (.fabs d a) (fxFabs d a) s
/-- FNEG (R119). -/
def execFneg (d a : BitVec 7) (s : State) : Out := alu (.fneg d a) (fxFneg d a) s
/-- FCMP (R120). -/
def execFcmp (d : BitVec 5) (a b : BitVec 7) (c : BitVec 2) (s : State) : Out := alu (.fcmp d a b c) (fxFcmp d a b c) s
/-- FCLASS (R121). -/
def execFclass (d a : BitVec 7) (s : State) : Out := alu (.fclass d a) (fxFclass d a) s
/-- FDIV (R116). -/
def execFdiv (d a b : BitVec 7) (s : State) : Out := alu (.fdiv d a b) (fxFdiv d a b) s
/-- FSQRT (R116). -/
def execFsqrt (d a : BitVec 7) (s : State) : Out := alu (.fsqrt d a) (fxFsqrt d a) s
/-- FSCALE (R116). -/
def execFscale (d a b : BitVec 7) (s : State) : Out := alu (.fscale d a b) (fxFscale d a b) s
/-- RND (R122). -/
def execRnd (d a : BitVec 7) (s : State) : Out := alu (.rnd d a) (fxRnd d a) s

/-- One lane of a special function (R123). -/
def specialLane (op : SpecialOp) (a : BitVec 7) (e : Env) (l : Nat) : Result :=
  let f := modeFormat e.mode
  packResults f.width ((subs (e.rd a l) f.width).map (specialElem op f (modeFtz e.mode) (modeSat e.mode)))

/-- The effect of a special function inside a microprogram, whose next instruction waits for the result (R320). -/
def fxSpecial (op : SpecialOp) (d a : BitVec 7) : Fx := fxReg d (specialLane op a)

/-- The registers a result for field f of the lanes of a mask goes to, as keys of the register maps (R74, R78). -/
def pendingFor (e : Env) (ticket : Nat) (m : Mask) (f : Nat) (val : Nat → W64) : Pending :=
  if 112 ≤ f then ⟨ticket, [], if m = 0 then [] else [(f - 112, val (lowestLane m))]⟩
  else ⟨ticket, (lanesOf m).map (fun l => (e.g.vKey f l, val l)), []⟩

/-- A special function: the destination is marked empty, and a result is owed (R77, R123). -/
def special (i : Instr) (op : SpecialOp) (d a : BitVec 7) (s : State) : Out :=
  issue i (fun e s =>
    let t := s.fresh
    let s1 := { s with fresh := s.fresh + 1 }
    let m := resultLanes e d
    let g := ((reads e i).markEmpty m d.toNat t)
    let g := if m = 0 then g else owe (pendingFor e t m d.toNat (fun l => (specialLane op a e l).1)) g
    logArith (finish e g s1) e.id e.iss.pc e.active e.mode (causesOf m (specialLane op a e))) s

/-- FRCP (R123, R124). -/
def execFrcp (d a : BitVec 7) (s : State) : Out := special (.frcp d a) .rcp d a s
/-- FRSQ (R123, R124). -/
def execFrsq (d a : BitVec 7) (s : State) : Out := special (.frsq d a) .rsq d a s
/-- FEXP2 (R123, R124). -/
def execFexp2 (d a : BitVec 7) (s : State) : Out := special (.fexp2 d a) .exp2 d a s
/-- FLOG2 (R123, R124). -/
def execFlog2 (d a : BitVec 7) (s : State) : Out := special (.flog2 d a) .log2 d a s
/-- FSINPI (R123, R124). -/
def execFsinpi (d a : BitVec 7) (s : State) : Out := special (.fsinpi d a) .sinpi d a s
/-- FCOSPI (R123, R124). -/
def execFcospi (d a : BitVec 7) (s : State) : Out := special (.fcospi d a) .cospi d a s
/-- FTANH (R123, R124). -/
def execFtanh (d a : BitVec 7) (s : State) : Out := special (.ftanh d a) .tanh d a s

/-- An element type of CVT (R125). -/
inductive ElemType where
  | float (f : Format)
  | int (uns : Bool) (w : Nat)
  deriving DecidableEq, Repr

/-- The type codes of R125. -/
def elemType (c : Nat) : ElemType :=
  match c with
  | 0 => .float .fp64 | 1 => .float .fp32 | 2 => .float .bf16 | 3 => .float .fp16 | 4 => .float .e4m3
  | 5 => .float .e5m2 | 6 => .int false 64 | 7 => .int true 64 | 8 => .int false 32 | 9 => .int true 32
  | 10 => .int false 16 | 11 => .int true 16 | 12 => .int false 8 | 13 => .int true 8 | 14 => .int false 4
  | _ => .int true 4

/-- The type MODE names for ACCRD and ACCWR (R38, R177). -/
def modeType (m : W32) : ElemType :=
  if modeEc m = 2 then .float (modeFormat m) else .int (modeEc m != 0) (modeW m)

/-- Width of a type. -/
def ElemType.width : ElemType → Nat
  | .float f => f.width
  | .int _ w => w

/-- Value of a source element, flushed (R41, R42). -/
def ElemType.value (ftz : Bool) : ElemType → Nat → Val
  | .float f, b => sourceVal ftz f b
  | .int u w, b => valInt (intOf u w b)

/-- The one rounding of a conversion (R42). -/
def ElemType.round (rm : Nat) (sat ftz : Bool) (v : Val) : ElemType → Nat × List Cause
  | .float f => roundFloat f rm sat ftz v
  | .int u w => let r := roundInt (intMin u w) (intMax u w) rm sat v; (wrapTo w r.1, r.2)

/-- One element converted under MODE (R126). -/
def convert (m : W32) (src dst : ElemType) (b : Nat) : Nat × List Cause :=
  dst.round (modeRm m) (modeSat m) (modeFtz m) (src.value (modeFtz m) b)

/-- CVT (R126). -/
def cvtLane (d a : BitVec 7) (keep : Bool) (dst src : ElemType) (e : Env) (l : Nat) : Result :=
  let n := 64 / max src.width dst.width
  let rs := (List.range n).map fun i => convert e.mode src dst (sub (e.rd a l) i src.width)
  let r0 := if keep then e.rd d l else 0
  ((rs.zip (List.range n)).foldl (fun r x => setSub r x.2 dst.width x.1.1) r0, rs.flatMap Prod.snd)

/-- The target of CVTG: signedness and width (R127). -/
def cvtgType (x : Nat) : Bool × Nat := (x % 2 == 1, if x ≤ 1 then 8 else 4)

/-- One element of CVTG, under a usable scale or not (R127). -/
def cvtgElem (m : W32) (uns : Bool) (wq : Nat) (s : Val) (z : Int) (v : Val) : Nat × List Cause :=
  if s.isZero || s.isInf || s.isNan then (wrapTo wq z, [.qscale])
  else
    let q := sumVals 0 [(divVal v s).1, valInt z]
    let r := roundInt (intMin uns wq) (intMax uns wq) (modeRm m) (modeSat m) q
    (wrapTo wq r.1, r.2)

/-- CVTG (R127). -/
def cvtgLane (a b : BitVec 7) (x : Nat) (e : Env) (l : Nat) : Result :=
  let (uns, wq) := cvtgType x
  let p := e.rd b l
  let s := valOf .fp16 (fld p 15 0)
  let z0 := intOf uns 8 (fld p 23 16)
  let z := satTo uns wq z0
  let rs := (felems e.mode (e.rd a l)).map (cvtgElem e.mode uns wq s z)
  ((packResults wq rs).1, (if z = z0 || modeSat e.mode then [] else [.saturate]) ++ rs.flatMap Prod.snd)

/-- A codebook's sixteen entries (R36). -/
def bookEntries (books : SMap (BitVec 16)) (book : Nat) : List (BitVec 16) :=
  (List.range 16).map fun i => getAt 0 books (16 * book + i)

/-- The float side of CBENC and CBDEC (R128). -/
def bookFormat (x : Nat) : Format := match x with
  | 0 => .fp32 | 1 => .bf16 | _ => .fp16

/-- CBENC (R37, R128). -/
def cbencLane (a : BitVec 7) (x : Nat) (e : Env) (l : Nat) : W64 :=
  let f := bookFormat x
  let book := (bookEntries e.g.books (modeCbsel e.mode)).map fun b => valOf .bf16 b.toNat
  pack 4 ((subs (e.rd a l) f.width).map fun b => encodeBook book (sourceVal (modeFtz e.mode) f b))

/-- One entry decoded (R36, R128): to FP32 and BF16 exactly, to FP16 rounded once and never flushed; a NaN entry gives the
canonical NaN (R33). -/
def cbdecElem (m : W32) (f : Format) (b : BitVec 16) : Nat × List Cause :=
  if (valOf .bf16 b.toNat).isNan then (f.nanBits, [])
  else match f with
    | .bf16 => (b.toNat, [])
    | .fp32 => (b.toNat * 2 ^ 16, [])
    | f => roundFloat f (modeRm m) (modeSat m) false (valOf .bf16 b.toNat)

/-- CBDEC (R128). -/
def cbdecLane (a : BitVec 7) (x : Nat) (e : Env) (l : Nat) : Result :=
  let f := bookFormat x
  let book := bookEntries e.g.books (modeCbsel e.mode)
  packResults f.width ((List.range (64 / f.width)).map fun i => cbdecElem e.mode f (book.getD (sub (e.rd a l) i 4) 0))

def fxCvt (d a : BitVec 7) (k : BitVec 1) (t sf : BitVec 4) : Fx :=
  fxReg d (cvtLane d a (k == 1) (elemType t.toNat) (elemType sf.toNat))
def fxCvtg (d a b : BitVec 7) (x : BitVec 2) : Fx := fxReg d (cvtgLane a b x.toNat)
def fxCbenc (d a : BitVec 7) (x : BitVec 2) : Fx := fxVal d (cbencLane a x.toNat)
def fxCbdec (d a : BitVec 7) (x : BitVec 2) : Fx := fxReg d (cbdecLane a x.toNat)

/-- CVT (R125, R126). -/
def execCvt (d a : BitVec 7) (k : BitVec 1) (t sf : BitVec 4) (s : State) : Out := alu (.cvt d a k t sf) (fxCvt d a k t sf) s
/-- CVTG (R127). -/
def execCvtg (d a b : BitVec 7) (x : BitVec 2) (s : State) : Out := alu (.cvtg d a b x) (fxCvtg d a b x) s
/-- CBENC (R128). -/
def execCbenc (d a : BitVec 7) (x : BitVec 2) (s : State) : Out := alu (.cbenc d a x) (fxCbenc d a x) s
/-- CBDEC (R128). -/
def execCbdec (d a : BitVec 7) (x : BitVec 2) (s : State) : Out := alu (.cbdec d a x) (fxCbdec d a x) s

end Sys2Proof.Machine
end

