-- ==== Sys2Proof/Machine/PredMode.lean ====
section
/-! DEFINITION. Predicate, mode and special-value instructions (R105 to R112). -/

namespace Sys2Proof.Machine

/-- The active lanes that share results with lane l: under protected launch mode, those of its copy (R376). -/
def peers (e : Env) (l : Nat) : Mask :=
  if e.g.prot then maskOf fun m => lane e.active m && m % 2 == l % 2 else e.active

/-- The place of a lane's bit in a ballot (R108, R376). -/
def ballotBit (e : Env) (l : Nat) : Nat := domainOf e.g l

/-- VOTE BALLOT (R108). -/
def ballot (e : Env) (p : Nat) (l : Nat) : W64 :=
  (lanesOf (peers e l &&& e.g.pred p)).foldl (fun w m => w ||| BitVec.twoPow 64 (ballotBit e m)) 0

/-- VOTE ALL, ANY and UNI (R108). -/
def voteBit (e : Env) (p x l : Nat) : Bool :=
  let m := peers e l
  let t := m &&& e.g.pred p
  match x with
  | 0 => decide (t = m)
  | 1 => decide (t ≠ 0)
  | _ => decide (t = m) || decide (t = 0)

/-- The special values of R111 but for the recovery points. -/
def specialOf (e : Env) (k l : Nat) : W64 :=
  let x := e.g.special
  match k with
  | 0 => word (domainOf e.g l)
  | 1 => word (domainOf e.g l / 4)
  | 2 => word x.gangId
  | 3 => word (x.block.getD 0 0)
  | 4 => word (x.block.getD 1 0)
  | 5 => word (x.block.getD 2 0)
  | 6 => word (x.cluster.getD 0 0)
  | 7 => word (x.cluster.getD 1 0)
  | 8 => word (x.cluster.getD 2 0)
  | 9 => word (x.grid.getD 0 0)
  | 10 => word (x.grid.getD 1 0)
  | 11 => word (x.grid.getD 2 0)
  | 12 => word (x.extent.getD 0 0)
  | 13 => word (x.extent.getD 1 0)
  | 14 => word (x.extent.getD 2 0)
  | 15 => word x.role
  | 16 => word x.rank
  | 17 => x.glanes
  | 18 => word x.blanes
  | 21 => word e.g.tcause.toNat
  | 22 => e.g.tpc
  | 23 => word e.g.tlanes.toNat
  | 24 => word e.g.tmask.toNat
  | _ => word e.g.gstat.toNat

/-- A context's recovery point (R85). -/
def ckpOf (s : State) (c k : Nat) : W64 := match s.ctx? c with
  | some x => getAt 0 x.ckp k
  | none => 0

def fxPlop (d a b : BitVec 5) (t : BitVec 8) : Fx := fxPred d.toNat fun e l =>
  t.getLsbD (4 * bitNat (lane (e.g.pred d.toNat) l) + 2 * bitNat (lane (e.g.pred a.toNat) l) +
    bitNat (lane (e.g.pred b.toNat) l))
def fxP2v (d a : BitVec 7) (x : BitVec 2) : Fx := fxVal d fun e l =>
  let t := lane (e.g.pred a.toNat) l
  match x.toNat with
  | 0 => if t then 1 else 0
  | 1 => if t then BitVec.allOnes 64 else 0
  | _ => word ((List.range 24).foldl (fun n p => n + bitNat (lane (e.g.pred p) l) * 2 ^ p) 0)
def fxV2p (d a : BitVec 7) (x : BitVec 2) : Fx := fun e g =>
  match x.toNat with
  | 0 => fxPred d.toNat (fun e l => decide (e.rd a l ≠ 0)) e g
  | 1 => fxPred d.toNat (fun e l => (e.rd a l).getLsbD 0) e g
  | _ => ((List.range 24).foldl (fun g p => g.setPred e.active p (predMask e.active fun l => (e.rd a l).getLsbD p)) g, [])
def fxVote (d a : BitVec 7) (x : BitVec 2) : Fx := fun e g =>
  if x = 2 then fxVal d (fun e l => ballot e a.toNat l) e g
  else fxPred d.toNat (fun e l => voteBit e a.toNat x.toNat l) e g
def fxSetmode (im : BitVec 16) : Fx := fun _ g => ({ g with mode := setFld g.mode 15 0 im.toNat }, [])
def fxSetmodeh (im : BitVec 4) : Fx := fun _ g => ({ g with mode := setFld g.mode 31 16 im.toNat }, [])
def fxGetmode (d : BitVec 7) : Fx := fxVal d fun e _ => word e.mode.toNat

/-- PLOP (R105). -/
def execPlop (d a b : BitVec 5) (t : BitVec 8) (s : State) : Out := alu (.plop d a b t) (fxPlop d a b t) s
/-- P2V (R106). -/
def execP2v (d a : BitVec 7) (x : BitVec 2) (s : State) : Out := alu (.p2v d a x) (fxP2v d a x) s
/-- V2P (R107). -/
def execV2p (d a : BitVec 7) (x : BitVec 2) (s : State) : Out := alu (.v2p d a x) (fxV2p d a x) s
/-- VOTE (R108). -/
def execVote (d a : BitVec 7) (x : BitVec 2) (s : State) : Out := alu (.vote d a x) (fxVote d a x) s
/-- SETMODE (R109). -/
def execSetmode (im : BitVec 16) (s : State) : Out := alu (.setmode im) (fxSetmode im) s
/-- SETMODEH (R109). -/
def execSetmodeh (im : BitVec 4) (s : State) : Out := alu (.setmodeh im) (fxSetmodeh im) s
/-- GETMODE (R110). -/
def execGetmode (d : BitVec 7) (s : State) : Out := alu (.getmode d) (fxGetmode d) s

/-- SPECR (R111): GSTATC clears the sticky bits in the same step, where a lane is active. -/
def execSpecr (d : BitVec 7) (k : BitVec 9) (s : State) : Out :=
  issue (.specr d k) (fun e s =>
    let v := fun l => if 25 ≤ k.toNat then ckpOf s e.g.ctx (k.toNat - 25) else specialOf e k.toNat l
    let g := writeResult e d v (reads e (.specr d k))
    let g := if k.toNat = 20 && e.active != 0 then { g with gstat := clearSticky g.gstat } else g
    finish e g s) s

end Sys2Proof.Machine
end

