-- ==== Sys2Proof/Machine/CrossLane.lean ====
section
/-! DEFINITION. Cross-lane instructions (R129 to R136). -/

namespace Sys2Proof.Machine

/-- Element k of a register across the domain of the reader l (R129). -/
def domainElem (e : Env) (a : BitVec 7) (l k : Nat) : Nat :=
  let per := perReg e.mode
  sub (e.rd a (physLane e.g l (k / per))) (k % per) (modeW e.mode)

/-- XL (R130). -/
def xlLane (a b : BitVec 7) (m : Nat) (e : Env) (l : Nat) : W64 :=
  let n := domainLanes e.g * perReg e.mode
  pack (modeW e.mode) ((List.range (perReg e.mode)).map fun i =>
    let k := sub (e.rd b l) i (modeW e.mode)
    if m = 1 && decide (n ≤ k) then 0 else domainElem e a l (k % n))

/-- XLI (R131). -/
def xliLane (a : BitVec 7) (delta mode : Nat) (e : Env) (l : Nat) : W64 :=
  let per := perReg e.mode
  pack (modeW e.mode) ((List.range per).map fun i =>
    match xliSource mode delta (domainLanes e.g * per) (domainOf e.g l * per + i) with
    | some k => domainElem e a l k
    | none => sub (e.rd a l) i (modeW e.mode))

/-- QX (R132): f0 to f3 in increasing field order. -/
def qxLane (a : BitVec 7) (fs : List (BitVec 2)) (e : Env) (l : Nat) : W64 :=
  e.rd a (physLane e.g l (domainOf e.g l / 4 * 4 + (fs.getD (domainOf e.g l % 4) 0).toNat))

/-- A reduction's value from the terms of one sub-element, as an integer under MODE (R133). -/
def redInt (m : W32) (op : Nat) (xs : List Nat) : Nat :=
  let w := modeW m
  let vs := xs.map (elemInt m)
  match op with
  | 0 => wrapTo w (vs.foldl (· + ·) 0)
  | 1 => wrapTo w (vs.foldl min (vs.headD 0))
  | 2 => wrapTo w (vs.foldl max (vs.headD 0))
  | 3 => xs.foldl (bitwiseNat (· && ·) w) (2 ^ w - 1)
  | 4 => xs.foldl (bitwiseNat (· || ·) w) 0
  | _ => xs.foldl (bitwiseNat (· != ·) w) 0

/-- A reduction's value as a float (R133): the exact sum rounded once, FMIN and FMAX over all terms, bits unflushed. -/
def redFloat (m : W32) (op : Nat) (xs : List Nat) : Nat × List Cause :=
  let vs := xs.map (sourceVal (modeFtz m) (modeFormat m))
  match op with
  | 0 => roundWith m (sumVals (modeRm m) vs, sumCauses vs)
  | 1 => roundWith m (vs.foldl minVal (vs.headD .nan), [])
  | 2 => roundWith m (vs.foldl maxVal (vs.headD .nan), [])
  | _ => (redInt m op xs, [])

/-- A reduction over the terms of one sub-element. -/
def redElem (m : W32) (op : Nat) (xs : List Nat) : Nat × List Cause :=
  if modeEc m = 2 then redFloat m op xs else (redInt m op xs, [])

/-- The identities of R134. -/
def redIdentity (m : W32) (op : Nat) : Nat :=
  let w := modeW m
  let f := modeFormat m
  match op with
  | 0 => 0
  | 1 => if modeEc m = 2 then (if f = .e4m3 then f.maxBits else f.infBits) else wrapTo w (intMax (modeEc m != 0) w)
  | 2 => if modeEc m = 2 then signed f true (if f = .e4m3 then f.maxBits else f.infBits)
         else wrapTo w (intMin (modeEc m != 0) w)
  | 3 => 2 ^ w - 1
  | _ => 0

/-- The terms of sub-element i in the lanes of a mask. -/
def terms (e : Env) (a : BitVec 7) (m : Mask) (i : Nat) : List Nat :=
  (lanesOf m).map fun l => sub (e.rd a l) i (modeW e.mode)

/-- GRED (R133). -/
def gredLane (a : BitVec 7) (op : Nat) (e : Env) (l : Nat) : Result :=
  packResults (modeW e.mode) ((List.range (perReg e.mode)).map fun i => redElem e.mode op (terms e a (peers e l) i))

/-- The lanes whose terms lane l's prefix covers (R134). -/
def prefixLanes (e : Env) (excl : Bool) (l : Nat) : Mask :=
  maskOf fun m => lane (peers e l) m && (decide (m < l) || (!excl && m == l))

/-- GSCAN (R134). -/
def gscanLane (a : BitVec 7) (op : Nat) (excl : Bool) (e : Env) (l : Nat) : Result :=
  packResults (modeW e.mode) ((List.range (perReg e.mode)).map fun i =>
    if prefixLanes e excl l = 0 then (redIdentity e.mode op, [])
    else redElem e.mode op (terms e a (prefixLanes e excl l) i))

/-- PACK (R135). -/
def packLane (a b : BitVec 7) (x : Nat) (e : Env) (l : Nat) : W64 :=
  let w := modeW e.mode
  let h := perReg e.mode / 2
  let as := (subs (e.rd a l) w).take h
  let bs := (subs (e.rd b l) w).take h
  pack w (if x = 0 then as ++ bs else (List.zip as bs).flatMap fun p => [p.1, p.2])

/-- UNPACK (R136). -/
def unpackLane (a : BitVec 7) (x : Nat) (e : Env) (l : Nat) : W64 :=
  let w := modeW e.mode
  let h := perReg e.mode / 2
  let s := e.rd a l
  let ext := fun v => if modeEc e.mode = 0 then wrapTo (2 * w) (signedOf w v) else v
  match x with
  | 0 => pack (2 * w) ((List.range h).map fun i => ext (sub s i w))
  | 1 => pack (2 * w) ((List.range h).map fun i => ext (sub s (h + i) w))
  | 2 => pack w ((List.range h).map fun i => sub s (2 * i) w)
  | _ => pack w ((List.range h).map fun i => sub s (2 * i + 1) w)

def fxXl (d a b : BitVec 7) (x : BitVec 2) : Fx := fxVal d (xlLane a b x.toNat)
def fxXli (d a delta : BitVec 7) (m : BitVec 2) : Fx := fxVal d (xliLane a delta.toNat m.toNat)
def fxQx (d a : BitVec 7) (h g f c : BitVec 2) : Fx := fxVal d (qxLane a [c, f, g, h])
def fxGred (d a : BitVec 7) (o : BitVec 3) : Fx := fxReg d (gredLane a o.toNat)
def fxGscan (d a : BitVec 7) (x : BitVec 1) (o : BitVec 3) : Fx := fxReg d (gscanLane a o.toNat (x == 1))
def fxPack (d a b : BitVec 7) (x : BitVec 2) : Fx := fxVal d (packLane a b x.toNat)
def fxUnpack (d a : BitVec 7) (x : BitVec 2) : Fx := fxVal d (unpackLane a x.toNat)

/-- XL (R130). -/
def execXl (d a b : BitVec 7) (x : BitVec 2) (s : State) : Out := alu (.xl d a b x) (fxXl d a b x) s
/-- XLI (R131). -/
def execXli (d a delta : BitVec 7) (m : BitVec 2) (s : State) : Out := alu (.xli d a delta m) (fxXli d a delta m) s
/-- QX (R132). -/
def execQx (d a : BitVec 7) (h g f c : BitVec 2) (s : State) : Out := alu (.qx d a h g f c) (fxQx d a h g f c) s
/-- GRED (R133). -/
def execGred (d a : BitVec 7) (o : BitVec 3) (s : State) : Out := alu (.gred d a o) (fxGred d a o) s
/-- GSCAN (R134). -/
def execGscan (d a : BitVec 7) (x : BitVec 1) (o : BitVec 3) (s : State) : Out := alu (.gscan d a x o) (fxGscan d a x o) s
/-- PACK (R135). -/
def execPack (d a b : BitVec 7) (x : BitVec 2) (s : State) : Out := alu (.pack d a b x) (fxPack d a b x) s
/-- UNPACK (R136). -/
def execUnpack (d a : BitVec 7) (x : BitVec 2) (s : State) : Out := alu (.unpack d a x) (fxUnpack d a x) s

end Sys2Proof.Machine
end

