-- ==== Sys2Proof/Machine/Integer.lean ====
section
/-! DEFINITION. Integer arithmetic, shifts, bit counts, whole-register and immediate instructions (R87 to R103). -/

namespace Sys2Proof.Machine

/-- result_i from A_i and B_i (R88). -/
def each2 (f : W32 → Int → Int → Int) (a b : BitVec 7) (e : Env) (l : Nat) : W64 :=
  pack (modeW e.mode) (List.zipWith (fun x y => wrapTo (modeW e.mode) (f e.mode x y))
    (elems e.mode (e.rd a l)) (elems e.mode (e.rd b l)))

/-- result_i from A_i. -/
def each1 (f : W32 → Int → Int) (a : BitVec 7) (e : Env) (l : Nat) : W64 :=
  pack (modeW e.mode) ((elems e.mode (e.rd a l)).map fun x => wrapTo (modeW e.mode) (f e.mode x))

/-- result_i from the bits of A_i and B_i. -/
def bits2 (f : Nat → Nat → Nat → Nat) (a b : BitVec 7) (e : Env) (l : Nat) : W64 :=
  pack (modeW e.mode) (List.zipWith (f (modeW e.mode)) (subs (e.rd a l) (modeW e.mode)) (subs (e.rd b l) (modeW e.mode)))

/-- result_i from the bits of A_i. -/
def bits1 (f : Nat → Nat → Nat) (a : BitVec 7) (e : Env) (l : Nat) : W64 :=
  pack (modeW e.mode) ((subs (e.rd a l) (modeW e.mode)).map (f (modeW e.mode)))

/-- Sat under MODE (R65). -/
def satMode (m : W32) (x : Int) : Int := satTo (modeEc m != 0) (modeW m) x

/-- Division rounded toward zero with the borderline cases of R93. -/
def divElem (m : W32) (x y : Int) : Int :=
  if y = 0 then -1
  else if modeEc m = 0 && x == intMin false (modeW m) && y == -1 then x
  else Int.tdiv x y

/-- The remainder of R93. -/
def remElem (m : W32) (x y : Int) : Int :=
  if y = 0 then x
  else if modeEc m = 0 && x == intMin false (modeW m) && y == -1 then 0
  else Int.tmod x y

/-- The condition of IDIV and IREM (R93). -/
def divCauses (m : W32) (b : W64) : List Cause := if (subs b (modeW m)).any (· == 0) then [.divzero] else []

/-- SHL of R95. -/
def shlElem (w x n : Nat) : Nat := if w ≤ n then 0 else x * 2 ^ n % 2 ^ w

/-- SHR of R95. -/
def shrElem (w x n : Nat) : Nat := if w ≤ n then 0 else x / 2 ^ n

/-- SAR of R95: copies of the top bit come in. -/
def sarElem (w x n : Nat) : Nat := wrapTo w (signedOf w x / ((2 ^ min n w : Nat) : Int))

/-- ROTL of R95. -/
def rotlElem (w x n : Nat) : Nat := (x * 2 ^ (n % w)) % 2 ^ w + x / 2 ^ (w - n % w)

/-- The field length of R98. -/
def fieldLen (b : W64) : Nat := min (min (fld b 14 8) 64) (64 - fld b 5 0)

/-- BFX of R98. -/
def bfxWord (a b : W64) (sx : Bool) : W64 :=
  let n := fieldLen b
  let f := a.toNat / 2 ^ fld b 5 0 % 2 ^ n
  if n = 0 then 0 else if sx then signExt n f else word f

/-- BFI of R98. -/
def bfiWord (d a b : W64) : W64 :=
  let pos := fld b 5 0
  let n := fieldLen b
  word (d.toNat % 2 ^ pos + 2 ^ pos * (a.toNat % 2 ^ n) + 2 ^ (pos + n) * (d.toNat / 2 ^ (pos + n)))

/-- One byte of BYTEP (R99). -/
def bytepByte (a : W64) (c : Nat) : Nat := if c ≤ 7 then sub a c 8 else if c = 15 then 0xFF else 0

/-- BYTEP of R99. -/
def bytepWord (a b : W64) : W64 := pack 8 ((List.range 8).map fun j => bytepByte a (sub b j 4))

/-- LEA of R101. -/
def leaWord (a b : W64) (x : Nat) : W64 :=
  withOff a (((ptrOff a : Int) + b.toInt * ((2 ^ x : Nat) : Int)) % ((2 ^ 36 : Nat) : Int)).toNat

/-- A register with a 16-bit chunk replaced (R102). -/
def movk (d : W64) (k : Nat) (im : BitVec 16) : W64 := setSub d k 16 im.toNat

/-- One half of DOT4 (R103). -/
def dotHalf (m : W32) (d a b : W64) (x j : Nat) : Nat :=
  let s := intOf (x == 3) 32 (sub d j 32)
  let t := (List.range 4).foldl (fun (t : Int) k =>
    t + intOf (x % 2 == 1) 8 (sub a (4 * j + k) 8) * intOf (x / 2 == 1) 8 (sub b (4 * j + k) 8)) s
  if modeSat m then wrapTo 32 (satTo (x == 3) 32 t) else wrapTo 32 t

/-- ICMP and ICMPI hold when every sub-element does (R104). -/
def cmpAll (m : W32) (cc : Nat) (a : W64) (ys : List Int) : Bool :=
  (List.zipWith (holds cc) (elems m a) ys).all id

/-- The immediate of ICMPI (R104). -/
def cmpImm (m : W32) (im : BitVec 7) : List Int :=
  List.replicate (perReg m) (if modeEc m = 0 then im.toInt else (im.toNat : Int))

def fxIadd (d a b : BitVec 7) : Fx := fxVal d (each2 (fun _ x y => x + y) a b)
def fxIsub (d a b : BitVec 7) : Fx := fxVal d (each2 (fun _ x y => x - y) a b)
def fxIadds (d a b : BitVec 7) : Fx := fxVal d (each2 (fun m x y => satMode m (x + y)) a b)
def fxIsubs (d a b : BitVec 7) : Fx := fxVal d (each2 (fun m x y => satMode m (x - y)) a b)
def fxImul (d a b : BitVec 7) : Fx := fxVal d (each2 (fun _ x y => x * y) a b)
def fxImulh (d a b : BitVec 7) : Fx := fxVal d (each2 (fun m x y => x * y / ((2 ^ modeW m : Nat) : Int)) a b)
def fxImac (d a b : BitVec 7) : Fx := fxVal d fun e l =>
  pack (modeW e.mode) (List.zipWith (fun z xy => wrapTo (modeW e.mode) (z + xy)) (elems e.mode (e.rd d l))
    (List.zipWith (· * ·) (elems e.mode (e.rd a l)) (elems e.mode (e.rd b l))))
def fxIdiv (d a b : BitVec 7) : Fx := fxReg d fun e l => (each2 divElem a b e l, divCauses e.mode (e.rd b l))
def fxIrem (d a b : BitVec 7) : Fx := fxReg d fun e l => (each2 remElem a b e l, divCauses e.mode (e.rd b l))
def fxImin (d a b : BitVec 7) : Fx := fxVal d (each2 (fun _ x y => min x y) a b)
def fxImax (d a b : BitVec 7) : Fx := fxVal d (each2 (fun _ x y => max x y) a b)
def fxIabs (d a : BitVec 7) : Fx := fxVal d (each1 (fun _ x => (x.natAbs : Int)) a)
def fxIneg (d a : BitVec 7) : Fx := fxVal d (each1 (fun _ x => -x) a)
def fxAnd (d a b : BitVec 7) : Fx := fxVal d fun e l => e.rd a l &&& e.rd b l
def fxOr (d a b : BitVec 7) : Fx := fxVal d fun e l => e.rd a l ||| e.rd b l
def fxXor (d a b : BitVec 7) : Fx := fxVal d fun e l => e.rd a l ^^^ e.rd b l
def fxAndn (d a b : BitVec 7) : Fx := fxVal d fun e l => e.rd a l &&& ~~~(e.rd b l)
def fxNot (d a : BitVec 7) : Fx := fxVal d fun e l => ~~~(e.rd a l)
def fxShl (d a b : BitVec 7) : Fx := fxVal d (bits2 shlElem a b)
def fxShr (d a b : BitVec 7) : Fx := fxVal d (bits2 shrElem a b)
def fxSar (d a b : BitVec 7) : Fx := fxVal d (bits2 sarElem a b)
def fxRotl (d a b : BitVec 7) : Fx := fxVal d (bits2 rotlElem a b)
def fxBfx (d a b : BitVec 7) (x : BitVec 2) : Fx := fxVal d fun e l => bfxWord (e.rd a l) (e.rd b l) (x == 1)
def fxBfi (d a b : BitVec 7) : Fx := fxVal d fun e l => bfiWord (e.rd d l) (e.rd a l) (e.rd b l)
def fxPopc (d a : BitVec 7) : Fx := fxVal d (bits1 popCount a)
def fxClz (d a : BitVec 7) : Fx := fxVal d (bits1 leading a)
def fxCtz (d a : BitVec 7) : Fx := fxVal d (bits1 trailing a)
def fxBrev (d a : BitVec 7) : Fx := fxVal d (bits1 reverseBits a)
def fxBytep (d a b : BitVec 7) : Fx := fxVal d fun e l => bytepWord (e.rd a l) (e.rd b l)
def fxSel (d a b : BitVec 7) (x : BitVec 2) : Fx := fxVal d fun e l =>
  if lane (e.g.pred x.toNat) l then e.rd a l else e.rd b l
def fxMov (d a : BitVec 7) : Fx := fxVal d fun e l => e.rd a l
def fxLea (d a b : BitVec 7) (x : BitVec 2) : Fx := fxVal d fun e l => leaWord (e.rd a l) (e.rd b l) x.toNat
def fxIcmp (d : BitVec 5) (a b : BitVec 7) (c : BitVec 2) : Fx := fxPred d.toNat fun e l =>
  cmpAll e.mode c.toNat (e.rd a l) (elems e.mode (e.rd b l))
def fxIaddi (d : BitVec 7) (im : BitVec 16) : Fx := fxVal d (each1 (fun _ x => x + im.toInt) d)
def fxMovi (d : BitVec 7) (im : BitVec 16) : Fx := fxVal d fun _ _ => signExt 16 im.toNat
def fxMovk0 (d : BitVec 7) (im : BitVec 16) : Fx := fxVal d fun e l => movk (e.rd d l) 0 im
def fxMovk1 (d : BitVec 7) (im : BitVec 16) : Fx := fxVal d fun e l => movk (e.rd d l) 1 im
def fxMovk2 (d : BitVec 7) (im : BitVec 16) : Fx := fxVal d fun e l => movk (e.rd d l) 2 im
def fxMovk3 (d : BitVec 7) (im : BitVec 16) : Fx := fxVal d fun e l => movk (e.rd d l) 3 im
def fxIcmpi (d : BitVec 5) (a im : BitVec 7) (c : BitVec 2) : Fx := fxPred d.toNat fun e l =>
  cmpAll e.mode c.toNat (e.rd a l) (cmpImm e.mode im)
def fxAndi (d : BitVec 7) (im : BitVec 16) : Fx := fxVal d fun e l => e.rd d l &&& word im.toNat
def fxOri (d : BitVec 7) (im : BitVec 16) : Fx := fxVal d fun e l => e.rd d l ||| word im.toNat
def fxXori (d : BitVec 7) (im : BitVec 16) : Fx := fxVal d fun e l => e.rd d l ^^^ word im.toNat
def fxShli (d a : BitVec 7) (im : BitVec 6) : Fx := fxVal d (bits1 (fun w x => shlElem w x im.toNat) a)
def fxShri (d a : BitVec 7) (im : BitVec 6) : Fx := fxVal d (bits1 (fun w x => shrElem w x im.toNat) a)
def fxSari (d a : BitVec 7) (im : BitVec 6) : Fx := fxVal d (bits1 (fun w x => sarElem w x im.toNat) a)
def fxImuli (d : BitVec 7) (im : BitVec 16) : Fx := fxVal d (each1 (fun _ x => x * im.toInt) d)
def fxDot4 (d a b : BitVec 7) (x : BitVec 2) : Fx := fxVal d fun e l =>
  pack 32 [dotHalf e.mode (e.rd d l) (e.rd a l) (e.rd b l) x.toNat 0,
    dotHalf e.mode (e.rd d l) (e.rd a l) (e.rd b l) x.toNat 1]

def execIadd (d a b : BitVec 7) (s : State) : Out := alu (.iadd d a b) (fxIadd d a b) s
def execIsub (d a b : BitVec 7) (s : State) : Out := alu (.isub d a b) (fxIsub d a b) s
def execIadds (d a b : BitVec 7) (s : State) : Out := alu (.iadds d a b) (fxIadds d a b) s
def execIsubs (d a b : BitVec 7) (s : State) : Out := alu (.isubs d a b) (fxIsubs d a b) s
def execImul (d a b : BitVec 7) (s : State) : Out := alu (.imul d a b) (fxImul d a b) s
def execImulh (d a b : BitVec 7) (s : State) : Out := alu (.imulh d a b) (fxImulh d a b) s
def execImac (d a b : BitVec 7) (s : State) : Out := alu (.imac d a b) (fxImac d a b) s
def execIdiv (d a b : BitVec 7) (s : State) : Out := alu (.idiv d a b) (fxIdiv d a b) s
def execIrem (d a b : BitVec 7) (s : State) : Out := alu (.irem d a b) (fxIrem d a b) s
def execImin (d a b : BitVec 7) (s : State) : Out := alu (.imin d a b) (fxImin d a b) s
def execImax (d a b : BitVec 7) (s : State) : Out := alu (.imax d a b) (fxImax d a b) s
def execIabs (d a : BitVec 7) (s : State) : Out := alu (.iabs d a) (fxIabs d a) s
def execIneg (d a : BitVec 7) (s : State) : Out := alu (.ineg d a) (fxIneg d a) s
def execAnd (d a b : BitVec 7) (s : State) : Out := alu (.and d a b) (fxAnd d a b) s
def execOr (d a b : BitVec 7) (s : State) : Out := alu (.or d a b) (fxOr d a b) s
def execXor (d a b : BitVec 7) (s : State) : Out := alu (.xor d a b) (fxXor d a b) s
def execAndn (d a b : BitVec 7) (s : State) : Out := alu (.andn d a b) (fxAndn d a b) s
def execNot (d a : BitVec 7) (s : State) : Out := alu (.not d a) (fxNot d a) s
def execShl (d a b : BitVec 7) (s : State) : Out := alu (.shl d a b) (fxShl d a b) s
def execShr (d a b : BitVec 7) (s : State) : Out := alu (.shr d a b) (fxShr d a b) s
def execSar (d a b : BitVec 7) (s : State) : Out := alu (.sar d a b) (fxSar d a b) s
def execRotl (d a b : BitVec 7) (s : State) : Out := alu (.rotl d a b) (fxRotl d a b) s
def execBfx (d a b : BitVec 7) (x : BitVec 2) (s : State) : Out := alu (.bfx d a b x) (fxBfx d a b x) s
def execBfi (d a b : BitVec 7) (s : State) : Out := alu (.bfi d a b) (fxBfi d a b) s
def execPopc (d a : BitVec 7) (s : State) : Out := alu (.popc d a) (fxPopc d a) s
def execClz (d a : BitVec 7) (s : State) : Out := alu (.clz d a) (fxClz d a) s
def execCtz (d a : BitVec 7) (s : State) : Out := alu (.ctz d a) (fxCtz d a) s
def execBrev (d a : BitVec 7) (s : State) : Out := alu (.brev d a) (fxBrev d a) s
def execBytep (d a b : BitVec 7) (s : State) : Out := alu (.bytep d a b) (fxBytep d a b) s
def execSel (d a b : BitVec 7) (x : BitVec 2) (s : State) : Out := alu (.sel d a b x) (fxSel d a b x) s
def execMov (d a : BitVec 7) (s : State) : Out := alu (.mov d a) (fxMov d a) s
def execLea (d a b : BitVec 7) (x : BitVec 2) (s : State) : Out := alu (.lea d a b x) (fxLea d a b x) s
def execIcmp (d : BitVec 5) (a b : BitVec 7) (c : BitVec 2) (s : State) : Out := alu (.icmp d a b c) (fxIcmp d a b c) s
def execIaddi (d : BitVec 7) (im : BitVec 16) (s : State) : Out := alu (.iaddi d im) (fxIaddi d im) s
def execMovi (d : BitVec 7) (im : BitVec 16) (s : State) : Out := alu (.movi d im) (fxMovi d im) s
def execMovk0 (d : BitVec 7) (im : BitVec 16) (s : State) : Out := alu (.movk0 d im) (fxMovk0 d im) s
def execMovk1 (d : BitVec 7) (im : BitVec 16) (s : State) : Out := alu (.movk1 d im) (fxMovk1 d im) s
def execMovk2 (d : BitVec 7) (im : BitVec 16) (s : State) : Out := alu (.movk2 d im) (fxMovk2 d im) s
def execMovk3 (d : BitVec 7) (im : BitVec 16) (s : State) : Out := alu (.movk3 d im) (fxMovk3 d im) s
def execIcmpi (d : BitVec 5) (a im : BitVec 7) (c : BitVec 2) (s : State) : Out := alu (.icmpi d a im c) (fxIcmpi d a im c) s
def execAndi (d : BitVec 7) (im : BitVec 16) (s : State) : Out := alu (.andi d im) (fxAndi d im) s
def execOri (d : BitVec 7) (im : BitVec 16) (s : State) : Out := alu (.ori d im) (fxOri d im) s
def execXori (d : BitVec 7) (im : BitVec 16) (s : State) : Out := alu (.xori d im) (fxXori d im) s
def execShli (d a : BitVec 7) (im : BitVec 6) (s : State) : Out := alu (.shli d a im) (fxShli d a im) s
def execShri (d a : BitVec 7) (im : BitVec 6) (s : State) : Out := alu (.shri d a im) (fxShri d a im) s
def execSari (d a : BitVec 7) (im : BitVec 6) (s : State) : Out := alu (.sari d a im) (fxSari d a im) s
def execImuli (d : BitVec 7) (im : BitVec 16) (s : State) : Out := alu (.imuli d im) (fxImuli d im) s
def execDot4 (d a b : BitVec 7) (x : BitVec 2) (s : State) : Out := alu (.dot4 d a b x) (fxDot4 d a b x) s

end Sys2Proof.Machine
end

