-- ==== Sys2Proof/WellFormed.lean ====
section
/-! DEFINITION. The checks on an instruction's own fields that R62 step 3 makes whatever the state holds (R54, R56, R57,
R58 and the field limits of the instruction descriptions). A word that fails one raises ILLOP. -/

namespace Sys2Proof

/-- A five-bit predicate field names p0 to p23, or 31 for "always" (R56). -/
def predOk (p : BitVec 5) : Bool := p.toNat < 24 || p.toNat == 31

/-- A seven-bit field read as a predicate has bits [6:5] zero (R56). -/
def predOk7 (f : BitVec 7) : Bool := f.toNat < 24 || f.toNat == 31

/-- A register field names a window register (R55). -/
def isV (f : BitVec 7) : Bool := f.toNat < 112

/-- A register field names a uniform register (R55). -/
def isS (f : BitVec 7) : Bool := 112 ≤ f.toNat

/-- A pair d, d+1 of window registers (R229). -/
def pairV (f : BitVec 7) : Bool := f.toNat + 1 < 112

/-- A pair of registers, v or s0 to s14 (R233, R240). -/
def pairVS (f : BitVec 7) : Bool := f.toNat + 1 < 112 || (112 ≤ f.toNat && f.toNat ≤ 126)

/-- Four consecutive registers, v or beginning at s0 to s12 (R166, R320). -/
def quadVS (f : BitVec 7) : Bool := f.toNat + 3 < 112 || (112 ≤ f.toNat && f.toNat ≤ 124)

/-- A window register whose number is a multiple of 4 (R182). -/
def quadV (f : BitVec 7) : Bool := f.toNat < 112 && f.toNat % 4 == 0

/-- The ord and sc fields of a load: WEAK with sc 0, or RLX or ACQ at BLK to SYS (R225). -/
def loadOrd (r sc : BitVec 3) (top : Nat) : Bool :=
  (r == 0 && sc == 0) || ((r == 1 || r == 2) && sc.toNat ≤ top)

/-- The ord and sc fields of a store: WEAK with sc 0, or RLX or REL at BLK to SYS, or REL at RCV (R225). -/
def storeOrd (r sc : BitVec 3) (top : Nat) (rcv : Bool) : Bool :=
  (r == 0 && sc == 0) || ((r == 1 || r == 3) && sc.toNat ≤ top) || (rcv && r == 3 && sc == 5)

/-- The performance-counter numbers of R341. -/
def perfListed (n : BitVec 9) : Bool := n.toNat < 12 || (32 ≤ n.toNat && n.toNat ≤ 41)

/-- An opcode that R60 leaves unassigned (R61). -/
def opcodeUnassigned (op : Nat) : Bool :=
  (0x030 ≤ op && op ≤ 0x03F) || (0x04F ≤ op && op ≤ 0x07F) || (0x090 ≤ op && op ≤ 0x0BF) ||
  (0x0CB ≤ op && op ≤ 0x0FF) || (0x111 ≤ op && op ≤ 0x13F) || (0x155 ≤ op && op ≤ 0x17F) ||
  (0x187 ≤ op && op ≤ 0x1BF) || (0x1CD ≤ op && op ≤ 0x1DF) || (0x1EE ≤ op && op ≤ 0x1EF) ||
  (0x1F3 ≤ op && op ≤ 0x1FF)

/-- The named checks on an instruction's fields, each with its verdict. An instruction not named here has no field that
can be wrong in itself; its registers are checked against the window (R73) and the control byte (R52, R54) at issue. -/
def fieldChecks : Instr → List (String × Bool)
  | .icmp d _ _ _ => [("predicate d", predOk d)]
  | .icmpi d _ _ _ => [("predicate d", predOk d)]
  | .fcmp d _ _ _ => [("predicate d", predOk d)]
  | .bfx _ _ _ x => [("x of BFX", x.toNat ≤ 1)]
  | .plop d a b _ => [("predicate pd", predOk d), ("predicate pa", predOk a), ("predicate pb", predOk b)]
  | .p2v d a x =>
    [("v destination", isV d), ("predicate a", predOk7 a), ("x of P2V", x.toNat ≤ 2), ("a zero", x.toNat != 2 || a == 0)]
  | .v2p d _ x => [("predicate d", predOk7 d), ("x of V2P", x.toNat ≤ 2), ("d zero", x.toNat != 2 || d == 0)]
  | .vote d a x => [("predicate a", predOk7 a), ("predicate d", x.toNat == 2 || predOk7 d)]
  | .xl d _ _ x => [("v destination", isV d), ("x of XL", x.toNat ≤ 1)]
  | .xli d _ _ _ => [("v destination", isV d)]
  | .qx d .. => [("v destination", isV d)]
  | .gred _ _ o => [("op of GRED", o.toNat ≤ 5)]
  | .gscan d _ _ o => [("v destination", isV d), ("op of GSCAN", o.toNat ≤ 5)]
  | .pack d _ _ x => [("v destination", isV d), ("x of PACK", x.toNat ≤ 1)]
  | .unpack d _ _ => [("v destination", isV d)]
  | .specr d k => [("kind of SPECR", k.toNat ≤ 28), ("per-lane kind", isV d || 2 ≤ k.toNat)]
  | .cbenc _ _ x => [("x of CBENC", x.toNat ≤ 2)]
  | .cbdec _ _ x => [("x of CBDEC", x.toNat ≤ 2)]
  | .bra p _ _ => [("predicate p", predOk p)]
  | .jmpi _ x => [("x of JMPI", x.toNat ≤ 1)]
  | .call sf _ => [("slide of CALL", sf != 0)]
  | .calli _ sf => [("slide of CALLI", sf != 0)]
  | .meet d a sf => [("cb of MEET", d.toNat < 8), ("a zero", sf == 1 || a == 0)]
  | .join d => [("cb of JOIN", d.toNat < 8)]
  | .exit a n => [("count of EXIT", n.toNat ≤ 4), ("a zero", n != 0 || a == 0)]
  | .give im => [("rows of GIVE", im.toNat ≤ 104 && im.toNat % 8 == 0)]
  | .claim im => [("rows of CLAIM", im.toNat ≤ 104 && im.toNat % 8 == 0)]
  | .rtt x => [("x of RTT", x.toNat ≤ 1)]
  | .ld d _ sf r w => [("ord and sc of LD", loadOrd r sf 4), ("w of LD", w.toNat ≤ 4), ("v destination", isV d && (w != 4 || pairV d))]
  | .st d _ sf r w => [("ord and sc of ST", storeOrd r sf 4 true), ("w of ST", w.toNat ≤ 4), ("pair of ST", w != 4 || pairV d)]
  | .lds d _ sf r w => [("ord and sc of LDS", loadOrd r sf 1), ("w of LDS", w.toNat ≤ 4), ("v destination", isV d && (w != 4 || pairV d))]
  | .sts d _ sf r w => [("ord and sc of STS", storeOrd r sf 1 false), ("w of STS", w.toNat ≤ 4), ("pair of STS", w != 4 || pairV d)]
  | .ldc d _ b x => [("v destination", isV d), ("x of LDC", x.toNat ≤ 1), ("pair b", x != 0 || pairVS b)]
  | .stc _ _ b x => [("x of STC", x.toNat ≤ 1), ("pair b", x != 0 || pairVS b)]
  | .pref _ sf => [("sc of PREF", sf == 0 || sf == 2 || sf == 4)]
  | .acps _ _ _ x => [("x of ACPS", x.toNat ≤ 1)]
  | .acpt d a b x => [("s operands of ACPT", isS d && isS a && isS b && b != 127), ("x of ACPT", x.toNat ≤ 1)]
  | .atom d _ p sf _ => [("v destination", isV d && (p != 1 || pairV d)), ("aop of ATOM", p.toNat ≤ 9), ("sc of ATOM", sf.toNat ≤ 4)]
  | .atoms d _ p sf _ => [("v destination", isV d && (p != 1 || pairV d)), ("aop of ATOMS", p.toNat ≤ 9), ("sc of ATOMS", sf.toNat ≤ 1)]
  | .red _ _ p sf r => [("aop of RED", p.toNat ≤ 9 && p != 1), ("sc of RED", sf.toNat ≤ 4), ("ord of RED", r == 0 || r == 2)]
  | .redc _ _ p sf r => [("aop of REDC", p.toNat ≤ 9 && p != 1), ("sc of REDC", sf.toNat ≤ 4), ("ord of REDC", r == 0 || r == 2)]
  | .bar d a c _ _ => [("predicate d", predOk7 d), ("a zero", c == 1 || a == 0)]
  | .bara _ a c _ _ => [("a zero", c == 1 || a == 0)]
  | .barw d _ _ _ => [("predicate d", predOk7 d)]
  | .cbar d a c _ b => [("predicate d", predOk7 d), ("a zero", c == 1 || a == 0), ("bar of CBAR", b.toNat < 8)]
  | .fence _ k sf => [("kind of FENCE", k != 3), ("sc of FENCE", sf.toNat ≤ 4 || (sf == 5 && k == 1))]
  | .flush a b x => [("x of FLUSH", x.toNat ≤ 1), ("a and b zero", x == 0 || (a == 0 && b == 0))]
  | .bbc d _ => [("s operand of BBC", isS d)]
  | .redset d _ b x => [("x of REDSET", x.toNat ≤ 1), ("d and b zero", x == 0 || (d == 0 && b == 0))]
  | .redpoll d _ x => [("v destination", isV d), ("x of REDPOLL", x.toNat ≤ 1)]
  | .perfrd _ n => [("number of PERFRD", perfListed n)]
  | .sample a k => [("a zero", k == 0 || a == 0)]
  | .mma _ a b f => [("a4 and b4", a.toNat < 28 && b.toNat < 28), ("bundle f", quadVS f)]
  | .mmas _ a b f _ => [("a4 and b4", a.toNat < 28 && b.toNat < 28), ("bundle f", quadVS f)]
  | .mmaq c a b f _ => [("acc of MMAQ", c.toNat % 4 == 0), ("a4 and b4", a.toNat < 28 && b.toNat < 28), ("bundle f", quadVS f)]
  | .mmaqs c a b f _ => [("acc of MMAQS", c.toNat % 4 == 0), ("a4 and b4", a.toNat < 28 && b.toNat < 28), ("bundle f", quadVS f)]
  | .accz c sf => [("sel of ACCZ", sf != 3), ("acc of ACCZ", c.toNat % (2 ^ sf.toNat) == 0)]
  | .accrd _ a _ => [("a4", a.toNat < 28)]
  | .accwr _ a _ => [("a4", a.toNat < 28)]
  | .accsc c a sf => [("a4", a.toNat < 28), ("sel of ACCSC", sf.toNat ≤ 1), ("acc of ACCSC", sf == 0 || c.toNat % 2 == 0)]
  | .accmax c a sf => [("a4", a.toNat < 28), ("acc of ACCMAX", sf.toNat % 2 == 0 || c.toNat % 2 == 0)]
  | .accsum c a sf => [("a4", a.toNat < 28), ("acc of ACCSUM", sf.toNat % 2 == 0 || c.toNat % 2 == 0)]
  | .accst _ f sf => [("s operand f", isS f), ("sel of ACCST", sf != 3)]
  | .accld _ f sf => [("s operand f", isS f), ("sel of ACCLD", sf != 3)]
  | .mtr d a => [("group d", quadV d), ("group a", quadV a)]
  | .xfer a sf v => [("a zero", sf == 1 || a == 0), ("version zero", sf == 0 || v == 0)]
  | .mcall d _ => [("parameters of MCALL", quadVS d)]
  | .mstore d _ _ => [("predicate d", predOk7 d)]
  | .dtload d _ _ => [("predicate d", predOk7 d)]
  | .dtset a o _ => [("op of DTSET", o != 3), ("a zero", o == 2 || a == 0)]
  | .dadd d _ _ _ => [("v destination", isV d)]
  | .dsub d _ _ _ => [("v destination", isV d)]
  | .dcmp d _ _ _ => [("predicates of DCMP", d.toNat ≤ 21)]
  | .dconv d _ _ => [("v destination", isV d)]
  | .dstate d _ => [("v destination", isV d)]
  | .cbload _ x => [("x of CBLOAD", x.toNat ≤ 2)]
  | .sysrd d _ => [("s destination", isS d)]
  | .syswr a _ => [("s operand a", isS a)]
  | .unassignedOpcode w => [("unassigned opcode", opcodeUnassigned (w.extractLsb' 23 9).toNat)]
  | _ => []

/-- The first failing check of an instruction, if any. -/
def firstFault (i : Instr) : Option String := ((fieldChecks i).find? (fun c => !c.2)).map Prod.fst

/-- Every field of the instruction is one the manual allows (R58). -/
def wellFormed (i : Instr) : Bool := (fieldChecks i).all (·.2)

end Sys2Proof
end

