-- ==== Sys2Proof/Decode.lean ====
section
/-! DEFINITION. Decoding and encoding of instruction words (R57, R60, R61), and the word of a table row. -/

namespace Sys2Proof

/-- Why a word is no instruction: each is ILLOP at step 3 of R62. -/
inductive Reject where
  /-- A bit that R58 wants zero is not. -/
  | nonzeroField
  /-- A field holds a value the manual refuses; the check's name. -/
  | illFormed (check : String)
  deriving DecidableEq, Repr

/-- A row of the opcode map: the bits of `mask` below the opcode must be zero. -/
def row (w mask : BitVec 32) (i : Instr) : Option Instr := if w &&& mask = 0 then some i else none

/-- The opcodes 0x000 to 0x01F of R60: the low five opcode bits choose the row. -/
def decodeGroup0 (w : BitVec 32) : Nat → Option Instr
  | 0 => row w 0x000003#32 (.iadd (w.extractLsb' 16 7) (w.extractLsb' 9 7) (w.extractLsb' 2 7))
  | 1 => row w 0x000003#32 (.isub (w.extractLsb' 16 7) (w.extractLsb' 9 7) (w.extractLsb' 2 7))
  | 2 => row w 0x000003#32 (.iadds (w.extractLsb' 16 7) (w.extractLsb' 9 7) (w.extractLsb' 2 7))
  | 3 => row w 0x000003#32 (.isubs (w.extractLsb' 16 7) (w.extractLsb' 9 7) (w.extractLsb' 2 7))
  | 4 => row w 0x000003#32 (.imul (w.extractLsb' 16 7) (w.extractLsb' 9 7) (w.extractLsb' 2 7))
  | 5 => row w 0x000003#32 (.imulh (w.extractLsb' 16 7) (w.extractLsb' 9 7) (w.extractLsb' 2 7))
  | 6 => row w 0x000003#32 (.imac (w.extractLsb' 16 7) (w.extractLsb' 9 7) (w.extractLsb' 2 7))
  | 7 => row w 0x000003#32 (.idiv (w.extractLsb' 16 7) (w.extractLsb' 9 7) (w.extractLsb' 2 7))
  | 8 => row w 0x000003#32 (.irem (w.extractLsb' 16 7) (w.extractLsb' 9 7) (w.extractLsb' 2 7))
  | 9 => row w 0x000003#32 (.imin (w.extractLsb' 16 7) (w.extractLsb' 9 7) (w.extractLsb' 2 7))
  | 10 => row w 0x000003#32 (.imax (w.extractLsb' 16 7) (w.extractLsb' 9 7) (w.extractLsb' 2 7))
  | 11 => row w 0x0001FF#32 (.iabs (w.extractLsb' 16 7) (w.extractLsb' 9 7))
  | 12 => row w 0x0001FF#32 (.ineg (w.extractLsb' 16 7) (w.extractLsb' 9 7))
  | 13 => row w 0x000003#32 (.and (w.extractLsb' 16 7) (w.extractLsb' 9 7) (w.extractLsb' 2 7))
  | 14 => row w 0x000003#32 (.or (w.extractLsb' 16 7) (w.extractLsb' 9 7) (w.extractLsb' 2 7))
  | 15 => row w 0x000003#32 (.xor (w.extractLsb' 16 7) (w.extractLsb' 9 7) (w.extractLsb' 2 7))
  | 16 => row w 0x000003#32 (.andn (w.extractLsb' 16 7) (w.extractLsb' 9 7) (w.extractLsb' 2 7))
  | 17 => row w 0x0001FF#32 (.not (w.extractLsb' 16 7) (w.extractLsb' 9 7))
  | 18 => row w 0x000003#32 (.shl (w.extractLsb' 16 7) (w.extractLsb' 9 7) (w.extractLsb' 2 7))
  | 19 => row w 0x000003#32 (.shr (w.extractLsb' 16 7) (w.extractLsb' 9 7) (w.extractLsb' 2 7))
  | 20 => row w 0x000003#32 (.sar (w.extractLsb' 16 7) (w.extractLsb' 9 7) (w.extractLsb' 2 7))
  | 21 => row w 0x000003#32 (.rotl (w.extractLsb' 16 7) (w.extractLsb' 9 7) (w.extractLsb' 2 7))
  | 22 => row w 0x000000#32 (.bfx (w.extractLsb' 16 7) (w.extractLsb' 9 7) (w.extractLsb' 2 7) (w.extractLsb' 0 2))
  | 23 => row w 0x000003#32 (.bfi (w.extractLsb' 16 7) (w.extractLsb' 9 7) (w.extractLsb' 2 7))
  | 24 => row w 0x0001FF#32 (.popc (w.extractLsb' 16 7) (w.extractLsb' 9 7))
  | 25 => row w 0x0001FF#32 (.clz (w.extractLsb' 16 7) (w.extractLsb' 9 7))
  | 26 => row w 0x0001FF#32 (.ctz (w.extractLsb' 16 7) (w.extractLsb' 9 7))
  | 27 => row w 0x0001FF#32 (.brev (w.extractLsb' 16 7) (w.extractLsb' 9 7))
  | 28 => row w 0x000003#32 (.bytep (w.extractLsb' 16 7) (w.extractLsb' 9 7) (w.extractLsb' 2 7))
  | 29 => row w 0x000000#32 (.sel (w.extractLsb' 16 7) (w.extractLsb' 9 7) (w.extractLsb' 2 7) (w.extractLsb' 0 2))
  | 30 => row w 0x0001FF#32 (.mov (w.extractLsb' 16 7) (w.extractLsb' 9 7))
  | 31 => row w 0x000000#32 (.lea (w.extractLsb' 16 7) (w.extractLsb' 9 7) (w.extractLsb' 2 7) (w.extractLsb' 0 2))
  | _ => none

/-- The opcodes 0x020 to 0x03F of R60: the low five opcode bits choose the row. -/
def decodeGroup1 (w : BitVec 32) : Nat → Option Instr
  | 0 => row w 0x600000#32 (.icmp (w.extractLsb' 16 5) (w.extractLsb' 9 7) (w.extractLsb' 2 7) (w.extractLsb' 0 2))
  | 1 => row w 0x000000#32 (.iaddi (w.extractLsb' 16 7) (w.extractLsb' 0 16))
  | 2 => row w 0x000000#32 (.movi (w.extractLsb' 16 7) (w.extractLsb' 0 16))
  | 3 => row w 0x000000#32 (.movk0 (w.extractLsb' 16 7) (w.extractLsb' 0 16))
  | 4 => row w 0x000000#32 (.movk1 (w.extractLsb' 16 7) (w.extractLsb' 0 16))
  | 5 => row w 0x000000#32 (.movk2 (w.extractLsb' 16 7) (w.extractLsb' 0 16))
  | 6 => row w 0x000000#32 (.movk3 (w.extractLsb' 16 7) (w.extractLsb' 0 16))
  | 7 => row w 0x600000#32 (.icmpi (w.extractLsb' 16 5) (w.extractLsb' 9 7) (w.extractLsb' 2 7) (w.extractLsb' 0 2))
  | 8 => row w 0x000000#32 (.andi (w.extractLsb' 16 7) (w.extractLsb' 0 16))
  | 9 => row w 0x000000#32 (.ori (w.extractLsb' 16 7) (w.extractLsb' 0 16))
  | 10 => row w 0x000000#32 (.xori (w.extractLsb' 16 7) (w.extractLsb' 0 16))
  | 11 => row w 0x0001C0#32 (.shli (w.extractLsb' 16 7) (w.extractLsb' 9 7) (w.extractLsb' 0 6))
  | 12 => row w 0x0001C0#32 (.shri (w.extractLsb' 16 7) (w.extractLsb' 9 7) (w.extractLsb' 0 6))
  | 13 => row w 0x0001C0#32 (.sari (w.extractLsb' 16 7) (w.extractLsb' 9 7) (w.extractLsb' 0 6))
  | 14 => row w 0x000000#32 (.imuli (w.extractLsb' 16 7) (w.extractLsb' 0 16))
  | 15 => row w 0x000000#32 (.dot4 (w.extractLsb' 16 7) (w.extractLsb' 9 7) (w.extractLsb' 2 7) (w.extractLsb' 0 2))
  | _ => none

/-- The opcodes 0x040 to 0x05F of R60: the low five opcode bits choose the row. -/
def decodeGroup2 (w : BitVec 32) : Nat → Option Instr
  | 0 => row w 0x000000#32 (.plop (w.extractLsb' 18 5) (w.extractLsb' 13 5) (w.extractLsb' 8 5) (w.extractLsb' 0 8))
  | 1 => row w 0x0001FC#32 (.p2v (w.extractLsb' 16 7) (w.extractLsb' 9 7) (w.extractLsb' 0 2))
  | 2 => row w 0x0001FC#32 (.v2p (w.extractLsb' 16 7) (w.extractLsb' 9 7) (w.extractLsb' 0 2))
  | 3 => row w 0x0001FC#32 (.vote (w.extractLsb' 16 7) (w.extractLsb' 9 7) (w.extractLsb' 0 2))
  | 4 => row w 0x7F0000#32 (.setmode (w.extractLsb' 0 16))
  | 5 => row w 0x7FFFF0#32 (.setmodeh (w.extractLsb' 0 4))
  | 6 => row w 0x00FFFF#32 (.getmode (w.extractLsb' 16 7))
  | 7 => row w 0x000000#32 (.xl (w.extractLsb' 16 7) (w.extractLsb' 9 7) (w.extractLsb' 2 7) (w.extractLsb' 0 2))
  | 8 => row w 0x000000#32 (.xli (w.extractLsb' 16 7) (w.extractLsb' 9 7) (w.extractLsb' 2 7) (w.extractLsb' 0 2))
  | 9 => row w 0x000100#32 (.qx (w.extractLsb' 16 7) (w.extractLsb' 9 7) (w.extractLsb' 6 2) (w.extractLsb' 4 2) (w.extractLsb' 2 2) (w.extractLsb' 0 2))
  | 10 => row w 0x0001F8#32 (.gred (w.extractLsb' 16 7) (w.extractLsb' 9 7) (w.extractLsb' 0 3))
  | 11 => row w 0x0001F0#32 (.gscan (w.extractLsb' 16 7) (w.extractLsb' 9 7) (w.extractLsb' 3 1) (w.extractLsb' 0 3))
  | 12 => row w 0x000000#32 (.pack (w.extractLsb' 16 7) (w.extractLsb' 9 7) (w.extractLsb' 2 7) (w.extractLsb' 0 2))
  | 13 => row w 0x0001FC#32 (.unpack (w.extractLsb' 16 7) (w.extractLsb' 9 7) (w.extractLsb' 0 2))
  | 14 => row w 0x00FE00#32 (.specr (w.extractLsb' 16 7) (w.extractLsb' 0 9))
  | _ => none

/-- The opcodes 0x080 to 0x09F of R60: the low five opcode bits choose the row. -/
def decodeGroup4 (w : BitVec 32) : Nat → Option Instr
  | 0 => row w 0x000003#32 (.fadd (w.extractLsb' 16 7) (w.extractLsb' 9 7) (w.extractLsb' 2 7))
  | 1 => row w 0x000003#32 (.fsub (w.extractLsb' 16 7) (w.extractLsb' 9 7) (w.extractLsb' 2 7))
  | 2 => row w 0x000003#32 (.fmul (w.extractLsb' 16 7) (w.extractLsb' 9 7) (w.extractLsb' 2 7))
  | 3 => row w 0x000003#32 (.fma (w.extractLsb' 16 7) (w.extractLsb' 9 7) (w.extractLsb' 2 7))
  | 4 => row w 0x000003#32 (.fms (w.extractLsb' 16 7) (w.extractLsb' 9 7) (w.extractLsb' 2 7))
  | 5 => row w 0x000003#32 (.fnma (w.extractLsb' 16 7) (w.extractLsb' 9 7) (w.extractLsb' 2 7))
  | 6 => row w 0x000003#32 (.fmin (w.extractLsb' 16 7) (w.extractLsb' 9 7) (w.extractLsb' 2 7))
  | 7 => row w 0x000003#32 (.fmax (w.extractLsb' 16 7) (w.extractLsb' 9 7) (w.extractLsb' 2 7))
  | 8 => row w 0x0001FF#32 (.fabs (w.extractLsb' 16 7) (w.extractLsb' 9 7))
  | 9 => row w 0x0001FF#32 (.fneg (w.extractLsb' 16 7) (w.extractLsb' 9 7))
  | 10 => row w 0x600000#32 (.fcmp (w.extractLsb' 16 5) (w.extractLsb' 9 7) (w.extractLsb' 2 7) (w.extractLsb' 0 2))
  | 11 => row w 0x0001FF#32 (.fclass (w.extractLsb' 16 7) (w.extractLsb' 9 7))
  | 12 => row w 0x000003#32 (.fdiv (w.extractLsb' 16 7) (w.extractLsb' 9 7) (w.extractLsb' 2 7))
  | 13 => row w 0x0001FF#32 (.fsqrt (w.extractLsb' 16 7) (w.extractLsb' 9 7))
  | 14 => row w 0x000003#32 (.fscale (w.extractLsb' 16 7) (w.extractLsb' 9 7) (w.extractLsb' 2 7))
  | 15 => row w 0x0001FF#32 (.rnd (w.extractLsb' 16 7) (w.extractLsb' 9 7))
  | _ => none

/-- The opcodes 0x0C0 to 0x0DF of R60: the low five opcode bits choose the row. -/
def decodeGroup6 (w : BitVec 32) : Nat → Option Instr
  | 0 => row w 0x0001FF#32 (.frcp (w.extractLsb' 16 7) (w.extractLsb' 9 7))
  | 1 => row w 0x0001FF#32 (.frsq (w.extractLsb' 16 7) (w.extractLsb' 9 7))
  | 2 => row w 0x0001FF#32 (.fexp2 (w.extractLsb' 16 7) (w.extractLsb' 9 7))
  | 3 => row w 0x0001FF#32 (.flog2 (w.extractLsb' 16 7) (w.extractLsb' 9 7))
  | 4 => row w 0x0001FF#32 (.fsinpi (w.extractLsb' 16 7) (w.extractLsb' 9 7))
  | 5 => row w 0x0001FF#32 (.fcospi (w.extractLsb' 16 7) (w.extractLsb' 9 7))
  | 6 => row w 0x0001FF#32 (.ftanh (w.extractLsb' 16 7) (w.extractLsb' 9 7))
  | 7 => row w 0x000000#32 (.cvt (w.extractLsb' 16 7) (w.extractLsb' 9 7) (w.extractLsb' 8 1) (w.extractLsb' 4 4) (w.extractLsb' 0 4))
  | 8 => row w 0x000000#32 (.cvtg (w.extractLsb' 16 7) (w.extractLsb' 9 7) (w.extractLsb' 2 7) (w.extractLsb' 0 2))
  | 9 => row w 0x0001FC#32 (.cbenc (w.extractLsb' 16 7) (w.extractLsb' 9 7) (w.extractLsb' 0 2))
  | 10 => row w 0x0001FC#32 (.cbdec (w.extractLsb' 16 7) (w.extractLsb' 9 7) (w.extractLsb' 0 2))
  | _ => none

/-- The opcodes 0x100 to 0x11F of R60: the low five opcode bits choose the row. -/
def decodeGroup8 (w : BitVec 32) : Nat → Option Instr
  | 0 => row w 0x000000#32 (.bra (w.extractLsb' 18 5) (w.extractLsb' 17 1) (w.extractLsb' 0 17))
  | 1 => row w 0x7F01FC#32 (.jmpi (w.extractLsb' 9 7) (w.extractLsb' 0 2))
  | 2 => row w 0x000000#32 (.call (w.extractLsb' 17 6) (w.extractLsb' 0 17))
  | 3 => row w 0x7F01C0#32 (.calli (w.extractLsb' 9 7) (w.extractLsb' 0 6))
  | 5 => row w 0x0001FE#32 (.meet (w.extractLsb' 16 7) (w.extractLsb' 9 7) (w.extractLsb' 0 1))
  | 6 => row w 0x00FFFF#32 (.join (w.extractLsb' 16 7))
  | 8 => row w 0x000000#32 (.yieldw (w.extractLsb' 21 2) (w.extractLsb' 17 4) (w.extractLsb' 0 17))
  | 9 => row w 0x7F01F8#32 (.exit (w.extractLsb' 9 7) (w.extractLsb' 0 3))
  | 10 => row w 0x7F0000#32 (.give (w.extractLsb' 0 16))
  | 11 => row w 0x7F0000#32 (.claim (w.extractLsb' 0 16))
  | 12 => row w 0x7FFE00#32 (.trap (w.extractLsb' 0 9))
  | 13 => row w 0x7FFFFC#32 (.rtt (w.extractLsb' 0 2))
  | 14 => row w 0x7FFFFE#32 (.tmask (w.extractLsb' 0 1))
  | 4 => row w 0x7FFFFF#32 (.ret)
  | 7 => row w 0x7FFFFF#32 (.yield)
  | 15 => row w 0x7FFFFF#32 (.halt)
  | 16 => row w 0x7FFFFF#32 (.nop)
  | _ => none

/-- The opcodes 0x140 to 0x15F of R60: the low five opcode bits choose the row. -/
def decodeGroup10 (w : BitVec 32) : Nat → Option Instr
  | 0 => row w 0x000000#32 (.ld (w.extractLsb' 16 7) (w.extractLsb' 9 7) (w.extractLsb' 6 3) (w.extractLsb' 3 3) (w.extractLsb' 0 3))
  | 1 => row w 0x000000#32 (.st (w.extractLsb' 16 7) (w.extractLsb' 9 7) (w.extractLsb' 6 3) (w.extractLsb' 3 3) (w.extractLsb' 0 3))
  | 2 => row w 0x000000#32 (.lds (w.extractLsb' 16 7) (w.extractLsb' 9 7) (w.extractLsb' 6 3) (w.extractLsb' 3 3) (w.extractLsb' 0 3))
  | 3 => row w 0x000000#32 (.sts (w.extractLsb' 16 7) (w.extractLsb' 9 7) (w.extractLsb' 6 3) (w.extractLsb' 3 3) (w.extractLsb' 0 3))
  | 4 => row w 0x000000#32 (.ldc (w.extractLsb' 16 7) (w.extractLsb' 9 7) (w.extractLsb' 2 7) (w.extractLsb' 0 2))
  | 5 => row w 0x000000#32 (.stc (w.extractLsb' 16 7) (w.extractLsb' 9 7) (w.extractLsb' 2 7) (w.extractLsb' 0 2))
  | 6 => row w 0x7F003F#32 (.pref (w.extractLsb' 9 7) (w.extractLsb' 6 3))
  | 7 => row w 0x000003#32 (.acp (w.extractLsb' 16 7) (w.extractLsb' 9 7) (w.extractLsb' 2 7))
  | 8 => row w 0x000000#32 (.acps (w.extractLsb' 16 7) (w.extractLsb' 9 7) (w.extractLsb' 2 7) (w.extractLsb' 0 2))
  | 9 => row w 0x000000#32 (.acpt (w.extractLsb' 16 7) (w.extractLsb' 9 7) (w.extractLsb' 2 7) (w.extractLsb' 0 2))
  | 10 => row w 0x000000#32 (.atom (w.extractLsb' 16 7) (w.extractLsb' 9 7) (w.extractLsb' 5 4) (w.extractLsb' 2 3) (w.extractLsb' 0 2))
  | 11 => row w 0x000000#32 (.atoms (w.extractLsb' 16 7) (w.extractLsb' 9 7) (w.extractLsb' 5 4) (w.extractLsb' 2 3) (w.extractLsb' 0 2))
  | 12 => row w 0x000000#32 (.red (w.extractLsb' 16 7) (w.extractLsb' 9 7) (w.extractLsb' 5 4) (w.extractLsb' 2 3) (w.extractLsb' 0 2))
  | 13 => row w 0x000000#32 (.redc (w.extractLsb' 16 7) (w.extractLsb' 9 7) (w.extractLsb' 5 4) (w.extractLsb' 2 3) (w.extractLsb' 0 2))
  | 14 => row w 0x000080#32 (.bar (w.extractLsb' 16 7) (w.extractLsb' 9 7) (w.extractLsb' 8 1) (w.extractLsb' 5 2) (w.extractLsb' 0 5))
  | 15 => row w 0x000080#32 (.bara (w.extractLsb' 16 7) (w.extractLsb' 9 7) (w.extractLsb' 8 1) (w.extractLsb' 5 2) (w.extractLsb' 0 5))
  | 16 => row w 0x000180#32 (.barw (w.extractLsb' 16 7) (w.extractLsb' 9 7) (w.extractLsb' 5 2) (w.extractLsb' 0 5))
  | 17 => row w 0x000080#32 (.cbar (w.extractLsb' 16 7) (w.extractLsb' 9 7) (w.extractLsb' 8 1) (w.extractLsb' 5 2) (w.extractLsb' 0 5))
  | 18 => row w 0x7FFF80#32 (.fence (w.extractLsb' 5 2) (w.extractLsb' 3 2) (w.extractLsb' 0 3))
  | 19 => row w 0x7F0000#32 (.flush (w.extractLsb' 9 7) (w.extractLsb' 2 7) (w.extractLsb' 0 2))
  | 20 => row w 0x7F01FC#32 (.ckpt (w.extractLsb' 9 7) (w.extractLsb' 0 2))
  | _ => none

/-- The opcodes 0x180 to 0x19F of R60: the low five opcode bits choose the row. -/
def decodeGroup12 (w : BitVec 32) : Nat → Option Instr
  | 0 => row w 0x01FFFF#32 (.waitc (w.extractLsb' 21 2) (w.extractLsb' 17 4))
  | 1 => row w 0x00FFFC#32 (.cntrd (w.extractLsb' 16 7) (w.extractLsb' 0 2))
  | 2 => row w 0x000000#32 (.bbc (w.extractLsb' 16 7) (w.extractLsb' 0 16))
  | 3 => row w 0x000000#32 (.redset (w.extractLsb' 16 7) (w.extractLsb' 9 7) (w.extractLsb' 2 7) (w.extractLsb' 0 2))
  | 4 => row w 0x0001FC#32 (.redpoll (w.extractLsb' 16 7) (w.extractLsb' 9 7) (w.extractLsb' 0 2))
  | 5 => row w 0x00FE00#32 (.perfrd (w.extractLsb' 16 7) (w.extractLsb' 0 9))
  | 6 => row w 0x7F01FE#32 (.sample (w.extractLsb' 9 7) (w.extractLsb' 0 1))
  | _ => none

/-- The opcodes 0x1C0 to 0x1DF of R60: the low five opcode bits choose the row. -/
def decodeGroup14 (w : BitVec 32) : Nat → Option Instr
  | 0 => row w 0x000003#32 (.mma (w.extractLsb' 19 4) (w.extractLsb' 14 5) (w.extractLsb' 9 5) (w.extractLsb' 2 7))
  | 1 => row w 0x000000#32 (.mmas (w.extractLsb' 19 4) (w.extractLsb' 14 5) (w.extractLsb' 9 5) (w.extractLsb' 2 7) (w.extractLsb' 0 2))
  | 2 => row w 0x000000#32 (.mmaq (w.extractLsb' 19 4) (w.extractLsb' 14 5) (w.extractLsb' 9 5) (w.extractLsb' 2 7) (w.extractLsb' 0 2))
  | 3 => row w 0x000000#32 (.mmaqs (w.extractLsb' 19 4) (w.extractLsb' 14 5) (w.extractLsb' 9 5) (w.extractLsb' 2 7) (w.extractLsb' 0 2))
  | 4 => row w 0x07FFFC#32 (.accz (w.extractLsb' 19 4) (w.extractLsb' 0 2))
  | 5 => row w 0x003FFC#32 (.accrd (w.extractLsb' 19 4) (w.extractLsb' 14 5) (w.extractLsb' 0 2))
  | 6 => row w 0x003FFC#32 (.accwr (w.extractLsb' 19 4) (w.extractLsb' 14 5) (w.extractLsb' 0 2))
  | 7 => row w 0x003FFC#32 (.accsc (w.extractLsb' 19 4) (w.extractLsb' 14 5) (w.extractLsb' 0 2))
  | 8 => row w 0x003FFC#32 (.accmax (w.extractLsb' 19 4) (w.extractLsb' 14 5) (w.extractLsb' 0 2))
  | 9 => row w 0x003FFC#32 (.accsum (w.extractLsb' 19 4) (w.extractLsb' 14 5) (w.extractLsb' 0 2))
  | 10 => row w 0x07FE00#32 (.accst (w.extractLsb' 19 4) (w.extractLsb' 2 7) (w.extractLsb' 0 2))
  | 11 => row w 0x07FE00#32 (.accld (w.extractLsb' 19 4) (w.extractLsb' 2 7) (w.extractLsb' 0 2))
  | 12 => row w 0x0001FF#32 (.mtr (w.extractLsb' 16 7) (w.extractLsb' 9 7))
  | _ => none

/-- The opcodes 0x1E0 to 0x1FF of R60: the low five opcode bits choose the row. -/
def decodeGroup15 (w : BitVec 32) : Nat → Option Instr
  | 0 => row w 0x7FF000#32 (.safept (w.extractLsb' 0 12))
  | 1 => row w 0x7F0000#32 (.xfer (w.extractLsb' 9 7) (w.extractLsb' 8 1) (w.extractLsb' 0 8))
  | 2 => row w 0x00FFFF#32 (.xferq (w.extractLsb' 16 7))
  | 3 => row w 0x00FF00#32 (.mcall (w.extractLsb' 16 7) (w.extractLsb' 0 8))
  | 4 => row w 0x000100#32 (.mstore (w.extractLsb' 16 7) (w.extractLsb' 9 7) (w.extractLsb' 0 8))
  | 5 => row w 0x0001FC#32 (.dtload (w.extractLsb' 16 7) (w.extractLsb' 9 7) (w.extractLsb' 0 2))
  | 6 => row w 0x7F01F0#32 (.dtset (w.extractLsb' 9 7) (w.extractLsb' 2 2) (w.extractLsb' 0 2))
  | 7 => row w 0x000000#32 (.dadd (w.extractLsb' 16 7) (w.extractLsb' 9 7) (w.extractLsb' 2 7) (w.extractLsb' 0 2))
  | 8 => row w 0x000000#32 (.dsub (w.extractLsb' 16 7) (w.extractLsb' 9 7) (w.extractLsb' 2 7) (w.extractLsb' 0 2))
  | 9 => row w 0x000000#32 (.dcmp (w.extractLsb' 16 7) (w.extractLsb' 9 7) (w.extractLsb' 2 7) (w.extractLsb' 0 2))
  | 10 => row w 0x0001FC#32 (.dconv (w.extractLsb' 16 7) (w.extractLsb' 9 7) (w.extractLsb' 0 2))
  | 11 => row w 0x00FFFC#32 (.dstate (w.extractLsb' 16 7) (w.extractLsb' 0 2))
  | 12 => row w 0x7F01FC#32 (.cbload (w.extractLsb' 9 7) (w.extractLsb' 0 2))
  | 13 => row w 0x00FFF8#32 (.cbrd (w.extractLsb' 16 7) (w.extractLsb' 1 2) (w.extractLsb' 0 1))
  | 16 => row w 0x00FE00#32 (.sysrd (w.extractLsb' 16 7) (w.extractLsb' 0 9))
  | 17 => row w 0x7F0000#32 (.syswr (w.extractLsb' 9 7) (w.extractLsb' 0 9))
  | 18 => row w 0x7F01FF#32 (.tlog (w.extractLsb' 9 7))
  | _ => none

/-- The row of R60 that a word's opcode names, with its fields; none when a bit that R58 wants zero is not. -/
def decodeRow (w : BitVec 32) : Option Instr :=
  let lo := (w.extractLsb' 23 5).toNat
  match (w.extractLsb' 28 4).toNat with
  | 0 => decodeGroup0 w lo
  | 1 => decodeGroup1 w lo
  | 2 => decodeGroup2 w lo
  | 4 => decodeGroup4 w lo
  | 6 => decodeGroup6 w lo
  | 8 => decodeGroup8 w lo
  | 10 => decodeGroup10 w lo
  | 12 => decodeGroup12 w lo
  | 14 => decodeGroup14 w lo
  | 15 => decodeGroup15 w lo
  | _ => none

/-- The opcode of a word, bits [31:23] (R57). -/
def opcodeOf (w : BitVec 32) : Nat := (w.extractLsb' 23 9).toNat

/-- The instruction a word stands for. An opcode that R61 leaves unassigned is the step that raises ILLOP; a word with a
reserved field value is rejected by the name of the check. -/
def decode (w : BitVec 32) : Except Reject Instr :=
  if opcodeUnassigned (opcodeOf w) then .ok (.unassignedOpcode w)
  else
    match decodeRow w with
    | none => .error .nonzeroField
    | some i => if wellFormed i then .ok i else .error (.illFormed ((firstFault i).getD ""))

/-- The four bytes of a word as memory holds them, the lowest address first (R3). -/
def wordBytes (w : BitVec 32) : List Byte :=
  [w.extractLsb' 0 8, w.extractLsb' 8 8, w.extractLsb' 16 8, w.extractLsb' 24 8]

/-- The word that four bytes of memory hold (R3). -/
def bytesWord : List Byte → BitVec 32
  | [a, b, c, d] => d ++ c ++ b ++ a
  | _ => 0

/-- The instruction the decoder reads from a table row's word: the word is laid out in its four bytes and decoded. -/
def decodeTableWord (nbits w : Nat) : Option Instr :=
  let word := BitVec.ofNat 32 (w % 2 ^ nbits)
  match decode (bytesWord (wordBytes word)) with
  | .ok i => some i
  | .error _ => none

/-- The word of an instruction: the opcode in [31:23] and the fields in the places of R57, every other bit zero (R58).
A step that is no instruction has no word. -/
def encode : Instr → Option (BitVec 32)
  | .iadd d a b => some (0x000#9 ++ d ++ a ++ b ++ 0#2)
  | .isub d a b => some (0x001#9 ++ d ++ a ++ b ++ 0#2)
  | .iadds d a b => some (0x002#9 ++ d ++ a ++ b ++ 0#2)
  | .isubs d a b => some (0x003#9 ++ d ++ a ++ b ++ 0#2)
  | .imul d a b => some (0x004#9 ++ d ++ a ++ b ++ 0#2)
  | .imulh d a b => some (0x005#9 ++ d ++ a ++ b ++ 0#2)
  | .imac d a b => some (0x006#9 ++ d ++ a ++ b ++ 0#2)
  | .idiv d a b => some (0x007#9 ++ d ++ a ++ b ++ 0#2)
  | .irem d a b => some (0x008#9 ++ d ++ a ++ b ++ 0#2)
  | .imin d a b => some (0x009#9 ++ d ++ a ++ b ++ 0#2)
  | .imax d a b => some (0x00A#9 ++ d ++ a ++ b ++ 0#2)
  | .iabs d a => some (0x00B#9 ++ d ++ a ++ 0#9)
  | .ineg d a => some (0x00C#9 ++ d ++ a ++ 0#9)
  | .and d a b => some (0x00D#9 ++ d ++ a ++ b ++ 0#2)
  | .or d a b => some (0x00E#9 ++ d ++ a ++ b ++ 0#2)
  | .xor d a b => some (0x00F#9 ++ d ++ a ++ b ++ 0#2)
  | .andn d a b => some (0x010#9 ++ d ++ a ++ b ++ 0#2)
  | .not d a => some (0x011#9 ++ d ++ a ++ 0#9)
  | .shl d a b => some (0x012#9 ++ d ++ a ++ b ++ 0#2)
  | .shr d a b => some (0x013#9 ++ d ++ a ++ b ++ 0#2)
  | .sar d a b => some (0x014#9 ++ d ++ a ++ b ++ 0#2)
  | .rotl d a b => some (0x015#9 ++ d ++ a ++ b ++ 0#2)
  | .bfx d a b x => some (0x016#9 ++ d ++ a ++ b ++ x)
  | .bfi d a b => some (0x017#9 ++ d ++ a ++ b ++ 0#2)
  | .popc d a => some (0x018#9 ++ d ++ a ++ 0#9)
  | .clz d a => some (0x019#9 ++ d ++ a ++ 0#9)
  | .ctz d a => some (0x01A#9 ++ d ++ a ++ 0#9)
  | .brev d a => some (0x01B#9 ++ d ++ a ++ 0#9)
  | .bytep d a b => some (0x01C#9 ++ d ++ a ++ b ++ 0#2)
  | .sel d a b x => some (0x01D#9 ++ d ++ a ++ b ++ x)
  | .mov d a => some (0x01E#9 ++ d ++ a ++ 0#9)
  | .lea d a b x => some (0x01F#9 ++ d ++ a ++ b ++ x)
  | .icmp d a b c => some (0x020#9 ++ 0#2 ++ d ++ a ++ b ++ c)
  | .iaddi d im => some (0x021#9 ++ d ++ im)
  | .movi d im => some (0x022#9 ++ d ++ im)
  | .movk0 d im => some (0x023#9 ++ d ++ im)
  | .movk1 d im => some (0x024#9 ++ d ++ im)
  | .movk2 d im => some (0x025#9 ++ d ++ im)
  | .movk3 d im => some (0x026#9 ++ d ++ im)
  | .icmpi d a im c => some (0x027#9 ++ 0#2 ++ d ++ a ++ im ++ c)
  | .andi d im => some (0x028#9 ++ d ++ im)
  | .ori d im => some (0x029#9 ++ d ++ im)
  | .xori d im => some (0x02A#9 ++ d ++ im)
  | .shli d a im => some (0x02B#9 ++ d ++ a ++ 0#3 ++ im)
  | .shri d a im => some (0x02C#9 ++ d ++ a ++ 0#3 ++ im)
  | .sari d a im => some (0x02D#9 ++ d ++ a ++ 0#3 ++ im)
  | .imuli d im => some (0x02E#9 ++ d ++ im)
  | .dot4 d a b x => some (0x02F#9 ++ d ++ a ++ b ++ x)
  | .plop d a b t => some (0x040#9 ++ d ++ a ++ b ++ t)
  | .p2v d a x => some (0x041#9 ++ d ++ a ++ 0#7 ++ x)
  | .v2p d a x => some (0x042#9 ++ d ++ a ++ 0#7 ++ x)
  | .vote d a x => some (0x043#9 ++ d ++ a ++ 0#7 ++ x)
  | .setmode im => some (0x044#9 ++ 0#7 ++ im)
  | .setmodeh im => some (0x045#9 ++ 0#19 ++ im)
  | .getmode d => some (0x046#9 ++ d ++ 0#16)
  | .xl d a b x => some (0x047#9 ++ d ++ a ++ b ++ x)
  | .xli d a e m => some (0x048#9 ++ d ++ a ++ e ++ m)
  | .qx d a h g f e => some (0x049#9 ++ d ++ a ++ 0#1 ++ h ++ g ++ f ++ e)
  | .gred d a o => some (0x04A#9 ++ d ++ a ++ 0#6 ++ o)
  | .gscan d a e o => some (0x04B#9 ++ d ++ a ++ 0#5 ++ e ++ o)
  | .pack d a b x => some (0x04C#9 ++ d ++ a ++ b ++ x)
  | .unpack d a x => some (0x04D#9 ++ d ++ a ++ 0#7 ++ x)
  | .specr d k => some (0x04E#9 ++ d ++ 0#7 ++ k)
  | .fadd d a b => some (0x080#9 ++ d ++ a ++ b ++ 0#2)
  | .fsub d a b => some (0x081#9 ++ d ++ a ++ b ++ 0#2)
  | .fmul d a b => some (0x082#9 ++ d ++ a ++ b ++ 0#2)
  | .fma d a b => some (0x083#9 ++ d ++ a ++ b ++ 0#2)
  | .fms d a b => some (0x084#9 ++ d ++ a ++ b ++ 0#2)
  | .fnma d a b => some (0x085#9 ++ d ++ a ++ b ++ 0#2)
  | .fmin d a b => some (0x086#9 ++ d ++ a ++ b ++ 0#2)
  | .fmax d a b => some (0x087#9 ++ d ++ a ++ b ++ 0#2)
  | .fabs d a => some (0x088#9 ++ d ++ a ++ 0#9)
  | .fneg d a => some (0x089#9 ++ d ++ a ++ 0#9)
  | .fcmp d a b c => some (0x08A#9 ++ 0#2 ++ d ++ a ++ b ++ c)
  | .fclass d a => some (0x08B#9 ++ d ++ a ++ 0#9)
  | .fdiv d a b => some (0x08C#9 ++ d ++ a ++ b ++ 0#2)
  | .fsqrt d a => some (0x08D#9 ++ d ++ a ++ 0#9)
  | .fscale d a b => some (0x08E#9 ++ d ++ a ++ b ++ 0#2)
  | .rnd d a => some (0x08F#9 ++ d ++ a ++ 0#9)
  | .frcp d a => some (0x0C0#9 ++ d ++ a ++ 0#9)
  | .frsq d a => some (0x0C1#9 ++ d ++ a ++ 0#9)
  | .fexp2 d a => some (0x0C2#9 ++ d ++ a ++ 0#9)
  | .flog2 d a => some (0x0C3#9 ++ d ++ a ++ 0#9)
  | .fsinpi d a => some (0x0C4#9 ++ d ++ a ++ 0#9)
  | .fcospi d a => some (0x0C5#9 ++ d ++ a ++ 0#9)
  | .ftanh d a => some (0x0C6#9 ++ d ++ a ++ 0#9)
  | .cvt d a k t sf => some (0x0C7#9 ++ d ++ a ++ k ++ t ++ sf)
  | .cvtg d a b x => some (0x0C8#9 ++ d ++ a ++ b ++ x)
  | .cbenc d a x => some (0x0C9#9 ++ d ++ a ++ 0#7 ++ x)
  | .cbdec d a x => some (0x0CA#9 ++ d ++ a ++ 0#7 ++ x)
  | .bra p n o => some (0x100#9 ++ p ++ n ++ o)
  | .jmpi a x => some (0x101#9 ++ 0#7 ++ a ++ 0#7 ++ x)
  | .call sf o => some (0x102#9 ++ sf ++ o)
  | .calli a sf => some (0x103#9 ++ 0#7 ++ a ++ 0#3 ++ sf)
  | .meet d a sf => some (0x105#9 ++ d ++ a ++ 0#8 ++ sf)
  | .join d => some (0x106#9 ++ d ++ 0#16)
  | .yieldw k t o => some (0x108#9 ++ k ++ t ++ o)
  | .exit a n => some (0x109#9 ++ 0#7 ++ a ++ 0#6 ++ n)
  | .give im => some (0x10A#9 ++ 0#7 ++ im)
  | .claim im => some (0x10B#9 ++ 0#7 ++ im)
  | .trap c => some (0x10C#9 ++ 0#14 ++ c)
  | .rtt x => some (0x10D#9 ++ 0#21 ++ x)
  | .tmask im => some (0x10E#9 ++ 0#22 ++ im)
  | .ld d a sf r w => some (0x140#9 ++ d ++ a ++ sf ++ r ++ w)
  | .st d a sf r w => some (0x141#9 ++ d ++ a ++ sf ++ r ++ w)
  | .lds d a sf r w => some (0x142#9 ++ d ++ a ++ sf ++ r ++ w)
  | .sts d a sf r w => some (0x143#9 ++ d ++ a ++ sf ++ r ++ w)
  | .ldc d a b x => some (0x144#9 ++ d ++ a ++ b ++ x)
  | .stc d a b x => some (0x145#9 ++ d ++ a ++ b ++ x)
  | .pref a sf => some (0x146#9 ++ 0#7 ++ a ++ sf ++ 0#6)
  | .acp d a b => some (0x147#9 ++ d ++ a ++ b ++ 0#2)
  | .acps d a b x => some (0x148#9 ++ d ++ a ++ b ++ x)
  | .acpt d a b x => some (0x149#9 ++ d ++ a ++ b ++ x)
  | .atom d a p sf r => some (0x14A#9 ++ d ++ a ++ p ++ sf ++ r)
  | .atoms d a p sf r => some (0x14B#9 ++ d ++ a ++ p ++ sf ++ r)
  | .red d a p sf r => some (0x14C#9 ++ d ++ a ++ p ++ sf ++ r)
  | .redc d a p sf r => some (0x14D#9 ++ d ++ a ++ p ++ sf ++ r)
  | .bar d a c p b => some (0x14E#9 ++ d ++ a ++ c ++ 0#1 ++ p ++ b)
  | .bara d a c p b => some (0x14F#9 ++ d ++ a ++ c ++ 0#1 ++ p ++ b)
  | .barw d a p b => some (0x150#9 ++ d ++ a ++ 0#2 ++ p ++ b)
  | .cbar d a c p b => some (0x151#9 ++ d ++ a ++ c ++ 0#1 ++ p ++ b)
  | .fence p k sf => some (0x152#9 ++ 0#16 ++ p ++ k ++ sf)
  | .flush a b x => some (0x153#9 ++ 0#7 ++ a ++ b ++ x)
  | .ckpt a sf => some (0x154#9 ++ 0#7 ++ a ++ 0#7 ++ sf)
  | .waitc k t => some (0x180#9 ++ k ++ t ++ 0#17)
  | .cntrd d x => some (0x181#9 ++ d ++ 0#14 ++ x)
  | .bbc d im => some (0x182#9 ++ d ++ im)
  | .redset d a b x => some (0x183#9 ++ d ++ a ++ b ++ x)
  | .redpoll d a x => some (0x184#9 ++ d ++ a ++ 0#7 ++ x)
  | .perfrd d n => some (0x185#9 ++ d ++ 0#7 ++ n)
  | .sample a k => some (0x186#9 ++ 0#7 ++ a ++ 0#8 ++ k)
  | .mma c a b f => some (0x1C0#9 ++ c ++ a ++ b ++ f ++ 0#2)
  | .mmas c a b f sf => some (0x1C1#9 ++ c ++ a ++ b ++ f ++ sf)
  | .mmaq c a b f sf => some (0x1C2#9 ++ c ++ a ++ b ++ f ++ sf)
  | .mmaqs c a b f sf => some (0x1C3#9 ++ c ++ a ++ b ++ f ++ sf)
  | .accz c sf => some (0x1C4#9 ++ c ++ 0#17 ++ sf)
  | .accrd c a sf => some (0x1C5#9 ++ c ++ a ++ 0#12 ++ sf)
  | .accwr c a sf => some (0x1C6#9 ++ c ++ a ++ 0#12 ++ sf)
  | .accsc c a sf => some (0x1C7#9 ++ c ++ a ++ 0#12 ++ sf)
  | .accmax c a sf => some (0x1C8#9 ++ c ++ a ++ 0#12 ++ sf)
  | .accsum c a sf => some (0x1C9#9 ++ c ++ a ++ 0#12 ++ sf)
  | .accst c f sf => some (0x1CA#9 ++ c ++ 0#10 ++ f ++ sf)
  | .accld c f sf => some (0x1CB#9 ++ c ++ 0#10 ++ f ++ sf)
  | .mtr d a => some (0x1CC#9 ++ d ++ a ++ 0#9)
  | .safept n => some (0x1E0#9 ++ 0#11 ++ n)
  | .xfer a sf v => some (0x1E1#9 ++ 0#7 ++ a ++ sf ++ v)
  | .xferq d => some (0x1E2#9 ++ d ++ 0#16)
  | .mcall d k => some (0x1E3#9 ++ d ++ 0#8 ++ k)
  | .mstore d a k => some (0x1E4#9 ++ d ++ a ++ 0#1 ++ k)
  | .dtload d a c => some (0x1E5#9 ++ d ++ a ++ 0#7 ++ c)
  | .dtset a o c => some (0x1E6#9 ++ 0#7 ++ a ++ 0#5 ++ o ++ c)
  | .dadd d a b c => some (0x1E7#9 ++ d ++ a ++ b ++ c)
  | .dsub d a b c => some (0x1E8#9 ++ d ++ a ++ b ++ c)
  | .dcmp d a b c => some (0x1E9#9 ++ d ++ a ++ b ++ c)
  | .dconv d a c => some (0x1EA#9 ++ d ++ a ++ 0#7 ++ c)
  | .dstate d c => some (0x1EB#9 ++ d ++ 0#14 ++ c)
  | .cbload a x => some (0x1EC#9 ++ 0#7 ++ a ++ 0#7 ++ x)
  | .cbrd d q b => some (0x1ED#9 ++ d ++ 0#13 ++ q ++ b)
  | .sysrd d n => some (0x1F0#9 ++ d ++ 0#7 ++ n)
  | .syswr a n => some (0x1F1#9 ++ 0#7 ++ a ++ n)
  | .tlog a => some (0x1F2#9 ++ 0#7 ++ a ++ 0#9)
  | .ret => some (0x104#9 ++ 0#23)
  | .yield => some (0x107#9 ++ 0#23)
  | .halt => some (0x10F#9 ++ 0#23)
  | .nop => some (0x110#9 ++ 0#23)
  | .unassignedOpcode w => some w
  | .runArbitration .. => none
  | .gangPromotion .. => none
  | .instructionFetchFill .. => none
  | .resultReturn .. => none
  | .replaySlotFree .. => none
  | .faultAck .. => none
  | .faultDecline .. => none
  | .copyPiece .. => none
  | .matrixExecute .. => none
  | .remoteWriteAck .. => none
  | .counterReport .. => none
  | .redcContribution .. => none
  | .claimGrant .. => none
  | .ckptCommit .. => none
  | .transferSequence .. => none
  | .transferReleaseTimeout .. => none
  | .gangEnd .. => none
  | .taskDispatch .. => none
  | .taskRunnable .. => none
  | .blockPlace .. => none
  | .gridEnd .. => none
  | .gangKill .. => none
  | .sliceEnd .. => none
  | .stopRequest .. => none
  | .emergencyCopyOut .. => none
  | .dieReset .. => none
  | .deviceReset .. => none
  | .rstkey .. => none
  | .registerWrite .. => none
  | .queueCoreRestart => none
  | .wakeWord .. => none
  | .queueNop .. => none
  | .resume .. => none
  | .signal .. => none
  | .waitv .. => none
  | .waitvRecheck .. => none
  | .waitvPollTimer .. => none
  | .writev .. => none
  | .flushc .. => none
  | .resync .. => none
  | .handler .. => none
  | .objectRecordWrite .. => none
  | .objectRetire .. => none
  | .rindDesignate .. => none
  | .exportSet .. => none
  | .queueCreate .. => none
  | .queueDestroy .. => none
  | .queueResume .. => none
  | .contextCreate .. => none
  | .contextDestroy .. => none
  | .contextRecover .. => none
  | .xferRequest .. => none
  | .curveSet .. => none
  | .budgetSet .. => none
  | .faultModeSet .. => none
  | .debugStop .. => none
  | .debugResume .. => none
  | .debugSingleStep .. => none
  | .debugWrite .. => none
  | .breakpointSet .. => none
  | .dieResetRequest .. => none
  | .samplerSet .. => none
  | .fabricTopology .. => none
  | .attestationQuote .. => none
  | .hostFlagWrite .. => none
  | .hostBar2Read .. => none
  | .hostBar2Write .. => none
  | .pcieAtomicop .. => none
  | .remoteRequest .. => none
  | .flitResend .. => none
  | .portDown .. => none
  | .remoteTimeout .. => none
  | .shootdown .. => none
  | .relocation .. => none
  | .relocationPublish .. => none
  | .recordRebuild .. => none
  | .scrub .. => none
  | .budgetPeriod .. => none
  | .droopEvent .. => none
  | .vatThermal .. => none
  | .pcSample .. => none
  | .pktbad .. => none
  | .writeAccepted .. => none
  | .powerLoss => none
  | .thermalShutdown => none
  | .firmwareRestart => none
  | .powerOn => none

end Sys2Proof
end

