-- ==== Sys2Proof/Machine/Rmw.lean ====
section
/-! DEFINITION. Read-modify-write of one variable: the operations of R240 and where each is performed (R213, R219, R241). -/

namespace Sys2Proof.Machine

/-- Bytes of an atomic's variable (R240). -/
def atomWidth (m : W32) : Nat := if modeEt m = 0 then 8 else 4

/-- A float operation of R240: RNE, no saturation, no flushing, no record. DESIGN CHOICE (log 61): MIN and MAX do not flush either, of
which R240 says only that they are as FMIN and FMAX. -/
def atomFloat (m : W32) (op old v : Nat) : Nat :=
  let f := modeFormat m
  let x := valOf f old
  let y := valOf f v
  match op with
  | 2 => (roundFloat f 0 false false (addVal 0 x y).1).1
  | 6 => (roundFloat f 0 false false (minVal x y)).1
  | _ => (roundFloat f 0 false false (maxVal x y)).1

/-- An integer operation of R240 on w bits. -/
def atomInt (uns : Bool) (w op old v n : Nat) : Nat :=
  match op with
  | 0 => v
  | 1 => if old = v then n else old
  | 2 => (old + v) % 2 ^ w
  | 3 => bitwiseNat (· && ·) w old v
  | 4 => bitwiseNat (· || ·) w old v
  | 5 => bitwiseNat (· != ·) w old v
  | 6 => if intOf uns w v < intOf uns w old then v else old
  | 7 => if intOf uns w old < intOf uns w v then v else old
  | 8 => if v ≤ old then 0 else old + 1
  | _ => if old = 0 || decide (v < old) then v else old - 1

/-- The new value of a variable (R240): v is d, or for CAS the compare value, with n the new one. -/
def atomNew (m : W32) (op old v n : Nat) : Nat :=
  let w := 8 * atomWidth m
  let v' := v % 2 ^ w
  let n' := n % 2 ^ w
  if modeEc m = 2 && (op = 2 || op = 6 || op = 7) then atomFloat m op old v' else atomInt (modeEc m != 0) w op old v' n'

/-- Bytes written in the flag window, or in host memory as a PCI Express AtomicOp, at their locations. -/
def writeThrough (s : State) (d : Nat) (writer : Option Nat) (bs : List (Key × Byte)) : State :=
  let t := bs.foldl (fun s x => performByte s d writer true x.1 x.2) s
  { t with writes := t.writes + 1 }

/-- A variable whose bytes lie at locations ks is read and written indivisibly: by the Rennet of its home die in HBM, at the flag window,
or by the host (R213, R219, R241). Its bytes are those of one line tile, whose locations are given, and may lie in two residency tiles
or two of the 8-byte words a Rennet holds (R188, R203). Answers the old value. -/
def rmwKeys (s : State) (d : Nat) (writer : Option Nat) (line ks : List Key) (f : Nat → Nat) : State × Nat :=
  if ks.all inHbm then
    let t := ((ks.map fun k => k / 8 * 8).eraseDups).foldl (fun t v => rennetTake t line v) s
    let old := bytesNat (ks.map (coherent t))
    ((ks.zip (natBytes ks.length (f old))).foldl (fun t x => performByte t d writer false x.1 x.2) t, old)
  else
    let t := writeBackL2 s fun j => ks.contains j
    let old := bytesNat (ks.map (coherent t))
    (writeThrough t d writer (ks.zip (natBytes ks.length (f old))), old)

/-- A variable of a block's scratchpad read and written (R241). -/
def rmwSpad (s : State) (blk off n : Nat) (f : Nat → Nat) : State × Nat :=
  match s.block? blk with
  | none => (s, 0)
  | some b =>
    let old := bytesNat ((List.range n).map fun i => getAt 0 b.spad (off + i))
    (((natBytes n (f old)).zip (List.range n)).foldl (fun s x => spadWrite s blk (off + x.2) x.1) s, old)

/-- A translated variable read and written; `line` holds the locations of its line tile. One that lies wholly out of a zero-fill object's
shape is not performed and returns 0; of one that lies partly outside, the bytes in shape, which come first, are performed, and the
others read 0 (R193). -/
def rmwPlaces (s : State) (d : Nat) (writer : Option Nat) (line : List Key) (ps : List Place) (f : Nat → Nat) : State × Nat :=
  let qs := ps.filter fun p => decide (p ≠ .zero)
  match qs with
  | .spad blk off :: _ => rmwSpad s blk off qs.length f
  | _ =>
    let ks := qs.filterMap fun p => p.key.map Prod.fst
    if ks.isEmpty then (s, 0) else rmwKeys s d writer line ks f

/-- An atomic's or reduction's access performed at its places. -/
def rmwAccess (s : State) (g : Gang) (a : Access) (ps : List Place) : State × Nat :=
  rmwPlaces s g.die (some g.cuKey) (if a.scratch then [] else lineOf s g.cuKey g.ctx a.ptr) ps
    fun old => atomNew a.mode a.aop old a.v0.toNat a.v1.toNat

end Sys2Proof.Machine
end

