-- ==== Sys2Proof/Machine/Perform.lean ====
section
/-! DEFINITION. What performing an access reads: bytes as the memories hold them, as L1 may still hold them, and as stores that a block or
cluster has already seen leave them (R208, R219, R220, R225, R255, R259, R262). -/

namespace Sys2Proof.Machine

/-- The access reads what it finds, and so consumes poison (R221). -/
def AccessKind.consumes : AccessKind → Bool
  | .store => false | .poll => false
  | _ => true

/-- The access is an atomic or a reduction. -/
def AccessKind.isRmw : AccessKind → Bool
  | .atom => true | .red => true | .redc => true
  | _ => false

/-- A place in host memory. -/
def Place.isHost : Place → Bool
  | .host _ _ => true
  | _ => false

/-- A place on another device. -/
def Place.isRemote : Place → Bool
  | .remote _ => true
  | _ => false

/-- A byte of the flag window. -/
def Place.inWindow (p : Place) : Bool := match p with
  | .phys k => inFlags k
  | _ => false

/-- A byte as the memories hold it now. -/
def byteNow (s : State) : Place → Byte
  | .spad blk off => match s.block? blk with
    | some b => getAt 0 b.spad off
    | none => 0
  | .remote p => Config.remoteByte s.tick s.fresh p
  | p => match p.key with
    | some (k, _) => coherent s k
    | none => 0

/-- Consecutive bytes of one aligned 4-byte word. -/
def oneWord (p q : Place) (i : Nat) : Bool :=
  match p, q with
  | .phys a, .phys b => a % 4 == 0 && b == a + i
  | .host a _, .host b _ => a % 4 == 0 && b == a + i
  | .spad x a, .spad y b => x == y && a % 4 == 0 && b == a + i
  | _, _ => false

/-- The units of a weak access: aligned 4-byte words it covers wholly, and single bytes (R255). -/
def wordUnits : List (Place × Byte) → List (List (Place × Byte))
  | [] => []
  | b0 :: b1 :: b2 :: b3 :: rest =>
    if oneWord b0.1 b1.1 1 && oneWord b0.1 b2.1 2 && oneWord b0.1 b3.1 3 then [b0, b1, b2, b3] :: wordUnits rest
    else [b0] :: wordUnits (b1 :: b2 :: b3 :: rest)
  | b :: rest => [b] :: wordUnits rest

/-- An aligned access of the flag window (R219). -/
def inWindowAligned (n : Nat) (ps : List Place) : Bool :=
  !ps.isEmpty && ps.all Place.inWindow && match ps.head? with
    | some (.phys k) => k % n == 0
    | _ => false

/-- The units in which the bytes of an access are performed: the whole of a strong access or an aligned one of the flag window, else the
units of a weak one (R219, R225, R255). -/
def unitsOf (a : Access) (bs : List (Place × Byte)) : List (List (Place × Byte)) :=
  if bs.isEmpty then []
  else if a.strong || inWindowAligned a.size (bs.map Prod.fst) then [bs]
  else wordUnits bs

/-- A strong access of 16 bytes, and an aligned one of the flag window, is performed as two 8-byte halves, the lower first (R219, R225).
The parts of an access that are performed apart, the upper half marked. -/
def partsOf (a : Access) (ps : List Place) : List (Access × List Place × Bool) :=
  if ps.length = 16 && (a.strong || inWindowAligned 16 ps) then
    let half (i : Nat) := (a.dests.zip (List.range a.dests.length)).filterMap fun d => if d.2 % 2 = i then some d.1 else none
    [({ a with size := 8, dests := half 0 }, ps.take 8, false),
      ({ a with size := 8, dests := half 1, ptr := a.ptr + 8, v0 := a.v1, v1 := a.v0 }, ps.drop 8, true)]
  else [(a, ps, false)]

/-- A store of gang h shown at a level is seen by gang g: at level 0 in its block, at level 1 in its cluster (R259). -/
def seenBy (s : State) (g h : Gang) (level : Nat) : Bool :=
  g.block == h.block || (level == 1 && clusterOf s g.block == clusterOf s h.block)

/-- The place of a shown store in the order of such stores. -/
def Waiting.order (x : Waiting) : Nat := match x.shown with
  | some v => v.2
  | none => 0

/-- An access entered in a list in the order in which stores were shown. -/
def insertShown (x : Nat × Waiting) : List (Nat × Waiting) → List (Nat × Waiting)
  | [] => [x]
  | y :: ys => if x.2.order < y.2.order then x :: y :: ys else y :: insertShown x ys

/-- The shown stores that a gang sees and that are not yet in memory, in the order in which they were shown, each with its gang. -/
def shownTo (s : State) (g : Gang) : List (Nat × Waiting) :=
  (s.gangs.flatMap fun h => (h.2.accesses.filter fun x => match x.shown with
      | some v => seenBy s g h.2 v.1
      | none => false).map fun x => (h.1, x)).foldr insertShown []

/-- The byte that the youngest shown store leaves at a place. -/
def shownByte (xs : List (Nat × Waiting)) (p : Place) : Option Byte :=
  xs.foldl (fun b x => ((x.2.bytes.find? fun y => decide (y.1 = p)).map Prod.snd).or b) none

/-- The older values that L1 may return for a place: none for scratchpad, the flag window, and ordered host objects (R208, R219,
R220). -/
def stalePlace (s : State) (c : Nat) (p : Place) : Option Key :=
  match p.key with
  | some (k, ord) => if ord || inFlags k || (staleOf s c k).isEmpty then none else some k
  | none => none

/-- One unit of a load, read at one moment: stores that the gang has seen, or the bytes that L1 may still hold as of one moment, or those
of the memories; a strong load at scope CLU or wider is performed at L2 (R208, R255, R262). -/
def unitBytes (g : Gang) (atL2 : Bool) (acc : State × List Byte) (ps : List Place) : State × List Byte :=
  let s := acc.1
  let shown := shownTo s g
  let ks := ps.filterMap (stalePlace s g.cuKey)
  if ps.any fun p => (shownByte shown p).isSome then
    (s, acc.2 ++ ps.map fun p => (shownByte shown p).getD (byteNow s p))
  else if ks.isEmpty then (s, acc.2 ++ ps.map (byteNow s))
  else if atL2 then (ks.foldl (fun t k => keepSince t g.cuKey k s.writes) s, acc.2 ++ ps.map (byteNow s))
  else
    let r := s.draw
    let t := chosenTime s g.cuKey ks r.1.toNat
    (ks.foldl (fun u k => keepSince u g.cuKey k t) r.2,
      acc.2 ++ ps.map fun p => match stalePlace s g.cuKey p with
        | some k => valueBefore (coherent s k) (staleOf s g.cuKey k) t
        | none => byteNow s p)

/-- Bytes in 8-byte words. -/
def loadWords (bs : List Byte) : List W64 :=
  if bs.length ≤ 8 then [bytesW64 bs] else [bytesW64 (bs.take 8), bytesW64 (bs.drop 8)]

/-- The bytes a load returns, unit by unit. -/
def loadBytesOf (s : State) (g : Gang) (a : Access) (ps : List Place) : State × List Byte :=
  (unitsOf a (ps.map fun p => (p, 0))).foldl
    (fun acc u => unitBytes g (a.strong && decide (1 ≤ a.scope)) acc (u.map Prod.fst)) (s, [])

/-- An acquire at scope CLU or wider, wherever it is performed, empties the CU's L1 before any later access of the gang (R208). -/
def acquireEffect (s : State) (g : Gang) (a : Access) : State :=
  if a.acquire && decide (1 ≤ a.scope) then invalidateL1 s g.cuKey else s

/-- The words a load returns. A value from another device is free (R185). -/
def loadValue (s : State) (g : Gang) (a : Access) (ps : List Place) : State × List W64 :=
  if ps.any Place.isRemote then
    let r := s.draw
    let r2 := r.2.draw
    (acquireEffect r2.2 g a, loadWords ((w64Bytes r.1 ++ w64Bytes r2.1).take ps.length))
  else
    let r := loadBytesOf s g a ps
    (acquireEffect r.1 g a, loadWords r.2)

/-- An atomic or reduction performed: the old value (R241, R242). That of another device's variable is free. -/
def rmwValue (s : State) (g : Gang) (a : Access) (ps : List Place) : State × List W64 :=
  if ps.any Place.isRemote then
    let r := s.draw
    (acquireEffect r.2 g a, [word (r.1.toNat % 2 ^ (8 * a.size))])
  else
    let r := rmwAccess s g a ps
    (acquireEffect r.1 g a, [word r.2])

/-- The contribution counter of a line tile, at the Rennet that homes it (R335). -/
def counterOf (s : State) (k : Key) : Option ContribCounter := (s.die (homeDie k)).counters.find? fun c => c.line == k

/-- The status word of a counter (R337). -/
def statusWord (ready excess : Bool) (landed : Nat) : W64 :=
  word (2 ^ 63 + bitNat ready * 2 ^ 62 + bitNat excess * 2 ^ 61 + landed % 2 ^ 32)

/-- The status REDPOLL reads (R337). -/
def counterStatus (c : Option ContribCounter) : W64 :=
  match c with
  | none => 0
  | some c => statusWord c.ready c.excess c.landed

/-- A counter's status read for a lane; that of a counter on another device is free, none among them (R337). -/
def pollValue (s : State) (g : Gang) (a : Access) (ps : List Place) : State × List W64 :=
  if ps.any Place.isRemote then
    let r := s.draw
    (acquireEffect r.2 g a, [if r.1.getLsbD 63 then statusWord (r.1.getLsbD 62) (r.1.getLsbD 61) (fld r.1 31 0) else 0])
  else (acquireEffect s g a, [counterStatus ((lineBase s g.cuKey g.ctx a.ptr).bind (counterOf s))])

/-- The register writes that returned words make: the words in turn, once for each copy. -/
def fills (a : Access) (ws : List W64) : List (Nat × W64) :=
  if ws.isEmpty then []
  else (a.dests.zip (List.range a.dests.length)).map fun x => (x.1, ws.getD (x.2 % ws.length) 0)

/-- A register filled by the result its empty state waits for; a later writer's state stands (R53, R77). -/
def fillReg (ticket : Nat) (m : SMap Reg) (x : Nat × W64) : SMap Reg :=
  match (getAt Reg.zero m x.1).st with
  | .empty t => if t = ticket then setAt Reg.zero m x.1 ⟨x.2, .full⟩ else m
  | _ => m

/-- The key of an s register among the registers that results fill. -/
def sKey (n : Nat) : Nat := 2 ^ 32 + n

/-- Register writes by key: those of v registers, and those of s registers by number. -/
def splitKeys (xs : List (Nat × W64)) : List (Nat × W64) × List (Nat × W64) :=
  (xs.filter fun x => decide (x.1 < 2 ^ 32), (xs.filter fun x => decide (2 ^ 32 ≤ x.1)).map fun x => (x.1 - 2 ^ 32, x.2))

/-- Registers filled by the results of a ticket; a lane that has exited takes none (R53, R77, R152). -/
def fillRegs (g : Gang) (ticket : Nat) (vs ss : List (Nat × W64)) : Gang :=
  { g with
    v := (vs.filter fun x => !lane g.exited (x.1 % 32)).foldl (fillReg ticket) g.v
    sreg := ss.foldl (fillReg ticket) g.sreg }

/-- The registers of one lane filled by its access's words (R228). -/
def fillLane (g : Gang) (a : Access) (ws : List W64) : Gang :=
  let x := splitKeys (fills a ws)
  fillRegs g a.ticket x.1 x.2

end Sys2Proof.Machine
end

