-- ==== Sys2Proof/Machine/Stores.lean ====
section
/-! DEFINITION. Stores on their way to the point of coherence, accesses made once for a gang, and what ending a gang's lanes
does to those that wait for them (R152, R216, R250, R257, R372). -/

namespace Sys2Proof.Machine

/-- The limit of a budget class in force on a die is reached in this period (R340). -/
def budgetSpent (s : State) (d n : Nat) : Bool :=
  getAt 0 (s.die d).limits n != 0 && decide (getAt 0 (s.die d).limits n ≤ getAt 0 (s.die d).spent n)

/-- Requests of a budget class on a die (R340): those within the limit are served in this period, the others wait for a later one. -/
def chargeBudget (s : State) (d n k : Nat) : State :=
  let x := s.die d
  let lim := getAt 0 x.limits n
  let now := if lim = 0 then k else min k (lim - getAt 0 x.spent n)
  if k = 0 then s
  else s.setDie d { x with
    spent := setAt 0 x.spent n (getAt 0 x.spent n + now), waiting := setAt 0 x.waiting n (getAt 0 x.waiting n + (k - now)) }

/-- The record of a finished sample written (R344, R345): words 1 to 7, then word 0. The queueing cycles of the stages are free. -/
def writeSample (s : State) (id : Nat) (x : Sampled) : State :=
  match s.gang? id, x.finished with
  | some g, some f =>
    let free := (List.range 4).map fun i => Config.freeWord (s.tick + i)
    let w0 := word (2 ^ 63 + bitNat f.2.2 * 2 ^ 62 + x.op * 2 ^ 48 + f.1 * 2 ^ 40 + x.lane * 2 ^ 32 + f.2.1 % 2 ^ 32)
    let s1 := { s.onGang id fun g => { g with sampled := g.sampled.erase x } with tick := s.tick + 4 }
    let s2 := (writeObject s1 g.cuKey g.ctx (x.record + 8)
      (wordsBytes ([x.addr, x.pc, whoWord g (oneLane x.lane)] ++ free))).getD s1
    (writeObject s2 g.cuKey g.ctx x.record (w64Bytes w0)).getD s2
  | _, _ => s

/-- A sampled access is performed, or cut short by a save (R344). Its record is written at once, or waits where the period's requests of
BUD4 are spent (R340). -/
def finishSample (s : State) (id : Nat) (x : Sampled) (served : Nat) (cut : Bool) : State :=
  match s.gang? id with
  | none => s
  | some g =>
    let now := readClock s g.die
    let y := { x with finished := some (served, now.1 - x.since, cut) }
    let t := now.2.onGang id fun g => { g with sampled := g.sampled.map fun z => if z = x then y else z }
    if budgetSpent t g.die 4 then chargeBudget t g.die 4 1 else writeSample (chargeBudget t g.die 4 1) id y

/-- Where an access is served as far as its places tell (R345); none for memory behind L1 and L2, whose level is free. -/
def servedAt (a : Access) (ps : List Place) : Option Nat :=
  match ps.find? fun p => decide (p ≠ .zero) with
  | some (.spad _ _) => some 6
  | some (.remote _) => some 7
  | some (.host _ ord) => if ord || a.kind.isRmw then some 8 else none
  | some (.phys pa) => if inFlags pa then some 9 else if a.kind.isRmw then some 5 else none
  | _ => none

/-- A lane's access has been performed at some places: its sample is finished (R344, R345). The level of a cached access is free: L1, an
L2, and for device memory the Cave or HBM, for host memory the host. -/
def sampleDone (s : State) (id ticket l : Nat) (a : Access) (ps : List Place) : State :=
  match s.gang? id with
  | none => s
  | some g => match g.sampled.find? fun x => x.ticket == ticket && x.lane == l && x.finished.isNone with
    | none => s
    | some x =>
      let r := s.draw
      let level := if ps.any Place.isHost then [0, 1, 2, 8].getD (r.1.toNat % 4) 8 else r.1.toNat % 5
      finishSample r.2 id x ((servedAt a ps).getD level) false

/-- Two lists of bytes meet. -/
def meets (xs : List (Place × Byte)) (ys : List Place) : Bool := xs.any fun x => ys.any fun y => decide (x.1 = y)

/-- A store whose order the host sees: of an ordered object, or in the flag window (R219, R220, R263). -/
def Waiting.toHost (x : Waiting) : Bool := decide (x.acc.kind = .store) && x.bytes.any fun b => match b.1 with
  | .host _ ord => ord
  | p => p.inWindow

/-- A store already performed at a scope at least as wide (R259). -/
def Waiting.shownAt (x : Waiting) (scope : Nat) : Bool := match x.shown with
  | some v => decide (scope ≤ v.1)
  | none => false

/-- The accesses of an earlier one's lane are of an object that a later one names: while the earlier is held, its places are not known. -/
def Waiting.mayMeet (o x : Waiting) : Bool := !x.acc.scratch && fld o.acc.ptr 54 36 == fld x.acc.ptr 54 36

/-- An access on path G that reads what its gang and its scope have stored, without being performed at L2: it need not wait for a store
that is shown. -/
def Waiting.readsShown (x : Waiting) : Bool :=
  (decide (x.acc.kind = .load) || decide (x.acc.kind = .poll)) && !(x.acc.strong && decide (1 ≤ x.acc.scope))

/-- Local order between two accesses of one gang, o issued before x, as far as it keeps x from being performed (R225, R257): program order
(R138) with an acquire, a release, a common byte, or two stores whose order the host sees; or the two halves of one access. -/
def precedes (o x : Waiting) : Bool :=
  if o.acc.ticket = x.acc.ticket then o.acc.lane == x.acc.lane && x.upper && !o.upper
  else lane o.before x.acc.lane &&
    (o.acc.acquire || (x.acc.release && !o.shownAt x.acc.scope) || (o.toHost && x.toHost) ||
      (if o.held then o.mayMeet x else meets o.bytes (x.bytes.map Prod.fst) && !(o.shown.isSome && x.readsShown)))

/-- What stores that the gang has seen, other gangs' among them, keep an access from (R257, R259, R260): it comes after those shown before
it on a byte of its own, and a release after all of them that its scope has not seen. -/
def shownKeeps (s : State) (g : Gang) (x : Waiting) : Bool :=
  (shownTo s g).any fun e => e.2.ticket != x.ticket && (x.shown.isNone || decide (e.2.order < x.order)) &&
    ((meets e.2.bytes (x.bytes.map Prod.fst) && !x.readsShown) || (x.acc.release && !e.2.shownAt x.acc.scope))

/-- An access of a gang may be performed next, given those of the gang that issued before it and are not yet performed: local order lets
it, and a release comes after the acknowledgement of remote writes (R257, R264). -/
def mayPerform (s : State) (g : Gang) (older : List Waiting) (x : Waiting) : Bool :=
  !x.held && (older.all fun o => !precedes o x) && !shownKeeps s g x &&
  (!x.acc.release || g.remotes.all fun r => !lane r.before x.acc.lane)

/-- A remote lane write of an instruction has left, to be acknowledged (R230). -/
def sendRemote (g : Gang) (x : Waiting) : Gang :=
  if g.remotes.any fun r => r.ticket == x.acc.ticket then
    { g with remotes := g.remotes.map fun r => if r.ticket = x.acc.ticket then { r with accs := r.accs ++ [x.acc] } else r }
  else { g with remotes := g.remotes ++ [⟨x.acc.ticket, [x.acc], x.before⟩] }

/-- Every byte of the Rind that an L2 or a Rennet holds is written to memory, with its CRC: a 256-byte block is one request of BUD2 on the
die whose L2 held it (R216, R340). -/
def drainRind (s : State) : State :=
  let blocks (d : Die) : Nat := (((d.l2.map Prod.fst).filter (inRind s)).map (· / 256)).eraseDups.length
  writeBack (s.dies.foldl (fun t d => chargeBudget t d.1 2 (blocks d.2)) s) (inRind s)

/-- One access that has issued is performed (R216, R228, R255). When the last of a store instruction's bytes are written, the sectors
they cover whole lose their poison (R221); a release at scope RCV, when performed, has every byte of the Rind in memory (R216, R265). A
write to another device leaves, and is performed when that acknowledges it. -/
def performWaiting (s : State) (id : Nat) (x : Waiting) : State :=
  match s.gang? id with
  | none => s
  | some g =>
    let left := g.accesses.filter fun y => y.ticket != x.ticket
    let ps := x.bytes.map Prod.fst
    let last := !left.any fun y => y.acc.ticket == x.acc.ticket
    let s1 := s.onGang id fun g => { g with accesses := left }
    let fill (r : State × List W64) : State := r.1.onGang id fun h => fillLane h x.acc r.2
    let s2 := if ps.any Place.isRemote && x.acc.dests.isEmpty then
        chargeBudget (s1.onGang id fun g => sendRemote g x) g.die 7 (bitNat (decide (x.acc.kind = .red)))
      else match x.acc.kind with
      | .load => fill (loadValue s1 g x.acc ps)
      | .poll => fill (pollValue s1 g x.acc ps)
      | .atom => fill (rmwValue s1 g x.acc ps)
      | .store =>
        let t := performBytes s1 g.die (some g.cuKey) x.bytes
        let t := if last then { t with poison := t.poison.filter fun p => !x.clears.contains p } else t
        if last && x.acc.release && x.acc.scope == 5 then drainRind t else t
      | _ => (rmwValue s1 g x.acc ps).1
    if (ps.any Place.isRemote && x.acc.dests.isEmpty) || left.any fun y => y.acc.ticket == x.acc.ticket && y.acc.lane == x.acc.lane then s2
    else sampleDone s2 id x.acc.ticket x.acc.lane x.acc ps

/-- The accesses of a gang that satisfy a test, and those that local order keeps before them. -/
def needed (g : Gang) (p : Waiting → Bool) : List Waiting :=
  g.accesses.foldr (fun x kept => if p x || kept.any (precedes x) then x :: kept else kept) []

/-- One of a gang's waiting accesses is performed, where its order lets it be next. -/
def performAllowed (id : Nat) (s : State) (x : Waiting) : State :=
  match s.gang? id with
  | none => s
  | some g => match g.accesses.find? fun y => y.ticket == x.ticket with
    | none => s
    | some y => if mayPerform s g (g.accesses.takeWhile fun z => z.ticket != x.ticket) y then performWaiting s id y else s

/-- The shown stores that a gang has seen are performed in memory. -/
def settleShown (s : State) (id : Nat) : State :=
  match s.gang? id with
  | none => s
  | some g => (shownTo s g).foldl (fun s e => performWaiting s e.1 e.2) s

/-- The accesses of a gang that satisfy a test are performed, with all that must come before them; held ones, and those that wait for an
acknowledgement, remain (R257). -/
def settleFor (s : State) (id : Nat) (p : Waiting → Bool) : State :=
  match s.gang? id with
  | none => s
  | some g => (needed g p).foldl (performAllowed id) (if (needed g p).any (shownKeeps s g) then settleShown s id else s)

/-- Every access of a gang that precedes later ones of some lanes is performed, after the stores of other gangs that it has seen: what a
release at scope DEV or wider does (R257, R260). -/
def drainFor (s : State) (id : Nat) (m : Mask) : State := settleFor (settleShown s id) id fun x => x.before &&& m != 0

/-- Every access of a gang that can be performed is. -/
def drain (s : State) (id : Nat) : State := drainFor s id allLanes

/-- An access that a release at scope BLK or CLU performs without memory changing: a weak or BLK load, or a store that is no release. -/
def Waiting.simple (x : Waiting) : Bool :=
  !x.held && !x.bytes.any (fun b => b.1.isRemote) && (x.readsShown || (decide (x.acc.kind = .store) && !x.acc.release))

/-- One access is performed at scope BLK (level 0) or CLU (level 1): a store is shown to the gangs in that scope, a load returns. -/
def showOne (id level : Nat) (s : State) (x : Waiting) : State :=
  if x.acc.kind = .store then
    { s.onGang id fun g => { g with accesses := g.accesses.map fun y =>
        if y.ticket = x.ticket then { y with shown := some (match y.shown with
          | some v => (max v.1 level, v.2)
          | none => (level, s.fresh)) } else y } with fresh := s.fresh + 1 }
  else performAllowed id s x

/-- The accesses of a gang that precede later ones of some lanes are performed at scope BLK or CLU, on path G alone (R246, R250, R259):
what a release at that scope does. Where one of them is itself an atomic, a release, or performed at L2, all are performed in
memory. -/
def showFor (s : State) (id level : Nat) (m : Mask) : State :=
  match s.gang? id with
  | none => s
  | some g =>
    let xs := needed g fun x => x.before &&& m != 0
    if xs.all Waiting.simple && (level == 0 || (shownTo s g).all fun e => e.2.shownAt level) then xs.foldl (showOne id level) s
    else drainFor s id m

/-- A release of a gang's earlier accesses on the paths of a mask (R246): on path G alone at scope BLK or CLU, else in memory, where the
copies and the matrix path find them too. -/
def releasePaths (s : State) (id paths scope : Nat) (m : Mask) : State :=
  if paths = 0 && decide (scope ≤ 1) then showFor s id scope m else drainFor s id m

/-- After `releasePaths`, an access that it orders is still not performed at its scope, or a remote write not acknowledged: the strand
waits (R250, R264). -/
def stillOwes (g : Gang) (paths scope : Nat) (m : Mask) : Bool :=
  (g.accesses.any fun x => x.before &&& m != 0 && !(paths = 0 && x.shownAt scope)) || g.remotes.any fun r => r.before &&& m != 0

/-- A gang's accesses that precede later ones of some lanes and touch given places, or are acquires: an access that an instruction makes
for the gang comes after them (R257). -/
def comesBefore (m : Mask) (ps : List Place) (x : Waiting) : Bool :=
  x.before &&& m != 0 && (x.acc.acquire || (if x.held then ps.any (fun p => p.key.isSome) else meets x.bytes ps))

/-- A gang's accesses that come before one made for the gang at given places are performed. -/
def drainPlaces (s : State) (id : Nat) (m : Mask) (ps : List Place) : State := settleFor s id (comesBefore m ps)

/-- Some of them are not yet performed, and the instruction waits. -/
def placesWait (s : State) (id : Nat) (m : Mask) (ps : List Place) : Bool :=
  match s.gang? id with
  | none => false
  | some g => g.accesses.any (comesBefore m ps)

/-- A JOIN orders what the arriving lanes issued before it against what the joined strand issues after it (R138, R148). -/
def joinOrder (g : Gang) (arrived m : Mask) : Gang :=
  { g with
    accesses := g.accesses.map fun x => if x.before &&& arrived != 0 then { x with before := x.before ||| m } else x
    remotes := g.remotes.map fun x => if x.before &&& arrived != 0 then { x with before := x.before ||| m } else x }

/-- Which of a gang's waiting accesses is performed (R216): the n-th, where its order lets it. A release at scope BLK or CLU first shows
what it orders (R259). -/
def performNth (s : State) (id n : Nat) : State :=
  match s.gang? id with
  | none => s
  | some g => match g.accesses[n]? with
    | none => s
    | some x =>
      let mine := (g.accesses.take n).filter fun o => precedes o x
      if x.acc.release && decide (x.acc.scope ≤ 1) && mine.all Waiting.simple then
        performAllowed id (mine.foldl (showOne id x.acc.scope) s) x
      else performAllowed id s x

/-- The gang's access is held in its CU's replay buffer, or waits for a free slot of it; a gang that stalls or waits so is not eligible
(R22, R195, R372). -/
def holdAccess (s : State) (cu : Nat) (h : Held) : State :=
  let c := s.cu cu
  let t := if h.notres then s.onGang h.gang Gang.loseTurn else s
  if c.replay.length < 64 && c.replayWait.isEmpty then t.setCu cu { c with replay := c.replay ++ [h] }
  else (t.setCu cu { c with replayWait := c.replayWait ++ [h] }).onGang h.gang Gang.loseTurn

/-- An access an instruction makes once for its gang. -/
def onceAccess (e : Env) (p : W64) : Access :=
  ⟨.once, lowestLane e.strand, p, none, false, 0, false, false, false, 0, 0, e.mode, 0, 0, [], 0, e.iss.iword, e.iss.ctl,
    e.iss.pc⟩

/-- An uncorrectable error in a record or entry is marked, and its rebuild begins (R198). -/
def markDamaged (s : State) (ctx obj : Nat) (tile : Option Nat) : State :=
  match s.ctx? ctx with
  | none => s
  | some x =>
    let r := bytesWords 16 (coherentBytes s (recordAt x obj) 128)
    let addr := match tile with
      | none => recordAt x obj
      | some j => Record.tmap r + 8 * j
    { s with rebuilds := s.rebuilds ++ [⟨ctx, obj, tile, addr⟩] }

/-- What a miss of an access made once for the gang does (R198, R369, R372): a precise trap, a kill, the gang stalls until the fault service
answers and takes the instruction again, or the strand is held at it while a record or entry is moving. -/
def onceMiss (e : Env) (p : W64) (m : Miss) (s : State) : State :=
  match m with
  | .fault c d => if c.kills then killGang s e.id c d false e.iss.pc e.strand else trapStrand e c d s
  | .damaged t => killGang (markDamaged s e.g.ctx (ptrObj p) t) e.id .objue (if t.isSome then 1 else 0) false e.iss.pc e.strand
  | .notres j sub =>
    let s1 := countDie (dropEntry s e.g.cuKey e.g.ctx (ptrObj p) j) e.g.die 38 1
    holdAs e .drain ((holdAccess s1 e.g.cuKey
      ⟨e.id, onceAccess e p, e.g.ctx, ptrObj p, j, sub, true, false, !(s.die e.g.die).normal, false, []⟩).onGang e.id
        fun g => g.count 7 1)
  | .hold _ => stallQueue s

/-- The bytes of an access made once for the gang with kind read (R315). -/
def readOnce (e : Env) (s : State) (p : W64) (n : Nat) : Except Miss (List Byte) :=
  match translate s e.g.cuKey e.g.ctx p .read false false n with
  | .error m => .error m
  | .ok ps =>
    if ps.any (placePoisoned s) then .error (.fault .memue 0)
    else .ok (ps.map fun q => match q with
      | .remote r => Config.remoteByte s.tick s.fresh r
      | q => match q.key with
        | some (k, _) => coherent s k
        | none => 0)

/-- BBC increments of a gang that the CU has combined are performed (R339); those that meet a moving or absent tile stay (R195). -/
def writeOutBbc (s : State) (id : Nat) : State :=
  match s.gang? id with
  | none => s
  | some g =>
    if (s.cu g.cuKey).bbc.all fun x => x.1 != id then s
    else
      let mine := (s.cu g.cuKey).bbc.filter fun x => x.1 == id
      let s1 := s.setCu g.cuKey { s.cu g.cuKey with bbc := (s.cu g.cuKey).bbc.filter fun x => x.1 != id }
      mine.foldl (fun s x =>
        match translate s g.cuKey g.ctx x.2.1 .atomic false true 8 with
        | .ok ps => (rmwPlaces s g.die (some g.cuKey) (lineOf s g.cuKey g.ctx x.2.1) ps fun old => old + x.2.2).1
        | .error (.fault _ _) => s
        | .error _ => s.setCu g.cuKey { s.cu g.cuKey with bbc := (s.cu g.cuKey).bbc ++ [x] }) s1

/-- Lanes exit (R152): strands at a JOIN look again, barriers expect one gang fewer when its last counted lane goes, combined block
counts are performed, and a gang that has ended answers a pending transfer with NONE (R147, R244, R318, R339). -/
def exitLanes (s : State) (id : Nat) (m : Mask) (pc : W64) : State :=
  match s.gang? id with
  | none => s
  | some g =>
    if m = 0 then s
    else
      let g1 := wakeParked (fun p => decide (p = .join) || decide (p = .c16meet)) { g with exited := g.exited ||| m, exitPc := pc }
      let s1 := s.setGang id { g1 with park := g1.park.filter fun e => !lane m e.1 }
      let s2 := if g.counts && !g1.counts then leaveBars s1 id g.block else s1
      let s3 := writeOutBbc s2 id
      if g1.liveLanes = 0 then wakePartners (stopRuns (endTransferNone s3 id) id) g1 else s3

end Sys2Proof.Machine
end

