-- ==== Sys2Proof/Machine/Tasks.lean ====
section
/-! DEFINITION. Version tables, launch blocks, and the tasks an EXIT makes (R153, R288 to R290, R297, R350). -/

namespace Sys2Proof.Machine

/-- Words of an object read by a part of the device, the first from a pointer on. -/
def objectWords (s : State) (cu ctx : Nat) (p : W64) (k : Nat) : Except Miss (List W64) :=
  match readObject s cu ctx p (8 * k) with
  | .ok bs => .ok (bytesWords k bs)
  | .error m => .error m

/-- The eight words of version v of a version table; none where the table is bad or the entry lies beyond its count (R297). -/
def versionEntry (s : State) (cu ctx : Nat) (vtab : W64) (v : Nat) : Except Miss (Option (List W64)) :=
  match objectWords s cu ctx vtab 1 with
  | .error m => .error m
  | .ok h =>
    if fld (h.getD 0 0) 63 48 != 0x4B56 || decide (fld (h.getD 0 0) 8 0 ≤ v) then .ok none
    else match objectWords s cu ctx (vtab + word (64 + 64 * v)) 8 with
      | .error m => .error m
      | .ok e => .ok (some e)

/-- Fields of a version entry and of its kernel header word (R297, R350). -/
def verValid (e : List W64) : Bool := (e.getD 4 0).getLsbD 0
def verCode (e : List W64) : W64 := e.getD 0 0
def verMap (e : List W64) : W64 := e.getD 1 0
def verFoot (e : List W64) : W64 := e.getD 2 0
def khWneed (e : List W64) : Nat := fld (e.getD 3 0) 31 24
def khRoles (e : List W64) : Nat := fld (e.getD 3 0) 18 16 + 1
def khTneed (e : List W64) : Nat := fld (e.getD 3 0) 12 8
def khMir (e : List W64) : Bool := (e.getD 3 0).getLsbD 2
def khProt (e : List W64) : Bool := (e.getD 3 0).getLsbD 1
def khC16 (e : List W64) : Bool := (e.getD 3 0).getLsbD 0

/-- Fields of a footprint word, word 9 of an image header (R283). -/
def fpSpb (w : W64) : Nat := fld w 63 40
def fpTiles (w : W64) : Nat := fld w 36 32
def fpPool (w : W64) : Nat := fld w 31 16
def fpRows (w : W64) : Nat := fld w 15 8
def fpWindow (w : W64) : Nat := fld w 7 0

/-- The rules of R72 on a gang's rows and window. -/
def rowsOk (n w : Nat) : Bool := n % 8 == 0 && w % 8 == 0 && 8 ≤ w && w ≤ 112 && w ≤ n

/-- The scratchpad part of a CU that blocks take with their barrier words, in steps of 32 KiB (R205). -/
def spadPart (spbs : List Nat) : Nat := (spbs.foldl (fun n b => n + b + 128) 0 + 32767) / 32768 * 32768

/-- Fields of a launch block (R288). -/
def lbMagic (b : List W64) : Nat := fld (b.getD 0 0) 63 48
def lbLanes (b : List W64) : Nat := fld (b.getD 0 0) 4 0 + 1
def lbEntry (b : List W64) : W64 := b.getD 1 0
def lbTag (b : List W64) : Nat := fld (b.getD 2 0) 63 32
def lbDeps (b : List W64) : Nat := fld (b.getD 2 0) 31 0
def lbSpb (b : List W64) : Nat := fld (b.getD 3 0) 63 40
def lbTiles (b : List W64) : Nat := fld (b.getD 3 0) 25 21
def lbRole (b : List W64) : Nat := fld (b.getD 3 0) 20 18
def lbPrio (b : List W64) : Nat := fld (b.getD 3 0) 17 16
def lbRows (b : List W64) : Nat := fld (b.getD 3 0) 15 8
def lbWindow (b : List W64) : Nat := fld (b.getD 3 0) 7 0
def lbSource (b : List W64) (j : Nat) : W64 := b.getD (4 + 2 * j) 0
def lbLength (b : List W64) (j : Nat) : Nat := fld (b.getD (5 + 2 * j) 0) 15 0 + 1
def lbOffset (b : List W64) (j : Nat) : Nat := fld (b.getD (5 + 2 * j) 0) 47 16

/-- The fields of a launch block that R288 requires to be zero. -/
def lbZeros (b : List W64) : Bool :=
  fld (b.getD 0 0) 47 5 == 0 && fld (b.getD 3 0) 39 26 == 0 && (List.range 4).all fun j => fld (b.getD (5 + 2 * j) 0) 63 48 == 0

/-- No CU of a die can hold the footprint (R288). -/
def lbTooBig (b : List W64) : Bool :=
  !rowsOk (lbRows b) (lbWindow b) || decide (16 < lbTiles b) || decide (458752 < spadPart [lbSpb b])

/-- Why the creation of a task drops it: handler code IMGBAD, ROLEBAD or FOOTPRINT (R288). -/
def taskFault (b : List W64) (roles : Nat) : Option Nat :=
  if lbMagic b != 0x4B4C || !lbZeros b then some 4
  else if lbTooBig b then some 7
  else if roles ≤ lbRole b then some 6
  else none

/-- The grid of a gang. -/
def State.grid? (s : State) (g : Nat) : Option Grid := find s.grids g

/-- A task goes to its context's task spill object (R290). DESIGN CHOICE (log 66): the object holds the pointers of the spilled tasks in
order, 8 bytes each. -/
def spillTask (s : State) (cu : Nat) (t : Task) : State :=
  match s.ctx? t.ctx with
  | none => s
  | some x =>
    ((writeObject s cu t.ctx (x.taskSpill + word (8 * x.taskSpilled.length)) (w64Bytes t.ptr)).getD s).onCtx t.ctx fun x =>
      { x with taskSpilled := x.taskSpilled ++ [t] }

/-- A task enters the tail of its CU's queue; beyond 64 entries it goes to the context's task spill object (R290). -/
def queueTask (s : State) (cu : Nat) (t : Task) : State :=
  let c := s.cu cu
  if c.tasks.length < 64 then s.setCu cu { c with tasks := c.tasks ++ [t] } else spillTask s cu t

/-- A launch block whose count has reached zero becomes a task, or is dropped with a record (R153, R288). -/
def createTask (s : State) (g : Gang) (pc p : W64) (b : List W64) : State :=
  let vtab := match s.grid? g.grid with
    | some x => x.vtab
    | none => 0
  let roles := match versionEntry s g.cuKey g.ctx vtab g.curv with
    | .ok (some e) => khRoles e
    | _ => 8
  match taskFault b roles with
  | some c => logGang s g 2 (64 + c) pc g.liveLanes p
  | none =>
    let s1 := queueTask s g.cuKey ⟨p, g.ctx, g.grid, vtab, g.curv, withOff pc 0, pc, some g.die⟩
    { s1 with grids := change s1.grids g.grid fun x => { x with tasks := x.tasks + 1 } }

end Sys2Proof.Machine
end

