-- ==== Sys2Proof/Machine/Control.lean ====
section
/-! DEFINITION. Control flow: branches, calls and returns, convergence, yielding, ending lanes, register rows between gangs, and
traps (R137 to R159). -/

namespace Sys2Proof.Machine

/-- The strand stands at new PCs; where these differ it has split, and the run ends (R19, R20). -/
def moved (e : Env) (g : Gang) (s : State) : State :=
  let s1 := s.setGang e.id g
  if (lanesOf e.strand).all fun l => g.pcOf l == g.pcOf (lowestLane e.strand) then s1 else stopRuns s1 e.id

/-- Under protected launch mode, the first logical lane of a mask whose two copies differ in a value (R377). -/
def parted {α : Type} [DecidableEq α] (e : Env) (m : Mask) (f : Nat → α) : Option Nat :=
  if e.g.prot then (List.range 16).find? fun k =>
    lane m (2 * k) && lane m (2 * k + 1) && !decide (f (2 * k) = f (2 * k + 1))
  else none

/-- A gang whose copies differ at a store (detail bit 4 clear) or at a branch is killed (R368, R377). -/
def killParted (e : Env) (control : Bool) (m : Nat) (s : State) : State :=
  killGang s e.id .sdc (bitNat control * 16 + m) true e.iss.pc e.strand

/-- The lanes of the strand move to targets of their own (R139, R140, R145, R377). -/
def jumpTo (e : Env) (f : Nat → W64) (g : Gang) (s : State) : State :=
  match parted e e.strand f with
  | some m => killParted e true m s
  | none => moved e (g.setPcs e.strand f) s

/-- BRA (R139). -/
def execBra (p : BitVec 5) (n : BitVec 1) (o : BitVec 17) (s : State) : Out :=
  issue (.bra p n o) (fun e s =>
    jumpTo e (fun l => if lane (e.g.pred p.toNat) l != (n == 1) then target e.iss.pc o.toNat else nextSlot e.iss.pc)
      e.g s) s

/-- A code pointer in the code object of a lane's PC, at a slot (R49, R140). -/
def goodTarget (s : State) (pc t : W64) : Bool :=
  ptrObj t == ptrObj pc && (ptrNode t == ptrNode pc || (localNode s (ptrNode t) && localNode s (ptrNode pc))) && goodPc t

/-- The target of JMPI in a lane; none where the sum of x = 1 falls outside the object (R140). -/
def jmpiTarget (e : Env) (a : BitVec 7) (x : Nat) (l : Nat) : Option W64 :=
  if x = 0 then some (e.rd a l)
  else
    let t := ((ptrOff (packetOf e.iss.pc) : Nat) : Int) + (e.rd a l).toInt
    if t < 0 || ((2 ^ 36 : Nat) : Int) ≤ t then none else some (withOff e.iss.pc t.toNat)

/-- JMPI (R140). -/
def execJmpi (a : BitVec 7) (x : BitVec 2) (s : State) : Out :=
  issue (.jmpi a x) (fun e s =>
    let t := jmpiTarget e a x.toNat
    let bad := maskOf fun l => lane e.strand l && match t l with
      | some p => !goodTarget s (e.g.pcOf l) p
      | none => true
    match parted e e.strand t with
    | some m => killParted e true m s
    | none => if bad != 0 then trapLanes e .illpk 0 bad s
    else jumpTo e (fun l => (t l).getD 0) (reads e (.jmpi a x)) s) s

/-- An instruction the whole gang issues: CONV where lanes lie outside the strand (R142). -/
def wholeGang (f : Env → State → State) (e : Env) (s : State) : State :=
  let live := e.g.liveLanes
  if e.strand = live then f e s else trapLanes e .conv 0 (live &&& ~~~e.strand) s

/-- A spilled row: 32 lane values and two bits of state for each lane, as a row of a gang record (R74, R286). -/
def rowBytes (g : Gang) (r : Nat) : List Byte :=
  let reg (l : Nat) := getAt Reg.zero g.v (32 * r + l)
  (laneNumbers.flatMap fun l => w64Bytes (reg l).val) ++
    natBytes 8 (laneNumbers.foldl (fun n l => n + 4 ^ l * match (reg l).st with
      | .full => 0 | .empty _ => 1 | .dead => 2) 0)

/-- A register of a spilled row as the spill object holds it; one that was empty when it was spilled is as the register map has it, where
its result fills it (R74). -/
def spilledReg (g : Gang) (bs : List Byte) (r l : Nat) : Reg :=
  let v := bytesW64 ((bs.drop (8 * l)).take 8)
  match bits (bytesNat ((bs.drop 256).take 8)) (2 * l + 1) (2 * l) with
  | 1 => getAt Reg.zero g.v (32 * r + l)
  | 2 => ⟨v, .dead⟩
  | _ => ⟨v, .full⟩

/-- Rows below a logical number are in the spill object; only their empty registers stay in the map (R74). -/
def leaveRows (g : Gang) (n : Nat) : Gang := { g with v := g.v.filter fun x => decide (32 * n ≤ x.1) || x.2.isEmpty }

/-- Rows read back from the spill object, given by their numbers and bytes (R74). -/
def refillRows (g : Gang) (rows : List (Nat × List Byte)) : Gang :=
  { g with v := rows.foldl (fun m r => laneNumbers.foldl (fun m l => setAt Reg.zero m (32 * r.1 + l) (spilledReg g r.2 r.1 l)) m) g.v }

/-- Where the rows of a range lie in the spill object. -/
def spillPlaces (e : Env) (s : State) (k : Kind) (rows : List Nat) : Except Miss (List (List Place)) :=
  allOk (rows.map fun r => translate s e.g.cuKey e.g.ctx (e.g.spill + word (264 * r)) k false false 264)

/-- The bytes of spilled rows, read back (R74). -/
def spilledRows (e : Env) (s : State) (rows : List Nat) : Except Miss (List (Nat × List Byte)) :=
  allOk (rows.map fun r => (readOnce e s (e.g.spill + word (264 * r)) 264).map fun bs => (r, bs))

/-- A fault on the spill object, NOTRES included, is precise (R74). -/
def spillMiss (e : Env) (m : Miss) (s : State) : State :=
  match m with
  | .notres j _ => trapStrand e .notres 0 (dropEntry s e.g.cuKey e.g.ctx (ptrObj e.g.spill) j)
  | m => onceMiss e e.g.spill m s

/-- Rows that enter the physical range hold any values, full and live; in a compatibility kernel they are unbound and read 0
(R74, R76). -/
def freshRows (g : Gang) (rows : List Nat) (s : State) : Gang × State :=
  if g.c16 then (g, s)
  else
    let keys := rows.flatMap fun r => laneNumbers.map fun l => 32 * r + l
    ({ g with v := keys.foldl (fun (v : SMap Reg × Nat) k =>
        (setAt Reg.zero v.1 k ⟨Config.freeWord v.2, .full⟩, v.2 + 1)) (g.v, s.tick) |>.1 },
      { s with tick := s.tick + keys.length })

/-- The rows of a range. -/
def rowRange (lo hi : Nat) : List Nat := (List.range (hi - lo)).map (lo + ·)

/-- Rows at or above a logical number are gone, with the results owed to them. -/
def dropRows (g : Gang) (n : Nat) : Gang :=
  { g with
    v := g.v.filter fun x => decide (x.1 < 32 * n)
    bound := g.bound.filter fun r => decide (r < n)
    boundOut := g.boundOut.filter fun r => decide (r < n) }

/-- The steps of CALL (R143) once its target is known: bound, link word, slide, spill, transfer. -/
def callTo (i : Instr) (slide : Nat) (t : W64) (e : Env) (s : State) : State :=
  let g := reads e i
  if 65536 < g.wb + slide + g.wsize then trapStrand e .oos 3 s
  else
    let low := max g.lrow (g.wb + slide + g.wsize - g.nrows)
    let rows := rowRange g.lrow low
    let link := word (slide * 2 ^ 58 + ptrOff (nextSlot e.iss.pc))
    let g1 := g.write e.strand (slide - 1) fun _ => link
    match spillPlaces e s .write rows with
    | .error m => spillMiss e m s
    | .ok ps =>
      let s1 := (ps.zip rows).foldl (fun s x => performBytes s g.die (some g.cuKey) (x.1.zip (rowBytes g1 x.2))) s
      let g2 : Gang := leaveRows { g1 with wb := g.wb + slide, lrow := low } low
      let r := freshRows (g2.count 5 rows.length) (rowRange (g.lrow + g.nrows) (low + g.nrows)) s1
      moved e (r.1.setPcs e.strand fun _ => t) r.2

/-- CALL (R143). -/
def execCall (sf : BitVec 6) (o : BitVec 17) (s : State) : Out :=
  issueMet (.call sf o) (fun e s => wholeGang
    (fun e s => callTo (.call sf o) sf.toNat (target e.iss.pc o.toNat) e s) e s) s

/-- Vote of R65: the one value of the lanes of a mask, or none where they differ. -/
def voteOf {α : Type} [DecidableEq α] (m : Mask) (f : Nat → α) : Option α :=
  if (lanesOf m).all fun l => decide (f l = f (lowestLane m)) then some (f (lowestLane m)) else none

/-- CALLI (R144). -/
def execCalli (a : BitVec 7) (sf : BitVec 6) (s : State) : Out :=
  issueMet (.calli a sf) (fun e s => wholeGang
    (fun e s => match voteOf e.strand (e.rd a) with
      | none => trapStrand e .conv 0 s
      | some t => if goodTarget s e.iss.pc t then callTo (.calli a sf) sf.toNat t e s else trapStrand e .illpk 0 s) e s) s

/-- The link register of a lane: logical row WB − 1, read back where it is spilled (R74, R145). -/
def linkReg (g : Gang) (spilled : List (Nat × List Byte)) (l : Nat) : Reg :=
  match spilled with
  | (r, bs) :: _ => spilledReg g bs r l
  | [] => getAt Reg.zero g.v (32 * (g.wb - 1) + l)

/-- Fields of a link word (R141). -/
def linkSlide (k : W64) : Nat := fld k 63 58
def linkRet (k : W64) : Nat := fld k 35 0

/-- A link word RET refuses (R145). -/
def badLink (wb : Nat) (k : W64) : Bool :=
  linkSlide k == 0 || decide (wb < linkSlide k) || fld k 57 36 != 0 || !goodPc (word (linkRet k))

/-- RET once the strand is the whole gang (R145). Copies of a logical lane that would part are found before any other fault of theirs
(R369, R377). -/
def retStep (e : Env) (s : State) : State :=
  let g := e.g
  match spilledRows e s (if g.wb - 1 < g.lrow then [g.wb - 1] else []) with
  | .error m => spillMiss e m s
  | .ok link =>
    let k := fun l => (linkReg g link l).read
    if (lanesOf e.strand).any fun l => (linkReg g link l).isEmpty then holdAs e .regWait s
    else match parted e e.strand fun l => linkRet (k l) with
    | some m => killParted e true m s
    | none => match voteOf e.strand fun l => linkSlide (k l) with
      | none => trapStrand e .conv 0 s
      | some sl =>
        let bad := maskOf fun l => lane e.strand l && badLink g.wb (k l)
        if bad != 0 then trapLanes e .illpk 0 bad s
        else
          let wb := g.wb - sl
          let rows := rowRange wb g.lrow
          match spilledRows e s rows with
          | .error m => spillMiss e m s
          | .ok back =>
            let g1 : Gang := { g.fetchRow (g.wb - 1) with wb := wb }
            let g2 := if wb < g.lrow then dropRows { refillRows g1 back with lrow := wb } (wb + g.nrows) else g1
            jumpTo e (fun l => withOff (g.pcOf l) (linkRet (k l))) (g2.count 6 rows.length) s

/-- RET (R145). -/
def execRet (s : State) : Out :=
  issueMet .ret (fun e s => if e.g.wb = 0 then trapStrand e .illop 0 s else wholeGang retStep e s) s

/-- MEET (R146). -/
def execMeet (d a : BitVec 7) (sf : BitVec 1) (s : State) : Out :=
  issue (.meet d a sf) (fun e s =>
    let g := reads e (.meet d a sf)
    let m : W32 := if sf = 0 then e.strand else (e.once a).setWidth 32
    finish e { g with cb := setAt 0 g.cb d.toNat m } s) s

/-- The lanes a JOIN still misses (R147). -/
def joinMissing (e : Env) (d : Nat) : Mask :=
  let named := getAt 0 e.g.cb d &&& (if e.g.c16 then halfMask (lowestLane e.strand / 16) else allLanes)
  maskOf fun l => lane named l && lane e.g.liveLanes l && (e.g.pcOf l != e.iss.pc || lane e.g.halted l)

/-- JOIN (R147); what its lanes have issued, those that exited among them, comes before what the joined strand issues (R138). -/
def execJoin (d : BitVec 7) (s : State) : Out :=
  issue (.join d) (fun e s =>
    if joinMissing e d.toNat = 0 then
      stopRuns (finish e (joinOrder e.g (e.strand ||| (getAt 0 e.g.cb d.toNat &&& e.g.exited)) e.strand) s) e.id
    else stopRuns (s.setGang e.id (e.g.setPark e.strand .join)) e.id) s

/-- YIELD (R150). -/
def execYield (s : State) : Out :=
  issue .yield (fun e s => stopRuns (finish e (e.g.setPark e.strand .yielded) s) e.id) s

/-- A counter of the gang (R332). -/
def Gang.kcOf (g : Gang) (k : Nat) : Nat := (getAt 0 g.kc k).toNat

/-- YIELDW (R151). -/
def execYieldw (k : BitVec 2) (t : BitVec 4) (o : BitVec 17) (s : State) : Out :=
  issue (.yieldw k t o) (fun e s =>
    let c := target e.iss.pc o.toNat
    let g := if e.g.kcOf k.toNat ≤ t.toNat then e.g.setPcs e.strand fun _ => c
      else e.g.setPark e.strand (.yieldw k.toNat t.toNat c)
    stopRuns (s.setGang e.id g) e.id) s

/-- Active lanes exit, the strand's other lanes going on; a partial EXIT ends the run (R19, R152). -/
def exitActive (e : Env) (g : Gang) (s : State) : State :=
  let s1 := exitLanes (s.setGang e.id (g.advance (e.strand &&& ~~~e.active))) e.id e.active e.iss.pc
  if e.active = 0 then s1 else stopRuns s1 e.id

/-- The launch-block pointers an EXIT names (R153). -/
def successors (p : W64) (n : Nat) : List W64 := (List.range n).map fun j => p + word (128 * j)

/-- The dependency count of a launch block whose bytes lie at given places. -/
def depsOf (s : State) (ps : List Place) : Nat :=
  bytesNat (((ps.drop 16).take 4).map fun q => match q.key with
    | some (k, _) => coherent s k
    | none => 0)

/-- The words of a launch block whose bytes lie at given places. -/
def blockWords (s : State) (ps : List Place) : List W64 :=
  bytesWords 16 (ps.map fun q => match q.key with
    | some (k, _) => coherent s k
    | none => 0)

/-- An EXIT that names successors need wait no longer: the gang's counters are zero, and no access of it is held (R153). -/
def exitReady (g : Gang) : Bool := ((List.range 4).all fun k => g.kcOf k == 0) && !g.accesses.any Waiting.held

/-- A launch block whose count this EXIT takes to zero names an entry that is no slot (R49). -/
def badSuccessor (s : State) (ps : List Place) : Bool :=
  let p := lbEntry (blockWords s ps)
  depsOf s ps == 1 && (fld p 1 0 != 0 || fld p 3 2 == 0)

/-- The steps of an EXIT that names successors, after its checks (R153). DESIGN CHOICE (log 65): NOTRES on a launch block is held and the
EXIT taken again, as R372 has it for the accesses it lists. -/
def exitNamed (i : Instr) (e : Env) (ls : List W64) (s : State) : State :=
  match allOk (ls.map fun p => translate s e.g.cuKey e.g.ctx p .atomic false true 128) with
  | .error m => onceMiss e (ls.headD 0) m s
  | .ok pss =>
    let s1 := drain s e.id
    let e1 := e.renew s1
    if !exitReady e.g || stillOwes e1.g 3 2 allLanes then holdAs e .exitWait s1
    else if pss.any fun ps => depsOf s1 ps = 0 then trapStrand e .exitmis 3 s1
    else if pss.any (badSuccessor s1) then trapStrand e .illpk 0 s1
    else
      let s2 := pss.foldl (fun t ps =>
        performBytes t e.g.die (some e.g.cuKey) (((ps.drop 16).take 4).zip (natBytes 4 (depsOf t ps - 1)))) s1
      let s3 := (ls.zip pss).foldl (fun t x =>
        if depsOf t x.2 = 0 then createTask t e.g e.iss.pc x.1 (blockWords t x.2) else t) s2
      exitActive e (reads e1 i) s3

/-- Combined block counts of a gang wait for a tile that is moving or not resident, and its EXIT with them (R195, R339). -/
def bbcOwed (s : State) (id cu : Nat) : Bool := (s.cu cu).bbc.any fun x => x.1 == id

/-- EXIT (R152, R153). DESIGN CHOICE (log 65): with no active lane at all, an EXIT that names successors leaves lanes that have not exited
(detail 0), and is not one whose active lanes are all helpers. -/
def execExit (a : BitVec 7) (n : BitVec 3) (s : State) : Out :=
  issue (.exit a n) (fun e s0 =>
    let s := writeOutBbc s0 e.id
    let g := reads e (.exit a n)
    let named := e.active &&& ~~~e.g.helpers
    if bbcOwed s e.id e.g.cuKey then stallQueue s
    else if n = 0 || (e.active != 0 && named = 0) then exitActive e g s
    else match parted e named (e.rd a) with
      | some m => killParted e false m s
      | none =>
        if e.g.liveLanes &&& ~~~e.active != 0 then trapStrand e .exitmis 0 s
        else match voteOf named (e.rd a) with
          | none => trapStrand e .exitmis 1 s
          | some p =>
            if isRemote s p || ptrOff p % 128 != 0 then trapStrand e .exitmis 2 s
            else exitNamed (.exit a n) e (successors p n.toNat) s) s

/-- Rows of a quarter in use: gangs with their mirrors, pools, and rows reserved for tasks in shadow slots (R72, R81, R290). -/
def rowsInUse (s : State) (q : Nat) : Nat :=
  let gs := (s.gangs.filter fun x => x.2.qKey == q).map fun x => x.2.nrows * (if x.2.mir then 2 else 1)
  let ps := (s.blocks.filter fun x => 48 * x.2.die + x.2.cu == q / 4).map fun x => getAt 0 x.2.pool (q % 4)
  let ss := ((s.cu (q / 4)).shadows.filter fun x => x.quarter == q % 4).map fun x => lbRows x.words
  (gs ++ ps ++ ss).foldl (· + ·) 0

/-- GIVE's move of rows to the block's pool (R75, R154). -/
def giveRows (n : Nat) (e : Env) (s : State) : State :=
  let g := e.g
  let r := freshRows (dropRows g (g.wsize - n)) (rowRange (g.wsize - n) (g.nrows - n)) s
  (finish e { r.1 with nrows := g.nrows - n, wsize := g.wsize - n } r.2).onBlock g.block fun b =>
    { b with pool := setAt 0 b.pool g.quarter (getAt 0 b.pool g.quarter + n) }

/-- GIVE (R154). -/
def execGive (im : BitVec 16) (s : State) : Out := issue (.give im) (giveRows im.toNat) s

/-- The pool of a gang's block on its quarter holds n rows, and for a mirrored block the quarter has n free rows (R154). -/
def poolHas (s : State) (g : Gang) (n : Nat) : Bool :=
  match s.block? g.block with
  | none => false
  | some b => decide (n ≤ getAt 0 b.pool g.quarter) && (!g.mir || decide (rowsInUse s g.qKey + n ≤ 512))

/-- CLAIM's move of rows: new registers full, live and 0, and the strand goes on (R154). -/
def claimRows (s : State) (id n : Nat) (m : Mask) : State :=
  match s.gang? id with
  | none => s
  | some g =>
    let g1 : Gang := { g with v := g.v.filter fun x => decide (x.1 < 32 * g.wsize) || decide (32 * (g.wsize + n) ≤ x.1) }
    let r := freshRows g1 (rowRange (max g.nrows (g.wsize + n)) (g.nrows + n)) s
    let g2 : Gang := { r.1 with nrows := g.nrows + n, wsize := g.wsize + n }
    (r.2.setGang id ((g2.advance m).setPark m .ready)).onBlock g.block fun b =>
      { b with pool := setAt 0 b.pool g.quarter (getAt 0 b.pool g.quarter - n) }

/-- The CLAIMs that wait on the pool of a block and quarter, those of gangs that are gone or killed left out (R154). -/
def waitingClaims (s : State) (b : Block) (q : Nat) : List (Nat × Nat × Mask × Nat) :=
  b.claims.filter fun c => c.1 == q && match s.gang? c.2.1 with
    | some g => !g.killed
    | none => false

/-- A CLAIM that must wait keeps its place in the order of first issue (R154). -/
def waitClaim (e : Env) (n : Nat) (s : State) : State :=
  let mine := fun (c : Nat × Nat × Mask × Nat) => c.2.1 == e.id && c.2.2.1 &&& e.strand != 0
  stopRuns ((s.onGang e.id fun g => g.setPark e.strand .claim).onBlock e.g.block fun b =>
    { b with claims :=
        if b.claims.any mine then b.claims.map fun c => if mine c then (c.1, c.2.1, e.strand, n) else c
        else b.claims ++ [(e.g.quarter, e.id, e.strand, n)] }) e.id

/-- A CLAIM that now would take the window above 112 registers raises ILLOP (R75). -/
def claimTooWide (g : Gang) (n : Nat) : Bool := decide (112 < g.wsize + n)

/-- CLAIM (R154). -/
def execClaim (im : BitVec 16) (s : State) : Out :=
  issue (.claim im) (fun e s =>
    match s.block? e.g.block with
    | none => s
    | some b =>
      if (waitingClaims s b e.g.quarter).isEmpty && poolHas s e.g im.toNat then claimRows s e.id im.toNat e.strand
      else waitClaim e im.toNat s) s

/-- TRAP (R155). -/
def execTrap (c : BitVec 9) (s : State) : Out := issue (.trap c) (fun e s => trapStrand e .trapsw c.toNat s) s

/-- RTT (R156, R371). -/
def execRtt (x : BitVec 2) (s : State) : Out :=
  issue (.rtt x) (fun e s =>
    if e.g.tmask.getLsbD 0 then moved e (returnTrap e.g e.strand x.toNat) s else trapStrand e .illop 0 s) s

/-- TMASK (R157). -/
def execTmask (im : BitVec 1) (s : State) : Out :=
  issue (.tmask im) (fun e s => finish e { e.g with
    tmask := im.setWidth 32, handlerLanes := if im = 0 then 0 else e.g.handlerLanes } s) s

/-- HALT (R158). -/
def execHalt (s : State) : Out :=
  issue .halt (fun e s =>
    let g := e.g.advance (e.strand &&& ~~~e.active)
    let s1 := s.setGang e.id { g with
      halted := g.halted ||| e.active
      haltReason := (lanesOf e.active).foldl (fun h l => setAt .none h l .halt) g.haltReason }
    if e.active = 0 then s1 else stopRuns s1 e.id) s

/-- NOP (R159). -/
def execNop (s : State) : Out := issue .nop (fun e s => finish e e.g s) s

/-- A word with an opcode that R60 leaves unassigned raises ILLOP (R61). -/
def execUnassignedOpcode (w : BitVec 32) (s : State) : Out :=
  issue (.unassignedOpcode w) (fun e s => trapStrand e .illop 0 s) s

end Sys2Proof.Machine
end

