-- ==== Sys2Proof/Machine/Access.lean ====
section
/-! DEFINITION. Lane accesses: where each goes, which faults its lanes meet, how it is performed, and the instructions LD, ST, LDS,
STS, LDC, STC and PREF (R206, R224 to R234, R369, R372, R377). -/

namespace Sys2Proof.Machine

/-- The block a scratchpad offset names; none for a nonzero zero field or a rank that names no block (R206). -/
def spadBlock (s : State) (g : Gang) (o : Nat) : Option (Nat × Block) :=
  if bits o 28 19 != 0 then none
  else if bits o 31 31 = 0 then
    (if bits o 30 29 != 0 then none else (s.block? g.block).map fun b => (g.block, b))
  else match find s.clusters (clusterOf s g.block) with
    | none => none
    | some c => firstSome (fun (n : Nat) => match s.block? n with
        | some b => if b.crank = bits o 30 29 then some (n, b) else none
        | none => none) c.blocks

/-- The places of n bytes of scratchpad from an offset on (R206). -/
def spadPlaces (s : State) (g : Gang) (o n : Nat) : Except Miss (List Place) :=
  match spadBlock s g o with
  | none => .error (.fault .oos 2)
  | some b =>
    if b.2.spb < bits o 18 0 + n then .error (.fault .oos 2)
    else .ok ((List.range n).map fun i => .spad b.1 (bits o 18 0 + i))

/-- The kind of translation an access needs (R192). -/
def AccessKind.need : AccessKind → Kind
  | .load => .read | .once => .read | .poll => .read
  | .atom => .atomic
  | .store => .write | .red => .write | .redc => .write

/-- An operation that is a PCI Express AtomicOp which the host performs: XCHG, integer ADD, and CAS with return (R241, R242). -/
def hostOp (atom : Bool) (aop : Nat) (m : W32) : Bool := aop == 0 || (aop == 2 && modeEc m != 2) || (aop == 1 && atom)

/-- An access whose operation the host performs (R241, R242). -/
def hostAop (a : Access) : Bool := hostOp (decide (a.kind = .atom)) a.aop a.mode

/-- The places of an access before the checks that come last: ALIGN (R226), then the scratchpad bound or Translate. -/
def resolve (s : State) (g : Gang) (a : Access) : Except Miss (List Place) :=
  if a.strong && a.size != 0 && (if a.scratch then fld a.ptr 31 0 else ptrOff a.ptr) % a.size != 0 then .error (.fault .align 0)
  else if a.scratch then spadPlaces s g (fld a.ptr 31 0) a.size
  else match a.coords with
    | some c =>
      if isRemote s a.ptr then remotePlaces s a.ptr a.kind.need false false false 0 (remoteElem s a.ptr)
      else translateElem s g.cuKey g.ctx a.ptr c a.kind.need
    | none =>
      if isRemote s a.ptr then remotePlaces s a.ptr a.kind.need (a.scope == 5) a.strong (a.kind.isRmw && !hostAop a) 0 a.size
      else translate s g.cuKey g.ctx a.ptr a.kind.need (a.scope == 5) a.strong a.size

/-- An atomic or reduction names a system-memory object, and its operation is not one that the host performs (R241, R242). -/
def systemDenied (s : State) (g : Gang) (a : Access) : Bool :=
  a.kind.isRmw && !hostAop a && !a.scratch && !isRemote s a.ptr &&
    match findRecord s g.cuKey g.ctx (ptrNode a.ptr) (ptrObj a.ptr) with
    | .ok r => r.sysm
    | .error _ => false

/-- The places of a lane's access, or why it is not performed (R191, R221, R226, R241). PERM of R241 stands where R191 asks whether the
kind is permitted. -/
def checkAccess (s : State) (g : Gang) (a : Access) : Except Miss (List Place) :=
  match resolve s g a with
  | .error (.fault .align d) => .error (.fault .align d)
  | .error (.fault .perm d) => .error (.fault .perm d)
  | .error (.hold none) => .error (.hold none)
  | .error m => .error (if systemDenied s g a then .fault .perm 5 else m)
  | .ok ps =>
    if systemDenied s g a then .error (.fault .perm 5)
    else if a.kind.consumes && ps.any (placePoisoned s) then .error (.fault .memue (bitNat a.scratch))
    else .ok ps

/-- Where a code stands in the order in which faults are reported (R191, R369). -/
def faultRank (c : Code) (d : Nat) : Nat :=
  match c with
  | .align => 0
  | .objinv => if d = 3 then 5 else d + 1
  | .objue => 4
  | .perm => if d = 4 then 8 else if d = 5 then 8 else 7
  | .oos => 9 + d
  | .notres => 15
  | _ => 14

/-- The code and detail under which a miss is reported; none for an access that is only held. -/
def Miss.code : Miss → Option (Code × Nat)
  | .fault c d => some (c, d)
  | .notres _ _ => some (.notres, 0)
  | .damaged t => some (.objue, if t.isSome then 1 else 0)
  | .hold _ => none

/-- A miss that kills the gang (R198, R368). -/
def Miss.kills (m : Miss) : Bool := match m.code with
  | some c => c.1.kills
  | none => false

/-- A miss that is a class-H fault. -/
def Miss.hard : Miss → Bool
  | .fault c _ => !c.kills
  | _ => false

/-- A lane's access and what its checks found. -/
abbrev Checked := Access × Except Miss (List Place)

/-- The miss of a checked access. -/
def Checked.miss (c : Checked) : Option Miss := match c.2 with
  | .error m => some m
  | .ok _ => none

/-- The code reported for lanes that fault: the first in the order of R369. -/
def reported (cs : List Checked) : Code × Nat :=
  (cs.filterMap fun c => c.miss.bind Miss.code).foldl
    (fun (best : Code × Nat) x => if faultRank x.1 x.2 < faultRank best.1 best.2 then x else best) (.notres, 0)

/-- The bytes a store writes: those that fall outside a zero-fill object are dropped (R193). -/
def storeBytes (a : Access) (ps : List Place) : List (Place × Byte) :=
  (ps.zip (w64Bytes a.v0 ++ w64Bytes a.v1)).filter fun b => !decide (b.1 = .zero)

/-- The parts of an access that are performed apart, with the bytes of each: the units of a store, the halves of a strong access of 16
bytes (R219, R225, R255). -/
def accessParts (a : Access) (ps : List Place) : List (Access × List (Place × Byte) × Bool) :=
  (partsOf { a with size := ps.length } ps).flatMap fun x =>
    if a.kind = .store then
      let bs := storeBytes x.1 x.2.1
      if bs.any fun b => b.1.isRemote then [(x.1, bs, x.2.2)] else (unitsOf x.1 bs).map fun u => (x.1, u, x.2.2)
    else if a.kind = .red && x.2.1.all fun p => decide (p = .zero) then []
    else [(x.1, x.2.1.map fun p => (p, 0), x.2.2)]

/-- The place that a held lane keeps in local order. -/
def holdsPlace (a : Access) (x : Waiting) : Bool := x.held && x.acc.ticket == a.ticket && x.acc.lane == a.lane

/-- An access enters its gang's accesses, in the place kept for it or after all others. -/
def putAccess (a : Access) (ws xs : List Waiting) : List Waiting :=
  if xs.any (holdsPlace a) then xs.flatMap fun x => if holdsPlace a x then ws else [x] else xs ++ ws

/-- A byte that several lanes of a store write keeps the value of the highest: a lane gives up to a higher one the bytes that both
write (R227). -/
def yieldBytes (ticket : Nat) (xs : List Waiting) : List Waiting :=
  (xs.map fun x => if x.acc.ticket = ticket && decide (x.acc.kind = .store) && !x.held then
    { x with bytes := x.bytes.filter fun b => !xs.any fun y =>
        y.acc.ticket == ticket && decide (x.acc.lane < y.acc.lane) && y.bytes.any fun c => decide (c.1 = b.1) } else x).filter
      fun x => x.held || !x.bytes.isEmpty

/-- Sectors that bytes cover whole (R221). -/
def wholeSectors (bs : List (Place × Byte)) : List Nat :=
  let ks := bs.filterMap fun b => b.1.key.map Prod.fst
  ((ks.map (· / 128)).eraseDups).filter fun p => (List.range 128).all fun i => ks.contains (128 * p + i)

/-- A counted reduction joins its instruction's contributions not yet performed (R243). -/
def pendContribution (g : Gang) (a : Access) : Gang :=
  if g.contribs.any fun c => c.ticket == a.ticket then
    { g with contribs := g.contribs.map fun c => if c.ticket = a.ticket then { c with accs := c.accs ++ [a] } else c }
  else { g with contribs := g.contribs ++ [⟨a.ticket, [a]⟩] }

/-- One lane's access joins those that its gang has issued and that are not yet performed (R216, R228, R243). -/
def enqueue (id : Nat) (before : Mask) (s : State) (x : Access × List Place) : State :=
  match s.gang? id with
  | none => s
  | some g =>
    if x.1.kind = .redc then
      s.setGang id (pendContribution { g with accesses := g.accesses.filter fun w => !holdsPlace x.1 w } x.1)
    else
      let ys := accessParts x.1 x.2
      let ep := epochOf s g.cuKey
      let ws := (ys.zip (List.range ys.length)).map fun y =>
        (⟨s.fresh + y.2, y.1.1, y.1.2.1, before, y.1.2.2, none, false, ep, []⟩ : Waiting)
      State.setGang { s with fresh := s.fresh + ys.length } id { g with accesses := putAccess x.1 ws g.accesses }

/-- The sample of a lane whose access has left nothing to perform is finished (R344). -/
def sampleIdle (id : Nat) (s : State) (x : Access × List Place) : State :=
  match s.gang? id with
  | none => s
  | some g =>
    if x.1.kind = .redc || g.accesses.any fun w => w.acc.ticket == x.1.ticket && w.acc.lane == x.1.lane then s
    else sampleDone s id x.1.ticket x.1.lane x.1 x.2

/-- The translated accesses of one instruction's lanes are on their way. -/
def enqueueAll (id ticket : Nat) (before : Mask) (xs : List (Access × List Place)) (s : State) : State :=
  let t := (xs.foldl (enqueue id before) s).onGang id fun g =>
    let ys := yieldBytes ticket g.accesses
    let whole := wholeSectors ((ys.filter fun x => x.acc.ticket == ticket && decide (x.acc.kind = .store)).flatMap fun x => x.bytes)
    { g with accesses := if whole.isEmpty then ys else ys.map fun x => if x.acc.ticket = ticket then { x with clears := whole } else x }
  xs.foldl (sampleIdle id) t

/-- A lane and its copy (R376). -/
def Gang.copyLanes (g : Gang) (l : Nat) : List Nat := if g.prot then [l, l + 1] else [l]

/-- The lanes of a list with their copies. -/
def Gang.copyMask (g : Gang) (ls : List Nat) : Mask := maskOf fun m => ls.any fun l => (g.copyLanes l).contains m

/-- The lanes that perform the accesses of an instruction: active, no helper, and one of each pair of copies (R17, R376). -/
def performers (e : Env) : List Nat :=
  (lanesOf (e.active &&& ~~~e.g.helpers)).filter fun l => !e.g.prot || l % 2 == 0

/-- The access of a lane, as an instruction begins to describe it. -/
def Env.access (e : Env) (k : AccessKind) (ticket l : Nat) (p : W64) : Access :=
  ⟨k, l, p, none, false, 0, false, false, false, 0, 0, e.mode, 0, 0, [], ticket, e.iss.iword, e.iss.ctl, e.iss.pc⟩

/-- An operation of class k enters its counter (R332). -/
def countOp (g : Gang) (k ticket : Nat) : Gang :=
  { g with kc := setAt 0 g.kc k (BitVec.ofNat 16 (g.kcOf k + 1)), counted := g.counted ++ [⟨k, ticket, false⟩] }

/-- An operation is complete; its report follows in issue order (R332). -/
def completeOp (g : Gang) (ticket : Nat) : Gang :=
  { g with counted := g.counted.map fun c => if c.ticket = ticket then { c with done := true } else c }

/-- The gang has accesses held in a replay buffer, or waiting for it. -/
def hasHeld (s : State) (id cu : Nat) (p : Held → Bool) : Bool :=
  ((s.cu cu).replay ++ (s.cu cu).replayWait).any fun h => h.gang == id && p h

/-- The gang after an instruction's reads in some lanes: with lanes left out, an s source keeps its state (R51, R228). -/
def consumeLanes (e : Env) (o : Operands) (m : Mask) (whole : Bool) : Gang :=
  if whole then consume e o m else consume e { o with reads := o.reads.filter fun x => decide (x.reg < 112) } m

/-- An armed sample attaches to the lowest lane of an instruction's accesses (R344); `faulted`: that lane's access faults precisely, and
no record is written. -/
def attachSample (e : Env) (ticket : Nat) (accs : List Checked) (faulted : Checked → Bool) (s : State) (g : Gang) : Gang :=
  match g.armed, accs.filter fun c => c.1.kind != .poll with
  | some p, c :: _ =>
    let addr := if c.1.scratch then word (fld c.1.ptr 31 0) else c.1.ptr
    let x : Sampled := ⟨p, bits e.iss.iword.toNat 31 23, c.1.lane, addr, e.iss.pc, ticket, (s.die e.g.die).clock, none⟩
    { g with armed := none, sampled := g.sampled ++ if faulted c then [] else [x] }
  | _, _ => g

/-- A lane access that must wait, as a replay buffer holds it (R195, R227, R372). `okay`: the lanes of its instruction that are performed. -/
def heldFor (e : Env) (s : State) (okay : List (Access × List Place)) (passed : Bool) (c : Checked) : Option Held :=
  let above := if c.1.kind = .store then
    (okay.filter fun x => decide (c.1.lane < x.1.lane)).flatMap fun x => (storeBytes x.1 x.2).map Prod.fst else []
  match c.miss with
  | some (.notres j sub) =>
    some ⟨e.id, c.1, e.g.ctx, ptrObj c.1.ptr, j, sub, true, false, !(s.die e.g.die).normal, !okay.isEmpty, above⟩
  | some (.hold t) => some ⟨e.id, c.1, e.g.ctx, ptrObj c.1.ptr, t.getD 0, 0, false, passed, false, !okay.isEmpty, above⟩
  | _ => none

/-- A held lane keeps its place in local order (R266); a counted reduction has none among the later accesses (R258). -/
def keepPlace (before : Mask) (s : State) (h : Held) : State :=
  if h.acc.kind = .redc then s
  else State.onGang { s with fresh := s.fresh + 1 } h.gang fun g =>
    { g with accesses := g.accesses ++ [⟨s.fresh, h.acc, [], before, false, none, true, false, []⟩] }

/-- Destination register fields of an instruction in the lanes of a mask marked empty. -/
def markAll (ds : List Nat) (ticket : Nat) (m : Mask) (g : Gang) : Gang :=
  ds.foldl (fun g d => g.markEmpty m d ticket) g

/-- What a memory instruction's issue knows: the instruction, its sources, its ticket, and the registers that loads fill. -/
structure MemOp where
  i : Instr
  o : Operands
  ticket : Nat
  /-- Destination registers of a load in a lane. -/
  dests : Nat → List Nat
  /-- The counter class the operation is counted in (R224). -/
  cls : Option Nat

/-- The gang as a memory instruction leaves it at issue, before its accesses are performed: helper destinations 0 and full, those of
`begun` lanes empty, sources read in the `live` ones (R17, R228). -/
def issueGang (e : Env) (x : MemOp) (started : Bool) (begun live : Mask) (whole : Bool) : Gang :=
  let helpers := e.active &&& e.g.helpers
  let g1 := if started then consumeLanes e x.o (live ||| helpers) whole else e.g
  let g2 := (x.dests (lowestLane helpers)).foldl (fun g d => g.write helpers d fun _ => 0) g1
  if started then
    (lanesOf begun).foldl (fun g l => markAll (x.dests (if g.prot then l / 2 * 2 else l)) x.ticket (oneLane l) g) g2
  else g2

/-- The accesses of one instruction performed now, with what they may not pass: the lanes that did not fault complete, though the gang is
killed (R228, R369). -/
def completeGroup (id ticket : Nat) (s : State) : State := settleFor s id fun x => x.acc.ticket == ticket

/-- Records and entries that an instruction's lanes have found damaged begin to be rebuilt (R198). -/
def markAllDamaged (ctx : Nat) (cs : List Checked) (s : State) : State :=
  cs.foldl (fun s c => match c.miss with
    | some (.damaged t) => markDamaged s ctx (ptrObj c.1.ptr) t
    | _ => s) s

/-- Lanes of an instruction fault with a class-K condition: the other lanes complete, and the gang is killed, TLANES naming every
lane that faulted (R369, R374). -/
def killFaulted (id ticket : Nat) (g : Gang) (pc : W64) (cs : List Checked) (s : State) : State :=
  let r := reported (cs.filter fun c => (c.miss.map Miss.kills).getD false)
  killGang (completeGroup id ticket (markAllDamaged g.ctx cs s)) id r.1 r.2 false pc
    (g.copyMask ((cs.filter fun c => (c.miss.bind Miss.code).isSome).map fun c => c.1.lane))

/-- NOTRES faults raised by lanes: the entry leaves the caches, and the die counts them (R190, R341). -/
def noteMisses (g : Gang) (cs : List Checked) (s : State) : State :=
  cs.foldl (fun s c => match c.miss with
    | some (.notres j _) => countDie (dropEntry s g.cuKey g.ctx (ptrObj c.1.ptr) j) g.die 38 1
    | _ => s) s

/-- Lane accesses enter the replay buffer, each in its place of local order (R195, R266, R341). -/
def holdLanes (id cu : Nat) (before : Mask) (hs : List Held) (s : State) : State :=
  let t := hs.foldl (fun s h => holdAccess (keepPlace before s h) cu h) s
  if hs.isEmpty then t else t.onGang id fun g => g.count 7 hs.length

/-- A memory instruction's accesses at issue (R228, R369, R372): those of lanes that do not fault are on their way; a class-K condition
kills; class-H faults trap; NOTRES alone holds its lanes and stalls the gang; a moving record or entry holds its lanes. -/
def runAccesses (e : Env) (x : MemOp) (accs : List Access) (s : State) : State :=
  let cs : List Checked := accs.map fun a => (a, checkAccess s e.g a)
  let kills := cs.any fun c => (c.miss.map Miss.kills).getD false
  let hard := cs.any fun c => match c.miss with
    | some m => m.hard
    | none => false
  let okay := cs.filterMap fun c => match c.2 with
    | .ok ps => some (c.1, ps)
    | .error _ => none
  let holds := cs.filter fun c => match c.miss with
    | some (.hold _) => true
    | _ => false
  let stuck := cs.filter fun c => (c.miss.bind Miss.code).isSome
  let performed := !okay.isEmpty || !holds.isEmpty
  let stall := !hard && !stuck.isEmpty
  let lanes (ys : List Access) : Mask := e.g.copyMask (ys.map Access.lane)
  let begun := lanes ((if hard || kills then okay.map Prod.fst ++ holds.map Prod.fst else accs))
  let live := lanes (okay.map Prod.fst ++ if stall then [] else holds.map Prod.fst)
  let g0 := attachSample e x.ticket cs (fun c => hard && (c.miss.bind Miss.code).isSome) s
    (issueGang e x (!hard || performed) begun live stuck.isEmpty)
  let cls := match x.cls with
    | some 2 => if okay.any fun y => y.2.any Place.isRemote then some 2 else none
    | k => k
  let g1 := match cls with
    | some k => if !hard || performed then countOp g0 k x.ticket else g0
    | none => g0
  let s1 := noteMisses e.g stuck (enqueueAll e.id x.ticket e.strand okay (s.setGang e.id g1))
  if kills then killFaulted e.id x.ticket e.g e.iss.pc cs s1
  else
    let hs := (holds ++ if hard then [] else stuck).filterMap (heldFor e s okay (!stall))
    let s2 := holdLanes e.id e.g.cuKey e.strand hs s1
    let s3 := if cls = some 3 && accs.isEmpty then s2.onGang e.id fun g => completeOp g x.ticket else s2
    if hard then
      let c := reported stuck
      let s4 := if trapKills s3 e.id then completeGroup e.id x.ticket s3 else s3
      trapLanes e c.1 (c.2 + bitNat performed * 2 ^ 23) (lanes (stuck.map Prod.fst)) s4
    else if stall then stopRuns s3 e.id
    else s3.onGang e.id fun g => g.advance e.strand

/-- A memory instruction (R224): the comparison of copies before any write, room in its counter (R332), then its accesses. -/
def memory (i : Instr) (o : Env → Operands) (cls : Option Nat) (dests : Env → Nat → List Nat) (writes : Bool)
    (acc : Env → Nat → Nat → Access) (e : Env) (s : State) : State :=
  match (if writes then parted e (e.active &&& ~~~e.g.helpers) fun l =>
      let a := acc e s.fresh l
      (a.ptr, a.coords, a.v0, a.v1, a.aop) else none) with
  | some m => killParted e false m s
  | none =>
    if (match cls with
        | some 2 => decide (e.g.kcOf 2 = 65535) && (performers e).any fun l => let a := acc e s.fresh l; !a.scratch && isRemote s a.ptr
        | some k => decide (e.g.kcOf k = 65535)
        | none => false) then stallQueue s
    else
      let n := s.nextName
      runAccesses e ⟨i, o e, n.1, dests e, cls⟩ ((performers e).map (acc e n.1)) n.2

/-- A memory instruction whose sources are those of its encoding. -/
def memoryOp (i : Instr) : Option Nat → (Env → Nat → List Nat) → Bool → (Env → Nat → Nat → Access) → Env → State → State :=
  memory i fun e => operands e i

/-- The registers of a load of 2^w bytes (R229). -/
def loadDests (d : BitVec 7) (w : Nat) : List Nat := if w = 4 then [d.toNat, d.toNat + 1] else [d.toNat]

/-- The keys of a lane's destination registers, for each copy. -/
def destKeys (e : Env) (ds : List Nat) (l : Nat) : List Nat := (e.g.copyLanes l).flatMap fun m => ds.map fun d => e.g.vKey d m

/-- A load's access (R231, R232). -/
def loadAccess (scratch : Bool) (d a : BitVec 7) (sf r w : BitVec 3) (e : Env) (t l : Nat) : Access :=
  { e.access .load t l (e.rd a l) with
    scratch := scratch, size := 2 ^ w.toNat, strong := r != 0, acquire := r == 2, scope := sf.toNat
    dests := destKeys e (loadDests d w.toNat) l }

/-- A store's access (R231, R232). -/
def storeAccess (scratch : Bool) (d a : BitVec 7) (sf r w : BitVec 3) (e : Env) (t l : Nat) : Access :=
  { e.access .store t l (e.rd a l) with
    scratch := scratch, size := 2 ^ w.toNat, strong := r != 0, release := r == 3, scope := sf.toNat
    v0 := e.rd d l, v1 := if w = 4 then e.g.read (d.toNat + 1) l else 0 }

/-- LD (R231). -/
def execLd (d a : BitVec 7) (sf r w : BitVec 3) (s : State) : Out :=
  issue (.ld d a sf r w) (memoryOp (.ld d a sf r w) none (fun _ _ => loadDests d w.toNat) false (loadAccess false d a sf r w)) s

/-- ST (R231). -/
def execSt (d a : BitVec 7) (sf r w : BitVec 3) (s : State) : Out :=
  issue (.st d a sf r w) (memoryOp (.st d a sf r w) (some 2) (fun _ _ => []) true (storeAccess false d a sf r w)) s

/-- LDS (R232). -/
def execLds (d a : BitVec 7) (sf r w : BitVec 3) (s : State) : Out :=
  issue (.lds d a sf r w) (memoryOp (.lds d a sf r w) none (fun _ _ => loadDests d w.toNat) false (loadAccess true d a sf r w)) s

/-- STS (R232). -/
def execSts (d a : BitVec 7) (sf r w : BitVec 3) (s : State) : Out :=
  issue (.sts d a sf r w) (memoryOp (.sts d a sf r w) none (fun _ _ => []) true (storeAccess true d a sf r w)) s

/-- The coordinates of a lane (R233). -/
def coordsAt (e : Env) (b : BitVec 7) (x l : Nat) : List Int :=
  let c (v : W64) := [signedOf 32 (fld v 31 0), signedOf 32 (fld v 63 32)]
  c (e.rd b l) ++ if x = 0 then c (e.g.read (b.toNat + 1) l) else [0, 0]

/-- The element size a lane of LDC or STC finds; 0 where its access faults before the size is known (R233). -/
def laneElem (s : State) (e : Env) (a : BitVec 7) (l : Nat) : Nat := (elemSize s e.g.cuKey e.g.ctx (e.rd a l)).getD 0

/-- Some lane's element has 16 bytes. -/
def wideElem (s : State) (e : Env) (a : BitVec 7) : Bool := (performers e).any fun l => laneElem s e a l == 16

/-- A lane's record is under rebuild, and its element size cannot be read (R198): the strand is held before it issues. -/
def elemHeld (s : State) (e : Env) (a : BitVec 7) : Bool := (performers e).any fun l =>
  !isRemote s (e.rd a l) && match findRecord s e.g.cuKey e.g.ctx (ptrNode (e.rd a l)) (ptrObj (e.rd a l)) with
    | .error (.hold _) => true
    | _ => false

/-- A 16-byte element needs the pair d, d+1 in the window (R229). -/
def pairMissing (e : Env) (d : BitVec 7) : Bool := decide (112 ≤ d.toNat) || decide (e.g.wsize ≤ d.toNat + 1)

/-- The registers an LDC fills in a lane (R229, R233). -/
def ldcDests (s : State) (d a : BitVec 7) (e : Env) (l : Nat) : List Nat :=
  if lane (e.active &&& ~~~e.g.helpers) l && laneElem s e a l == 16 then [d.toNat, d.toNat + 1] else [d.toNat]

/-- An LDC's access (R233). -/
def ldcAccess (s : State) (d a b : BitVec 7) (x : BitVec 2) (e : Env) (t l : Nat) : Access :=
  { e.access .load t l (e.rd a l) with
    coords := some (coordsAt e b x.toNat l), dests := destKeys e (ldcDests s d a e l) l }

/-- An STC's access (R233). -/
def stcAccess (wide : Bool) (d a b : BitVec 7) (x : BitVec 2) (e : Env) (t l : Nat) : Access :=
  { e.access .store t l (e.rd a l) with
    coords := some (coordsAt e b x.toNat l), v0 := e.rd d l
    v1 := if wide then e.g.read (d.toNat + 1) l else 0 }

/-- LDC (R233). -/
def execLdc (d a b : BitVec 7) (x : BitVec 2) (s : State) : Out :=
  issue (.ldc d a b x) (fun e s =>
    if elemHeld s e a then stallQueue s
    else if wideElem s e a && pairMissing e d then trapStrand e .illop 0 s
    else memoryOp (.ldc d a b x) none (ldcDests s d a) false (ldcAccess s d a b x) e s) s

/-- The sources of an STC: of an element of 16 bytes, the pair d, d+1 (R229, R233). -/
def stcOperands (wide : Bool) (d a b : BitVec 7) (x : BitVec 2) (e : Env) : Operands :=
  { operands e (.stc d a b x) with reads := [srcA a, srcB b (if x = 0 then 2 else 1), srcD d (if wide then 2 else 1)] }

/-- STC (R233). -/
def execStc (d a b : BitVec 7) (x : BitVec 2) (s : State) : Out :=
  issue (.stc d a b x) (fun e s =>
    if elemHeld s e a then stallQueue s
    else
      let wide := wideElem s e a
      let o := stcOperands wide d a b x
      if wide && pairMissing e d then trapStrand e .illop 0 s
      else match emptyCheck e (o e) (o e).reads with
        | .trap c n => trapStrand e c n s
        | .wait => holdAs e .regWait s
        | .go => memory (.stc d a b x) o (some 2) (fun _ _ => []) true (stcAccess wide d a b x) e s) s

/-- PREF (R234): a line tile brought into a cache holds what memory holds, so nothing but time changes. -/
def execPref (a : BitVec 7) (sf : BitVec 3) (s : State) : Out :=
  issue (.pref a sf) (fun e s => finish e (reads e (.pref a sf)) s) s

end Sys2Proof.Machine
end

