-- ==== Sys2Proof/Machine/Atomic.lean ====
section
/-! DEFINITION. Atomics and reductions: ATOM, ATOMS, RED and REDC (R240 to R243). -/

namespace Sys2Proof.Machine

/-- An atomic's or reduction's access in a lane; ord is 0 RLX, 1 ACQ, 2 REL, 3 AR (R57, R240). -/
def atomAccess (k : AccessKind) (scratch : Bool) (ds : List Nat) (d a : BitVec 7) (p : BitVec 4) (sf : BitVec 3)
    (r : BitVec 2) (e : Env) (t l : Nat) : Access :=
  { e.access k t l (e.rd a l) with
    scratch := scratch, size := atomWidth e.mode, strong := true, acquire := r.getLsbD 0, release := r.getLsbD 1
    scope := sf.toNat, aop := p.toNat, v0 := e.rd d l
    v1 := if p = 1 then e.g.read (d.toNat + 1) l else 0, dests := destKeys e ds l }

/-- ATOM (R241). -/
def execAtom (d a : BitVec 7) (p : BitVec 4) (sf : BitVec 3) (r : BitVec 2) (s : State) : Out :=
  issue (.atom d a p sf r) (memoryOp (.atom d a p sf r) none (fun _ _ => [d.toNat]) true
    (atomAccess .atom false [d.toNat] d a p sf r)) s

/-- ATOMS (R241). -/
def execAtoms (d a : BitVec 7) (p : BitVec 4) (sf : BitVec 3) (r : BitVec 2) (s : State) : Out :=
  issue (.atoms d a p sf r) (memoryOp (.atoms d a p sf r) none (fun _ _ => [d.toNat]) true
    (atomAccess .atom true [d.toNat] d a p sf r)) s

/-- RED (R242). -/
def execRed (d a : BitVec 7) (p : BitVec 4) (sf : BitVec 3) (r : BitVec 2) (s : State) : Out :=
  issue (.red d a p sf r) (memoryOp (.red d a p sf r) (some 2) (fun _ _ => []) true (atomAccess .red false [] d a p sf r)) s

/-- REDC (R243). -/
def execRedc (d a : BitVec 7) (p : BitVec 4) (sf : BitVec 3) (r : BitVec 2) (s : State) : Out :=
  issue (.redc d a p sf r) (memoryOp (.redc d a p sf r) (some 3) (fun _ _ => []) true (atomAccess .redc false [] d a p sf r)) s

end Sys2Proof.Machine
end

