-- ==== Sys2Proof/Machine/Replay.lean ====
section
/-! DEFINITION. The replay buffer: accesses reissued after a publication or an acknowledgement, declined ones, and results that
return to their registers (R77, R195, R198, R228, R372). -/

namespace Sys2Proof.Machine

/-- Every access held by a CU, in the order it was held. -/
def heldAt (s : State) (cu : Nat) : List Held := (s.cu cu).replay ++ (s.cu cu).replayWait

/-- The accesses of a CU that satisfy a test leave the replay buffer. -/
def releaseHeld (s : State) (cu : Nat) (p : Held → Bool) : State :=
  if (heldAt s cu).any p then
    let c := s.cu cu
    s.setCu cu { c with replay := c.replay.filter fun h => !p h, replayWait := c.replayWait.filter fun h => !p h }
  else s

/-- What a held instruction's strand would find if it issued now, for its reads. -/
def heldEnv (s : State) (g : Gang) (h : Held) : Env :=
  ⟨h.gang, ⟨h.gang, g.copyMask [h.acc.lane], h.acc.pc, h.acc.ctl, h.acc.iword⟩, g, tilesFor s g, systemContext s g⟩

/-- The sources of a held lane's instruction; those of an STC reach as far as its element (R229, R233). -/
def heldOperands (s : State) (g : Gang) (h : Held) (i : Instr) : Operands :=
  let e := heldEnv s g h
  match i with
  | .stc d a b x => stcOperands (elemSize s g.cuKey g.ctx h.acc.ptr == some 16) d a b x e
  | i => operands e i

/-- A held lane's access is on its way: its last-use hints act now, where its strand waited for it, that of an s source with the last such
lane; a destination, written after its sources are read, keeps the state it waits in (R51, R53, R372). -/
def consumeHeld (s : State) (g : Gang) (h : Held) : Gang :=
  if h.passed then g
  else match decode h.acc.iword with
    | .ok i =>
      let last := !hasHeld s h.gang g.cuKey fun x => x.acc.ticket == h.acc.ticket && !x.passed
      let g1 := consumeLanes (heldEnv s g h) (heldOperands s g h i) (g.copyMask [h.acc.lane]) last
      { g1 with v := h.acc.dests.foldl (fun m k => setAt Reg.zero m k (getAt Reg.zero g.v k)) g1.v }
    | .error _ => g

/-- Lanes of an instruction that wait for a publication alone, their strand going on: their reads count now (R51, R195). -/
def passLanes (s : State) (id cu ticket : Nat) : State :=
  let stays (h : Held) : Bool := h.gang == id && h.acc.ticket == ticket && !h.passed
  let hs := (heldAt s cu).filter stays
  if hs.isEmpty then s
  else
    let c := s.cu cu
    let pass (h : Held) : Held := if stays h then { h with passed := true } else h
    let t := s.setCu cu { c with replay := c.replay.map pass, replayWait := c.replayWait.map pass }
    hs.foldl (fun t h => t.onGang id fun g => consumeHeld t g h) t

/-- The gang's strand that stalled at an instruction goes on once none of its lanes waits there for the fault service (R372). -/
def unstall (s : State) (id : Nat) (a : Access) : State :=
  match s.gang? id with
  | none => s
  | some g =>
    if hasHeld s id g.cuKey (fun h => h.notres && h.acc.ticket == a.ticket) || g.pcOf a.lane != a.pc then s
    else (passLanes s id g.cuKey a.ticket).onGang id fun g => g.advance (g.strandOf a.lane)

/-- Lanes of an instruction that fault leave no access behind: their places in local order and their samples go, and a counted operation
with nothing left to do is complete (R332, R344, R369). -/
def dropLanes (ticket : Nat) (tl : Mask) (held : Bool) (g : Gang) : Gang :=
  let gone (t l : Nat) : Bool := t == ticket && lane tl l
  let g1 := { g with
    accesses := g.accesses.filter fun x => !(x.held && gone x.acc.ticket x.acc.lane)
    sampled := g.sampled.filter fun x => !(gone x.ticket x.lane && x.finished.isNone) }
  if held || g1.accesses.any (fun x => x.acc.ticket == ticket) || g1.contribs.any (fun c => c.ticket == ticket) ||
    g1.remotes.any fun r => r.ticket == ticket then g1 else completeOp g1 ticket

/-- Held lanes of one instruction that now fault, or are declined: a class-H trap that names every lane of it still unperformed
(R369, R372). -/
def trapHeld (s : State) (id cu : Nat) (h : Held) (bad : List Nat) (c : Code × Nat) (performed : Bool) : State :=
  match s.gang? id with
  | none => s
  | some g =>
    let same := fun (x : Held) => x.gang == id && x.acc.ticket == h.acc.ticket && (x.notres || !x.passed)
    let tl := g.copyMask (bad ++ ((heldAt s cu).filter same).map fun x => x.acc.lane)
    let s1 := releaseHeld s cu same
    let s2 := s1.onGang id (dropLanes h.acc.ticket tl (hasHeld s1 id cu fun x => x.acc.ticket == h.acc.ticket))
    takeTrap (if trapKills s2 id then completeGroup id h.acc.ticket s2 else s2) id (g.strandOf h.acc.lane) h.acc.pc c.1
      (c.2 + bitNat performed * 2 ^ 23) tl

/-- A held lane's places, without the bytes that a higher lane of its instruction stores to (R227). -/
def yieldPlaces (h : Held) (ps : List Place) : List Place := ps.map fun p => if h.above.contains p then .zero else p

/-- What a held access finds when it is translated again. -/
abbrev Reissued := Held × Except Miss (List Place)

/-- The miss of a reissued access. -/
def Reissued.miss (r : Reissued) : Option Miss := Checked.miss (r.1.acc, r.2)

/-- The places of reissued accesses that do not miss. -/
def reissuedOkay (rs : List Reissued) : List (Held × List Place) :=
  rs.filterMap fun r => match r.2 with
    | .ok ps => some (r.1, yieldPlaces r.1 ps)
    | .error _ => none

/-- Reissued accesses that must wait again (R195, R372); `others`: a lane of their instruction is performed. -/
def heldAgain (normal others : Bool) (rs : List Reissued) : List Held :=
  rs.filterMap fun r => match r.miss with
    | some (.notres j sub) => some { r.1 with tile := j, sub := sub, notres := true, out := !normal, others := r.1.others || others }
    | some (.hold t) => some { r.1 with tile := t.getD 0, sub := 0, notres := false, others := r.1.others || others }
    | _ => none

/-- A lane still held, when lanes of its instruction are performed: they are the others, and the bytes of higher ones are not its own
(R227, R369). -/
def besideOkay (id ticket : Nat) (okay : List (Held × List Place)) (x : Held) : Held :=
  if x.gang == id && x.acc.ticket == ticket && !okay.isEmpty then
    { x with
      others := true
      above := if x.acc.kind = .store then
          x.above ++ (okay.filter fun y => decide (x.acc.lane < y.1.acc.lane)).flatMap fun y => (storeBytes y.1.acc y.2).map Prod.fst
        else x.above }
  else x

/-- The lanes whose later accesses a held instruction's precede. -/
def heldBefore (g : Gang) (a : Access) : Mask := match g.accesses.find? (holdsPlace a) with
  | some x => x.before
  | none => allLanes

/-- Accesses of one instruction reissued with fresh translation (R195, R372): those that do not miss take their places in local order, a
damaged one kills the gang, others trap or are held again. -/
def reissueGroup (s : State) (cu : Nat) (hs : List Held) : State :=
  match hs with
  | [] => s
  | h0 :: _ =>
    match s.gang? h0.gang with
    | none => s
    | some g =>
      if h0.acc.kind = .once then s
      else
        let id := h0.gang
        let rs : List Reissued := hs.map fun h => (h, checkAccess s g h.acc)
        let cs : List Checked := rs.map fun r => (r.1.acc, r.2)
        let okay := reissuedOkay rs
        let bad := rs.filter fun r => (r.miss.map Miss.hard).getD false
        let s1 := okay.foldl (fun s x => s.onGang id fun g => consumeHeld s g x.1) s
        let s2 := enqueueAll id h0.acc.ticket (heldBefore g h0.acc) (okay.map fun x => (x.1.acc, x.2)) s1
        let s3 := noteMisses g cs s2
        if rs.any fun r => (r.miss.map Miss.kills).getD false then killFaulted id h0.acc.ticket g h0.acc.pc cs s3
        else
          let c := s3.cu cu
          let note := besideOkay id h0.acc.ticket okay
          let s4 := if okay.isEmpty then s3 else
            s3.setCu cu { c with replay := c.replay.map note, replayWait := c.replayWait.map note }
          let again := (heldAgain (s.die g.die).normal (!okay.isEmpty) rs).map note
          let s5 := (again.foldl (fun s h => holdAccess s cu h) s4).onGang id fun g => if again.isEmpty then g else g.count 7 again.length
          match bad with
          | [] => if hs.all Held.passed then s5 else unstall s5 id h0.acc
          | b :: _ => trapHeld s5 id cu b.1 (bad.map fun r => r.1.acc.lane)
              (reported (bad.map fun r => (r.1.acc, r.2))) (!okay.isEmpty || b.1.others)

/-- Held accesses grouped by instruction, in the order held. -/
def heldGroups (hs : List Held) : List (List Held) :=
  ((hs.map fun h => (h.gang, h.acc.ticket)).eraseDups).map fun k => hs.filter fun h => h.gang == k.1 && h.acc.ticket == k.2

/-- The held accesses of a CU that satisfy a test are reissued (R195, R372). -/
def reissueAt (s : State) (cu : Nat) (p : Held → Bool) : State :=
  let hs := (heldAt s cu).filter p
  if hs.isEmpty then s else (heldGroups hs).foldl (fun s g => reissueGroup s cu g) (releaseHeld s cu p)

/-- The held accesses of every CU that satisfy a test are reissued. -/
def reissueAll (s : State) (p : Held → Bool) : State := (s.cus.map Prod.fst).foldl (fun s c => reissueAt s c p) s

/-- A declined access made once for its gang raises NOTRES precisely at its instruction; declined lanes raise it with P (R369,
R372). -/
def declineGroup (s : State) (cu : Nat) (hs : List Held) : State :=
  match hs with
  | [] => s
  | h :: _ =>
    match s.gang? h.gang with
    | none => s
    | some g =>
      if h.acc.kind = .once then
        takeTrap s h.gang (g.strandOf h.acc.lane) h.acc.pc .notres 0 (g.strandOf h.acc.lane)
      else trapHeld s h.gang cu h (hs.map fun x => x.acc.lane) (.notres, 0) h.others

/-- The held accesses of a CU that satisfy a test are declined. -/
def declineAt (s : State) (cu : Nat) (p : Held → Bool) : State :=
  let hs := (heldAt s cu).filter p
  if hs.isEmpty then s else (heldGroups hs).foldl (fun s g => declineGroup s cu g) (releaseHeld s cu p)

/-- A long-latency result returns (R77). Registers that wait for another result, or have been written since, keep their state. -/
def returnResult (g : Gang) (p : Pending) : Gang := fillRegs { g with pending := g.pending.erase p } p.ticket p.vs p.ss

/-- A gang's oldest result of a ticket fills its registers; a matrix-queue instruction is then complete (R77, R162). -/
def resultReturn (s : State) (id ticket : Nat) : State :=
  match s.gang? id with
  | none => s
  | some g => match g.pending.find? fun p => p.ticket == ticket with
    | none => s
    | some p =>
      let matrix := g.counted.any fun c => c.ticket == ticket && c.cls == 1
      s.setGang id (if matrix then completeOp (returnResult g p) ticket else returnResult g p)

/-- RESULT_RETURN (R77). -/
def execResultReturn (id ticket : Nat) (s : State) : Out := .next (resultReturn s id ticket)

/-- REPLAY_SLOT_FREE (R195): the next waiting lane access takes a free slot. -/
def execReplaySlotFree (cu : Nat) (s : State) : Out :=
  let c := s.cu cu
  .next (match c.replayWait with
    | [] => s
    | h :: rest => if c.replay.length < 64 then s.setCu cu { c with replay := c.replay ++ [h], replayWait := rest } else s)

end Sys2Proof.Machine
end

