-- ==== Sys2Proof/Machine/Copy.lean ====
section
/-! DEFINITION. Asynchronous copies: ACP, ACPS, ACPT and their pieces (R235 to R239). -/

namespace Sys2Proof.Machine

/-- Translate of the bytes from `skip` on of a range that begins at a pointer. -/
def translateFrom (s : State) (cu ctx : Nat) (p : W64) (k : Kind) (skip size : Nat) : Except Miss (List Place) :=
  if isRemote s p then remotePlaces s p k false false false skip size
  else match findRecord s cu ctx (ptrNode p) (ptrObj p) with
    | .error m => .error m
    | .ok r => translateBytes s cu ctx (ptrObj p) r k false false (linearBytes r (ptrOff p + skip) size)

/-- The places of bytes of one side of a per-lane copy. -/
def sidePlaces (s : State) (g : Gang) (p : W64) (scratch : Bool) (k : Kind) (skip size : Nat) : Except Miss (List Place) :=
  if scratch then spadPlaces s g (fld p 31 0 + skip) size else translateFrom s g.cuKey g.ctx p k skip size

/-- A fault raised at issue: any but NOTRES and a hold, whose pieces wait later (R235). -/
def issueMiss (r : Except Miss (List Place)) : Option Miss :=
  match r with
  | .error (.notres _ _) => none
  | .error (.hold _) => none
  | .error m => some m
  | .ok _ => none

/-- The faults at issue among some results, each with the pointer it concerns. -/
def issueMisses (rs : List (W64 × Except Miss (List Place))) : List (W64 × Miss) :=
  rs.filterMap fun r => (issueMiss r.2).map fun m => (r.1, m)

/-- What a copy checks of one lane at issue: the first and last byte of its source and destination, or the whole range in scratchpad
(R235, R237). -/
def copyCheck (s : State) (g : Gang) (c : CopyLane) : List (W64 × Miss) :=
  let ends (p : W64) (scratch : Bool) (k : Kind) :=
    if scratch then [(p, spadPlaces s g (fld p 31 0) c.len)]
    else [(p, sidePlaces s g p false k 0 1), (p, sidePlaces s g p false k (c.len - 1) 1)]
  issueMisses (ends c.src c.srcScratch .read ++ ends c.dst c.dstScratch .write)

/-- A copy whose lanes pass their checks at issue joins the gang's copies and is counted in KC0; one with no bytes is complete at once
(R235). -/
def startCopy (e : Env) (i : Instr) (lanes : List CopyLane) (box : Option CopyBox) (s : State) : State :=
  let n := s.nextName
  let g := countOp (reads e i) 0 n.1
  let g1 : Gang := if lanes.isEmpty then completeOp g n.1
    else { g with copies := g.copies ++ [⟨n.1, lanes, lanes, box, [], none, e.iss.iword, e.iss.ctl, e.iss.pc⟩] }
  finish e g1 n.2

/-- Faults of a copy at issue: nothing is written and KC0 does not change (R235). -/
def copyFault (e : Env) (tl : Mask) (cs : List (Nat × W64 × Miss)) (s : State) : State :=
  match cs.find? fun c => c.2.2.kills with
  | some c =>
    let s1 := match c.2.2 with
      | .damaged t => markDamaged s e.g.ctx (ptrObj c.2.1) t
      | _ => s
    let r := reported ((cs.filter fun c => c.2.2.kills).map fun c => (e.access .load 0 c.1 0, .error c.2.2))
    killGang s1 e.id r.1 r.2 false e.iss.pc tl
  | none =>
    let r := reported (cs.map fun c => (e.access .load 0 c.1 0, .error c.2.2))
    trapLanes e r.1 r.2 tl s

/-- A per-lane copy (R236, R237). -/
def laneCopy (i : Instr) (d a b : BitVec 7) (dstS srcS : Bool) (e : Env) (s : State) : State :=
  match parted e (e.active &&& ~~~e.g.helpers) fun l => (e.rd d l, e.rd a l, fld (e.rd b l) 15 0) with
  | some m => killParted e false m s
  | none =>
    if e.g.kcOf 0 = 65535 then stallQueue s
    else
      let lanes := (performers e).map fun l => (⟨l, e.rd d l, dstS, e.rd a l, srcS, 0, fld (e.rd b l) 15 0 + 1⟩ : CopyLane)
      let bad := lanes.flatMap fun c => (copyCheck s e.g c).map fun m => (c.lane, m)
      if bad.isEmpty then startCopy e i lanes none s else copyFault e (e.g.copyMask (bad.map Prod.fst)) bad s

/-- ACP (R236). -/
def execAcp (d a b : BitVec 7) (s : State) : Out := issue (.acp d a b) (laneCopy (.acp d a b) d a b false false) s

/-- ACPS (R237). -/
def execAcps (d a b : BitVec 7) (x : BitVec 2) (s : State) : Out :=
  issue (.acps d a b x) (laneCopy (.acps d a b x) d a b (x == 0) (x != 0)) s

/-- Rows and columns of a box (R238). -/
def CopyBox.cols (b : CopyBox) : Nat := fld b.desc 43 32 + 1
def CopyBox.rows (b : CopyBox) : Nat := fld b.desc 55 44 + 1

/-- The bytes of a box. -/
def CopyBox.bytes (b : CopyBox) : Nat := b.esize * b.cols * b.rows

/-- Coordinates and byte in the element of position p of a box in scratchpad order (R238). -/
def CopyBox.at (b : CopyBox) (p : Nat) : List Int × Nat :=
  let k := p / b.esize
  ([signedOf 32 (fld b.org0 31 0) + ((k % b.cols : Nat) : Int), signedOf 32 (fld b.org0 63 32) + ((k / b.cols : Nat) : Int),
    signedOf 32 (fld b.org1 31 0), signedOf 32 (fld b.org1 63 32)], p % b.esize)

/-- The object places of positions of a box; in another device's object it lies as one range. -/
def CopyBox.places (s : State) (g : Gang) (b : CopyBox) (ps : List Nat) : Except Miss (List Place) :=
  let k : Kind := if b.toObject then .write else .read
  if isRemote s b.ptr then remotePlaces s b.ptr k false false false (ps.headD 0) ps.length
  else match findRecord s g.cuKey g.ctx (ptrNode b.ptr) (ptrObj b.ptr) with
    | .error m => .error m
    | .ok r => translateBytes s g.cuKey g.ctx (ptrObj b.ptr) r k false false (ps.map b.at)

/-- The 256-byte block of the object's storage that a position of a box lies in; none where it has no byte there (R188, R193). -/
def CopyBox.block (s : State) (g : Gang) (b : CopyBox) (p : Nat) : Option Nat :=
  match findRecord s g.cuKey g.ctx (ptrNode b.ptr) (ptrObj b.ptr) with
  | .error _ => none
  | .ok r => match shapeByte r (b.at p).1 (b.at p).2 with
    | some (.at S _) => some (S / 256)
    | _ => none

/-- ACPT (R238). -/
def execAcpt (d a b : BitVec 7) (x : BitVec 2) (s : State) : Out :=
  issue (.acpt d a b x) (fun e s =>
    if fld (e.once d) 63 56 != 0 then trapStrand e .illop 0 s
    else if e.g.kcOf 0 = 65535 then stallQueue s
    else if e.strand &&& ~~~e.g.helpers = 0 then startCopy e (.acpt d a b x) [] none s
    else
      let p := e.once a
      let E : Except Miss Nat := if isRemote s p then .ok (remoteElem s p) else match findRecord s e.g.cuKey e.g.ctx (ptrNode p) (ptrObj p) with
        | .ok r => .ok r.esize
        | .error m => .error m
      match E with
      | .error m => onceMiss e p m s
      | .ok n =>
        let box : CopyBox := ⟨p, e.once d, e.once b, e.g.read (b.toNat + 1) 0, x != 0, n⟩
        let off : W64 := word (fld (e.once d) 31 0)
        let elem (i : Nat) : List Nat := (List.range n).map fun j => i + j
        match issueMisses [(off, spadPlaces s e.g (fld off 31 0) box.bytes), (p, box.places s e.g (elem 0)),
            (p, box.places s e.g (elem (box.bytes - n)))] with
        | m :: ms => copyFault e e.strand ((m :: ms).map fun m => (lowestLane e.strand, m)) s
        | [] => startCopy e (.acpt d a b x) [⟨0, off, x == 0, off, x != 0, 0, box.bytes⟩] (some box) s) s

/-- The positions of a range. -/
def CopyLane.positions (c : CopyLane) : List Nat := (List.range c.len).map fun i => c.pos + i

/-- The ranges of consecutive positions in a rising list. -/
def CopyLane.runs (c : CopyLane) : List Nat → List CopyLane
  | [] => []
  | p :: ps => match c.runs ps with
    | x :: xs => if x.pos = p + 1 then { x with pos := p, len := x.len + 1 } :: xs else { c with pos := p, len := 1 } :: x :: xs
    | [] => [{ c with pos := p, len := 1 }]

/-- The destination address of a position, as far as word boundaries go. -/
def CopyLane.target (c : CopyLane) (p : Nat) : Nat := (if c.dstScratch then fld c.dst 31 0 else ptrOff c.dst) + p

/-- The piece that begins at or below position q of a range: at most 256 bytes, from an aligned destination word or the range's start to an
aligned word or the range's end (R235). -/
def CopyLane.piece (c : CopyLane) (q : Nat) : List Nat :=
  let start := max c.pos (q - c.target q % 4)
  let stop := if c.pos + c.len ≤ start + 256 then c.pos + c.len else start + 256 - c.target (start + 256) % 4
  (List.range (stop - start)).map fun i => start + i

/-- The piece that holds position q of a range: of a box that goes to an object, the positions of one block of its storage, whose words lie
in no other piece (R235, R238). -/
def pieceOf (s : State) (g : Gang) (op : CopyOp) (c : CopyLane) (q : Nat) : List Nat :=
  match op.box with
  | some b =>
    if b.toObject && !isRemote s b.ptr then
      (op.lanes.flatMap CopyLane.positions).filter fun p => b.block s g p == b.block s g q &&
        ((b.block s g q).isSome || (decide (q ≤ p) && decide (p < q + 256)))
    else c.piece q
  | none => c.piece q

/-- The scratchpad places of positions from an offset on. -/
def spadAt (s : State) (g : Gang) (o : Nat) (ps : List Nat) : Except Miss (List Place) :=
  match allOk (ps.map fun p => spadPlaces s g (o + p) 1) with
  | .ok xs => .ok xs.flatten
  | .error m => .error m

/-- The places of a piece: source and destination. -/
def piecePlaces (s : State) (g : Gang) (op : CopyOp) (c : CopyLane) (ps : List Nat) :
    Except Miss (List Place) × Except Miss (List Place) :=
  match op.box with
  | none => (sidePlaces s g c.src c.srcScratch .read (ps.headD 0) ps.length, sidePlaces s g c.dst c.dstScratch .write (ps.headD 0) ps.length)
  | some b =>
    let o := b.places s g ps
    let p := spadAt s g (fld c.dst 31 0) ps
    if b.toObject then (p, o) else (o, p)

/-- The places of one side of a range, as far as they translate. -/
def rangePlaces (s : State) (g : Gang) (p : W64) (scratch : Bool) (k : Kind) (c : CopyLane) : List Place :=
  match sidePlaces s g p scratch k c.pos c.len with
  | .ok ps => ps
  | .error _ => []

/-- The destinations of a lane's copy that it leaves unpredictable: bytes of the copy's own source, or of another lane's destination
(R235). DESIGN CHOICE (log 23): they are found from the ranges with which the copy began, which a restored copy holds only as far as it
was still to go. -/
def clashes (s : State) (g : Gang) (op : CopyOp) (l : Nat) : List Place :=
  if op.box.isSome then []
  else op.whole.flatMap fun x => rangePlaces s g x.src x.srcScratch .read x ++
    if x.lane = l then [] else rangePlaces s g x.dst x.dstScratch .write x

/-- The bytes a piece writes: what memory holds, or any bytes from another device, and a free byte where the copy leaves it
unpredictable (R235). -/
def pieceBytes (s : State) (clash from_ dest : List Place) : State × List (Place × Byte) :=
  ({ s with tick := s.tick + from_.length },
    ((from_.zip dest).zip (List.range from_.length)).map fun x =>
      (x.1.2, if x.1.1.isRemote || clash.contains x.1.2 then (Config.freeWord (s.tick + x.2)).setWidth 8 else byteNow s x.1.1))

/-- A copy is changed, and is complete when no range remains. -/
def setCopy (g : Gang) (op : CopyOp) : Gang :=
  if op.lanes.isEmpty then completeOp { g with copies := g.copies.filter fun x => x.ticket != op.ticket } op.ticket
  else { g with copies := g.copies.map fun x => if x.ticket = op.ticket then op else x }

/-- The lanes a piece concerns: the lane of a per-lane copy, or every lane of the gang's box (R236, R238). -/
def pieceLanes (g : Gang) (op : CopyOp) (c : CopyLane) : Mask := if op.box.isSome then allLanes else g.copyMask [c.lane]

/-- A piece's miss: it waits for a sub-tile, or has its block switched out, or kills the gang (R235, R373). -/
def pieceMiss (id : Nat) (g : Gang) (op : CopyOp) (c : CopyLane) (p : W64) (m : Miss) (s : State) : State :=
  match m with
  | .hold _ => s
  | .notres j sub =>
    let h := (ptrObj p, j, sub)
    let s1 := countDie (dropEntry s g.cuKey g.ctx (ptrObj p) j) g.die 38 1
    if op.held.contains h then s1
    else s1.onGang id fun g => setCopy g (if (s.die g.die).normal then { op with held := op.held ++ [h] } else { op with out := some h })
  | m =>
    let s1 := match m with
      | .damaged t => markDamaged s g.ctx (ptrObj p) t
      | _ => s
    let f := m.code.getD (.memue, 0)
    killGang s1 id f.1 f.2 false op.pc (pieceLanes g op c)

/-- The range and the positions of the piece that a number chooses. -/
def choosePiece (s : State) (g : Gang) (op : CopyOp) (k : Nat) : Option (CopyLane × List Nat) :=
  match op.lanes[k % op.lanes.length]? with
  | none => none
  | some c => some (c, pieceOf s g op c (c.pos + k / op.lanes.length % max 1 c.len))

/-- What remains of a copy when positions of a range are written. -/
def CopyOp.without (op : CopyOp) (c : CopyLane) (ps : List Nat) : List CopyLane :=
  op.lanes.flatMap fun x => if x.lane = c.lane then x.runs (x.positions.filter fun p => !ps.contains p) else [x]

/-- One piece of a copy is performed (R235). -/
def performPiece (id ticket k : Nat) (s : State) : State :=
  match s.gang? id with
  | none => s
  | some g => match g.copies.find? fun x => x.ticket == ticket with
    | none => s
    | some op => match choosePiece s g op k with
      | none => s
      | some (c, ps) =>
        let rs := piecePlaces s g op c ps
        let src := (op.box.map CopyBox.ptr).getD c.src
        let dst := (op.box.map CopyBox.ptr).getD c.dst
        match rs.1, rs.2 with
        | .error m, _ => pieceMiss id g op c src m s
        | _, .error m => pieceMiss id g op c dst m s
        | .ok from_, .ok dest =>
          if from_.any (placePoisoned s) then killGang s id .memue (bitNat c.srcScratch) false op.pc (pieceLanes g op c)
          else
            let r := pieceBytes s (clashes s g op c.lane) from_ dest
            let s1 := performBytes r.1 g.die (some g.cuKey) (r.2.filter fun b => !decide (b.1 = .zero))
            let held := op.held.filter fun h => stillMissing s g.cuKey g.ctx h.1 h.2.1 h.2.2
            s1.onGang id fun g => setCopy g { op with lanes := op.without c ps, held := held }

/-- COPY_PIECE (R235). -/
def execCopyPiece (id ticket k : Nat) (s : State) : Out := .next (performPiece id ticket k s)

end Sys2Proof.Machine
end

