-- ==== Sys2Proof/Machine/Barrier.lean ====
section
/-! DEFINITION. Barriers: BAR, BARA, BARW and CBAR (R244 to R249). -/

namespace Sys2Proof.Machine

/-- The count given with an arrival: the whole value of the register read once (R244). -/
def barCount (e : Env) (a : BitVec 7) (c : BitVec 1) : Option Nat := if c = 1 then some (e.once a).toNat else none

/-- The gang has arrived in the current phase of a word. -/
def hasArrived (g : Gang) (cluster : Bool) (w : Nat) : Bool :=
  if cluster then g.arrivedCbars.contains w else g.arrivedBars.contains w

/-- The gang noted as arrived in the current phase of a word. -/
def noteArrival (g : Gang) (cluster : Bool) (w : Nat) : Gang :=
  if cluster then { g with arrivedCbars := w :: g.arrivedCbars } else { g with arrivedBars := w :: g.arrivedBars }

/-- The park condition of a gang at a barrier. -/
def barPark (cluster : Bool) (w : Nat) (phase : Bool) (d : Nat) : Park := if cluster then .cbar w phase d else .bar w phase d

/-- A barrier's completion for the issuing gang: predicate d, BARAB, and the strand goes on (R244, R247). -/
def passBar (e : Env) (g : Gang) (d : Nat) (ab : Bool) : Gang :=
  let g1 := (g.setPred g.liveLanes d (barResult ab)).advance e.strand
  { g1 with gstat := setBit g1.gstat 1 (ab || g1.gstat.getLsbD 1) }

/-- A strand still parked has ended its run (R20, R245). -/
def endIfParked (e : Env) (s : State) : State :=
  match s.gang? e.id with
  | some g => if (lanesOf e.strand).any fun l => g.parkOf l != .ready then stopRuns s e.id else s
  | none => s

/-- A gang that counts and has arrived in the phase of a word is held until that phase ends (R244). -/
def heldAtBar (g : Gang) (cluster : Bool) (w : Nat) : Bool := g.counts && hasArrived g cluster w

/-- BAR and CBAR issued by the whole gang (R244, R246, R247, R249): a release on the named paths at scope BLK, or CLU for CBAR. -/
def barStep (i : Instr) (cluster : Bool) (d : Nat) (a : BitVec 7) (c : BitVec 1) (p : BitVec 2) (w : Nat) (e0 : Env) (s0 : State) : State :=
  let v := barGet s0 cluster e0.g.block w
  if heldAtBar e0.g cluster w then holdAs e0 (.barHold w (barPhase v) cluster) s0
  else
    let s := releasePaths s0 e0.id p.toNat (bitNat cluster) e0.strand
    let e := e0.renew s
    if stillOwes e.g p.toNat (bitNat cluster) e.strand then stallQueue s
    else
      let g := reads e i
      let parked := g.setPark e.strand (barPark cluster w (barPhase v) d)
      if g.counts then
        let s1 := arriveBar (s.setGang e.id (noteArrival parked cluster w)) cluster g.block w (barCount e a c)
        endIfParked e s1
      else if barArr v = 0 then
        (if cluster then invalidateL1 (s.setGang e.id (passBar e g d (barAb v))) g.cuKey
         else s.setGang e.id (passBar e g d (barAb v)))
      else stopRuns (s.setGang e.id parked) e.id

/-- BAR (R247). -/
def execBar (d a : BitVec 7) (c : BitVec 1) (p : BitVec 2) (b : BitVec 5) (s : State) : Out :=
  issueMet (.bar d a c p b) (wholeGang (barStep (.bar d a c p b) false d.toNat a c p b.toNat)) s

/-- CBAR (R249). -/
def execCbar (d a : BitVec 7) (c : BitVec 1) (p : BitVec 2) (b : BitVec 5) (s : State) : Out :=
  issueMet (.cbar d a c p b) (wholeGang (barStep (.cbar d a c p b) true d.toNat a c p b.toNat)) s

/-- BARA issued by the whole gang, with the release half of its paths (R248). Its arrival on an abandoned word completes the phase, and
the gang has BARAB (R244). -/
def baraStep (i : Instr) (d : BitVec 7) (a : BitVec 7) (c : BitVec 1) (p : BitVec 2) (w : Nat) (e0 : Env) (s0 : State) : State :=
  let v := barGet s0 false e0.g.block w
  if heldAtBar e0.g false w then holdAs e0 (.barHold w (barPhase v) false) s0
  else
    let s := releasePaths s0 e0.id p.toNat 0 e0.strand
    let e := e0.renew s
    if stillOwes e.g p.toNat 0 e.strand then stallQueue s
    else
      let bit : W64 := if barPhase v then 1 else 0
      let g := reads e i
      let g1 := if 112 ≤ d.toNat then g.setReg d.toNat 0 ⟨bit, .full⟩ else g.write g.liveLanes d.toNat fun _ => bit
      let g2 := { noteArrival g1 false w with gstat := setBit g1.gstat 1 (barAb v || g1.gstat.getLsbD 1) }
      if g.counts then arriveBar (finish e g2 s) false g.block w (barCount e a c)
      else finish e g1 s

/-- BARA (R248). -/
def execBara (d a : BitVec 7) (c : BitVec 1) (p : BitVec 2) (b : BitVec 5) (s : State) : Out :=
  issueMet (.bara d a c p b) (wholeGang (baraStep (.bara d a c p b) d a c p b.toNat)) s

/-- BARW issued by the whole gang (R248). -/
def barwStep (i : Instr) (d : Nat) (a : BitVec 7) (w : Nat) (e : Env) (s : State) : State :=
  let v := barGet s false e.g.block w
  let token := (e.once a).getLsbD 0
  let g := reads e i
  if barPhase v != token then s.setGang e.id (passBar e g d (barAb v))
  else stopRuns (s.setGang e.id (g.setPark e.strand (.bar w token d))) e.id

/-- BARW (R248). -/
def execBarw (d a : BitVec 7) (p : BitVec 2) (b : BitVec 5) (s : State) : Out :=
  issueMet (.barw d a p b) (wholeGang (barwStep (.barw d a p b) d.toNat a b.toNat)) s

end Sys2Proof.Machine
end

