-- ==== Sys2Proof/Machine/Fence.lean ====
section
/-! DEFINITION. FENCE, FLUSH and CKPT (R216, R217, R250 to R252). -/

namespace Sys2Proof.Machine

/-- What a release at scope RCV does beside its order: every byte of the Rind is in memory with its CRC (R216, R250). -/
def releaseRind (sc : Nat) (s : State) : State := if sc = 5 then drainRind s else s

/-- A strong read of a gang that precedes later accesses of some lanes: what an acquiring FENCE orders (R250). -/
def Waiting.strongRead (x : Waiting) (m : Mask) : Bool :=
  x.before &&& m != 0 && (decide (x.acc.kind = .atom) || decide (x.acc.kind = .poll) || (decide (x.acc.kind = .load) && x.acc.strong))

/-- Some strong read of a gang that precedes later accesses of some lanes is not yet performed. -/
def readsOwed (s : State) (id : Nat) (m : Mask) : Bool := match s.gang? id with
  | none => false
  | some g => g.accesses.any fun x => x.strongRead m

/-- The release half of a FENCE, and whether the strand has to wait for it (R250). -/
def fenceRelease (e : Env) (p sc : Nat) (s : State) : State × Bool :=
  let t := releasePaths s e.id p sc e.strand
  (t, stillOwes (e.renew t).g p sc e.strand)

/-- The acquire half of a FENCE, and whether the strand has to wait for it (R208, R250). -/
def fenceAcquire (e : Env) (sc : Nat) (s : State) : State × Bool :=
  let t := settleFor s e.id fun x => x.strongRead e.strand
  if readsOwed t e.id e.strand then (t, true) else (if 1 ≤ sc then invalidateL1 t e.g.cuKey else t, false)

/-- FENCE (R250). -/
def execFence (p k : BitVec 2) (sf : BitVec 3) (s : State) : Out :=
  issue (.fence p k sf) (fun e s =>
    let r := if k != 0 then fenceRelease e p.toNat sf.toNat s else (s, false)
    if r.2 then stallQueue r.1
    else
      let s1 := if k != 0 then releaseRind sf.toNat r.1 else r.1
      let q := if k != 1 then fenceAcquire e sf.toNat s1 else (s1, false)
      if q.2 then stallQueue q.1 else q.1.onGang e.id fun g => g.advance e.strand) s

/-- The line tiles that hold a byte of a range of an object; no byte at or past its size is in shape (R187, R251). -/
def linesIn (r : Record) (off n : Nat) : List (List Nat) :=
  ((linearBytes r off (min n (r.size - off))).filterMap fun b => if r.inShape b.1 then some (r.line b.1 b.2) else none).eraseDups

/-- The locations a FLUSH of a range writes back; none where the record cannot be read, and then every line may be one (R251). -/
def rangeKeys (s : State) (cu ctx : Nat) (p : W64) (n : Nat) : Option (List Key) :=
  match s.ctx? ctx with
  | none => some []
  | some x =>
    if damagedAt s (recordAt x (ptrObj p)) 128 then none
    else
      let r := recordOf s cu ctx x (ptrObj p)
      if r.state == 3 then none
      else some ((linesIn r (ptrOff p) n).flatMap (lineKeys s cu ctx (ptrObj p) r))

/-- An OBJINV condition of R191, details 0 to 3; another device finds its own (R185). -/
def invalidObject (s : State) (cu ctx : Nat) (p : W64) : Option Nat :=
  match (if isRemote s p then (remotePlaces s p .read false false false 0 1).map (fun _ => ([] : Record))
      else findRecord s cu ctx (ptrNode p) (ptrObj p)) with
  | .error (.fault .objinv d) => some d
  | _ => none

/-- Dirty lines of a range written back (R251). -/
def flushRange (s : State) (cu ctx : Nat) (p : W64) (n : Nat) : State :=
  if n = 0 || isRemote s p then s
  else match rangeKeys s cu ctx p n with
    | some ks => writeBack s fun k => ks.contains k
    | none => writeBack s fun _ => true

/-- A location lies in a tile of an object whose entry gives it a frame (R189, R200, R251). -/
def inObject (s : State) (cu ctx obj : Nat) (r : Record) (k : Key) : Bool :=
  (List.range r.tmlen).any fun j =>
    let e := entryOf s cu ctx obj r j
    entState r.sysm e != 0 &&
      (if r.sysm then k / 4096 == hostKey (fld e 63 12 * 4096) / 4096 else k / 65536 == entFrame e)

/-- Dirty lines of every object of a context written back (R251). -/
def flushContext (s : State) (cu ctx : Nat) : State :=
  match s.ctx? ctx with
  | none => s
  | some x => writeBack s fun k => (List.range x.otLen).any fun obj =>
      let r := recordOf s cu ctx x obj
      r.state != 0 && r.state != 4 && inObject s cu ctx obj r k

/-- FLUSH, its pointers being valid: what the gang has stored is written back with the rest (R251). -/
def flushStep (e0 : Env) (a b : BitVec 7) (x : BitVec 2) (s0 : State) : State :=
  let s := drainFor s0 e0.id e0.strand
  let e := e0.renew s
  if stillOwes e.g 3 2 e.strand then stallQueue s
  else if x != 0 then (flushContext s e.g.cuKey e.g.ctx).onGang e.id fun g => g.advance e.strand
  else ((lanesOf e.strand).foldl (fun t l => flushRange t e.g.cuKey e.g.ctx (e.rd a l) (fld (e.rd b l) 31 0))
      (s.setGang e.id (reads e (.flush a b x)))).onGang e.id fun g => g.advance e.strand

/-- FLUSH (R251). -/
def execFlush (a b : BitVec 7) (x : BitVec 2) (s : State) : Out :=
  issue (.flush a b x) (fun e s =>
    let bad := if x != 0 then [] else (lanesOf e.strand).filterMap fun l =>
      (invalidObject s e.g.cuKey e.g.ctx (e.rd a l)).map fun d => (l, d)
    match bad with
    | [] => flushStep e a b x s
    | (_, d0) :: rest =>
      trapLanes e .objinv (rest.foldl (fun d y => min d y.2) d0) (maskOf fun l => bad.any fun y => y.1 == l) s) s

/-- A pointer to byte 0 of an object of this device. -/
def ownPtr (obj : Nat) : W64 := word (511 * 2 ^ 55 + obj * 2 ^ 36)

/-- The checks of CKPT on the image object (R252). -/
def ckptMiss (s : State) (e : Env) (obj : Nat) : Option Miss :=
  match findRecord s e.g.cuKey e.g.ctx 511 obj with
  | .error m => some m
  | .ok r =>
    if r.state == 2 then some (.hold none)
    else if !r.rd then some (.fault .perm 0)
    else if !r.wr then some (.fault .perm 1)
    else if !r.du then some (.fault .perm 4)
    else if r.size < 512 then some (.fault .oos 0)
    else none

/-- An image object's canonical size. -/
def imageSize (s : State) (cu ctx obj : Nat) : Nat :=
  match findRecord s cu ctx 511 obj with
  | .ok r => r.size
  | .error _ => 0

/-- The segment CRC table that an image's header names: its place, and its number of entries (R283). -/
def segmentTable (w13 : W64) : Nat × Nat := (fld w13 39 0, fld w13 63 40)

/-- The commit record of R217. -/
def commitRecord (obj gen nseg ctx : Nat) (table : List Byte) : List Byte :=
  let body := wordsBytes [0x4B345249_4E44434D, word (gen * 2 ^ 32 + obj), word (nseg * 2 ^ 32 + ctx)] ++ sha512 table ++
    List.replicate 160 0
  body ++ natBytes 8 (crc32c body)

/-- The segment CRC table as CKPT reads it, with its number of entries (R252). -/
def readTable (rd : W64 → Nat → Except Miss (List Byte)) (obj : Nat) : Except Miss (Nat × List Byte) :=
  match rd (ownPtr obj + 104) 8 with
  | .error m => .error m
  | .ok h =>
    let t := segmentTable (bytesW64 h)
    if t.2 = 0 then .ok (0, [])
    else if 2 ^ 36 ≤ t.1 then .error (.fault .oos 0)
    else match rd (ownPtr obj + word t.1) (16 * t.2) with
      | .ok bs => .ok (t.2, bs)
      | .error m => .error m

/-- A release of the gang at scope RCV that precedes later accesses of some lanes: what a CKPT waits for (R252). -/
def Waiting.toRind (x : Waiting) (m : Mask) : Bool := x.before &&& m != 0 && x.acc.release && x.acc.scope == 5

/-- CKPT (R252): the earlier releases at scope RCV, then its reads and their faults; the commit follows as CKPT_COMMIT. -/
def execCkpt (a : BitVec 7) (sf : BitVec 2) (s : State) : Out :=
  issue (.ckpt a sf) (fun e0 s =>
    match (if a.toNat < 112 then parted e0 e0.strand (e0.rd a) else none) with
    | some m => killParted e0 false m s
    | none =>
      let s0 := settleFor s e0.id fun x => x.toRind e0.strand
      let e := e0.renew s0
      if e.g.accesses.any (fun x => x.toRind e.strand) || e.g.checkpoint.isSome then holdAs e .drain s0
      else
        let obj := fld (e.once a) 50 32
        match ckptMiss s0 e obj with
        | some m => onceMiss e (ownPtr obj) m s0
        | none => match readTable (readOnce e s0) obj with
          | .error m => onceMiss e (ownPtr obj) m s0
          | .ok _ => match translateFrom s0 e.g.cuKey e.g.ctx (ownPtr obj) .write (imageSize s0 e.g.cuKey e.g.ctx obj - 256) 256 with
            | .error m => onceMiss e (ownPtr obj) m s0
            | .ok _ =>
              let g := (reads e (.ckpt a sf)).setPark e.strand .ckpt
              stopRuns (s0.setGang e.id { g with
                checkpoint := some ⟨sf.toNat, obj, fld (e.once a) 31 0, e.strand⟩ }) e.id) s

/-- CKPn after a checkpoint: a greater generation stands (R252). -/
def newCkp (old : W64) (obj gen : Nat) : W64 :=
  if old.getLsbD 63 && decide (gen ≤ fld old 31 0) then old else word (2 ^ 63 + obj * 2 ^ 32 + gen)

/-- Bytes written into HBM at recovery scope by the K4 itself, mirror copies with them (R215, R395). -/
def rindWrite (s : State) (pa : Nat) (bs : List Byte) : State :=
  ((List.range bs.length).zip bs).foldl (fun s b => memWrite s (pa + b.1) b.2) s

/-- Where the entry of a context slot lies in the recovery directory; none where no Rind range is designated (R395). -/
def directoryAt (s : State) (slot : Nat) : Option Nat := s.rind.head?.map fun r => r.1 + 64 * slot

/-- A context's entry of the recovery directory is written (R395). -/
def writeDirectory (s : State) (ctx : Nat) : State :=
  match s.ctx? ctx with
  | none => s
  | some x => match directoryAt s x.slot with
    | none => s
    | some a => rindWrite s a (wordsBytes ([word (2 ^ 63 + ctx)] ++ (List.range 4).map (fun i => getAt 0 x.ckp i) ++ [0, 0, 0]))

/-- CKPT_COMMIT (R252): the commit record, a release of the gang at scope RCV, reaches HBM, CKPn is written, and the strand goes on.
While a place is not resident or is moving, or an earlier access cannot be performed, the commit waits. -/
def ckptCommit (id : Nat) (s0 : State) : State :=
  match s0.gang? id with
  | none => s0
  | some g0 => match g0.checkpoint with
    | none => s0
    | some c =>
      let s := drainFor s0 id c.lanes
      match s.gang? id, readTable (readObject s g0.cuKey g0.ctx) c.obj,
        translateFrom s g0.cuKey g0.ctx (ownPtr c.obj) .write (imageSize s g0.cuKey g0.ctx c.obj - 256) 256 with
      | some g, .ok t, .ok ps =>
        if stillOwes g 3 2 c.lanes then s
        else
          let s1 := performBytes s g.die (some g.cuKey) (ps.zip (commitRecord c.obj c.gen t.1 g.ctx t.2))
          let s2 := drainRind s1
          let s3 := s2.onCtx g.ctx fun x => { x with ckp := setAt 0 x.ckp c.slot (newCkp (getAt 0 x.ckp c.slot) c.obj c.gen) }
          (writeDirectory s3 g.ctx).onGang id fun g => { (g.advance c.lanes).setPark c.lanes .ready with checkpoint := none }
      | _, _, _ => s

/-- CKPT_COMMIT (R252). -/
def execCkptCommit (g : Nat) (s : State) : Out := .next (ckptCommit g s)

/-- WRITE_ACCEPTED (R216): the n-th access that a gang has issued is performed, if no order keeps it back. -/
def execWriteAccepted (g n : Nat) (s : State) : Out := .next (performNth s g n)

end Sys2Proof.Machine
end

