-- ==== Sys2Proof/Machine/Counter.lean ====
section
/-! DEFINITION. Counters: outstanding work, contributions, block counts, performance counters and samples (R330 to R346). -/

namespace Sys2Proof.Machine

/-- WAITC (R333). -/
def execWaitc (k : BitVec 2) (t : BitVec 4) (s : State) : Out :=
  issue (.waitc k t) (fun e s =>
    if e.g.kcOf k.toNat ≤ t.toNat then finish e e.g s
    else stopRuns (s.setGang e.id (e.g.setPark e.strand (.waitc k.toNat t.toNat))) e.id) s

/-- CNTRD (R334). -/
def execCntrd (d : BitVec 7) (x : BitVec 2) (s : State) : Out :=
  alu (.cntrd d x) (fxVal d fun e _ => word (e.g.kcOf x.toNat)) s

/-- The pointer a BBC counts at (R339). -/
def bbcPtr (p : W64) (n : Nat) : W64 := withOff p (ptrOff p + 8 * n)

/-- An increment combined in the CU's cache; a full cache of 64 entries performs its oldest (R339). -/
def bbcCombine (s : State) (id cu : Nat) (p : W64) : State :=
  let c := s.cu cu
  if c.bbc.any fun x => x.1 == id && x.2.1 == p then
    s.setCu cu { c with bbc := c.bbc.map fun x => if x.1 == id && x.2.1 == p then (x.1, x.2.1, x.2.2 + 1) else x }
  else
    let s1 := if c.bbc.length < 64 then s else match c.bbc with
      | [] => s
      | x :: _ => writeOutBbc s x.1
    s1.setCu cu { s1.cu cu with bbc := (s1.cu cu).bbc ++ [(id, p, 1)] }

/-- BBC (R339). -/
def execBbc (d : BitVec 7) (im : BitVec 16) (s : State) : Out :=
  issue (.bbc d im) (fun e s =>
    let p := bbcPtr (e.once d) im.toNat
    if e.strand &&& ~~~e.g.helpers = 0 then finish e (reads e (.bbc d im)) s
    else if ptrOff p % 8 != 0 then trapStrand e .align 0 s
    else match translate s e.g.cuKey e.g.ctx p .atomic false true 8 with
      | .error m => onceMiss e p m s
      | .ok ps =>
        if ps.any (placePoisoned s) then killGang s e.id .memue 0 false e.iss.pc e.strand
        else bbcCombine (finish e (reads e (.bbc d im)) s) e.id e.g.cuKey p) s

/-- A counter entered at its Rennet, in place of an earlier one of the line tile (R336); it goes to the overflow area when SRAM has no
room. -/
def declareCounter (s : State) (c : ContribCounter) : State :=
  let d := homeDie c.line
  let x := s.die d
  let rest := x.counters.filter fun y => y.line != c.line
  let out := decide (rennetCapacity ≤ rest.length)
  rennetTrim (s.setDie d { countOverflow x (bitNat out) with counters := rest ++ [{ c with overflow := out }] }) d

/-- The counter of a line tile removed (R336). -/
def removeCounter (s : State) (k : Key) : State :=
  let y := s.die (homeDie k)
  s.setDie (homeDie k) { y with counters := y.counters.filter fun c => c.line != k }

/-- A ready flag written with 1 by the Rennet of die d (R335). One whose tile is moving or not resident stays to be written; where its
pointer no longer translates at all, nothing is written. -/
def putFlag (d : Nat) (s : State) (f : Nat × W64) : State :=
  match translate s (48 * d) f.1 f.2 .write false true 8 with
  | .ok ps => performBytes s d none (ps.zip (w64Bytes 1))
  | .error (.fault _ _) => s
  | .error _ => s.setDie d { s.die d with flags := (s.die d).flags ++ [f] }

/-- The ready flag of a counter written with 1 (R335). -/
def writeFlag (s : State) (c : ContribCounter) : State := putFlag (homeDie c.line) s (c.ctx, c.flag)

/-- Ready flags that Rennets have still to write are tried again (R335). -/
def retryFlags (s : State) : State :=
  s.dies.foldl (fun t d => d.2.flags.foldl (putFlag d.1) (t.setDie d.1 { t.die d.1 with flags := [] })) s

/-- The Rennet of a line tile has room for one more counter (R213, R336). -/
def counterRoom (s : State) (k : Key) : Bool :=
  decide (((s.die (homeDie k)).counters.filter fun c => c.line != k).length < rennetCapacity + Config.overflowWords)

/-- A declaration: the flag word is written with 0, then the counter stands (R336). A line tile of another device is that device's to count;
one that has no byte in memory has no counter. -/
def declare (e : Env) (i : Instr) (line : Option Key) (n : Nat) (f : W64) (fs : List Place) (s0 : State) : State :=
  let s := drainPlaces s0 e.id e.strand fs
  let e1 := e.renew s
  if placesWait s e.id e.strand fs || !(line.map (counterRoom s)).getD true then holdAs e .drain s
  else
    let t := performBytes (finish e1 (reads e1 i) s) e.g.die (some e.g.cuKey) (fs.zip (w64Bytes 0))
    match line with
    | none => t
    | some k =>
      let c : ContribCounter := ⟨k, n, 0, f, e.g.ctx, n == 0, false, false⟩
      if n = 0 then writeFlag (declareCounter t c) c else declareCounter t c

/-- REDSET (R336). -/
def execRedset (d a b : BitVec 7) (x : BitVec 2) (s : State) : Out :=
  issue (.redset d a b x) (fun e s =>
    let i : Instr := .redset d a b x
    let p := e.once a
    let f := e.once b
    if e.strand &&& ~~~e.g.helpers = 0 then finish e (reads e i) s
    else if x = 0 && ptrOff f % 8 != 0 then trapStrand e .align 0 s
    else match translate s e.g.cuKey e.g.ctx p .read false false 1 with
      | .error m => onceMiss e p m s
      | .ok _ =>
        let line := lineBase s e.g.cuKey e.g.ctx p
        if x != 0 then finish e (reads e i) ((line.map (removeCounter s)).getD s)
        else match translate s e.g.cuKey e.g.ctx f .write false true 8 with
          | .error m => onceMiss e f m s
          | .ok fs => declare e i line (fld (e.once d) 31 0) f fs s) s

/-- A REDPOLL's access (R337). -/
def pollAccess (d a : BitVec 7) (x : BitVec 2) (e : Env) (t l : Nat) : Access :=
  { e.access .poll t l (e.rd a l) with
    size := 1, acquire := x == 1, scope := if x = 1 then 3 else 0, dests := destKeys e [d.toNat] l }

/-- REDPOLL (R337). -/
def execRedpoll (d a : BitVec 7) (x : BitVec 2) (s : State) : Out :=
  issue (.redpoll d a x) (memoryOp (.redpoll d a x) none (fun _ _ => [d.toNat]) false (pollAccess d a x)) s

/-- Counters of R341 that count what caches and waiting cost, which this model does not time: each has risen by any number of events since
it was last read. -/
def perfFree (n : Nat) : Bool := n == 3 || n == 4 || n == 8 || n == 9 || (32 ≤ n && n ≤ 37)

/-- A performance counter about to be read: one of untimed events has risen since, by less than 2⁴⁸. -/
def perfRise (s : State) (e : Env) (n : Nat) : State :=
  let r := s.draw
  let k := r.1.toNat % 2 ^ 48
  if !perfFree n then s else if n < 12 then r.2.onGang e.id fun g => g.count n k else countDie r.2 e.g.die n k

/-- The value of a performance counter (R341). -/
def perfValue (s : State) (g : Gang) (n : Nat) : W64 :=
  if n = 0 then word (s.die g.die).clock - getAt 0 g.perf 0
  else if n < 12 then getAt 0 g.perf n
  else getAt 0 (s.die g.die).perf n

/-- PERFRD (R342). -/
def execPerfrd (d : BitVec 7) (n : BitVec 9) (s : State) : Out :=
  issue (.perfrd d n) (fun e s =>
    if 32 ≤ n.toNat && !e.sys then trapStrand e .illop 0 s
    else
      let t := if n = 0 then (readClock s e.g.die).2 else perfRise s e n.toNat
      let e1 := e.renew t
      finish e1 (writeResult e1 d (fun _ => perfValue t e1.g n.toNat) (reads e1 (.perfrd d n))) t) s

/-- SAMPLE (R344). -/
def execSample (a : BitVec 7) (k : BitVec 1) (s : State) : Out :=
  issue (.sample a k) (fun e s =>
    if k = 1 then finish e { reads e (.sample a k) with armed := none } s
    else
      let p := e.once a
      if ptrOff p % 64 != 0 then trapStrand e .align 0 s
      else match translate s e.g.cuKey e.g.ctx p .write false false 64 with
        | .error m => onceMiss e p m s
        | .ok _ => finish e { reads e (.sample a k) with armed := some p } s) s

/-- A lane whose wait for a counter has ended goes on: past a WAITC, or to its continuation, but not while the transfer sequencer runs
(R151, R302, R333). -/
def wakeCounter (g : Gang) : Gang :=
  if g.sequencing then g else laneNumbers.foldl (fun g l => match g.parkOf l with
    | .waitc k t => if g.kcOf k ≤ t then (g.advance (oneLane l)).setPark (oneLane l) .ready else g
    | .yieldw k t c => if g.kcOf k ≤ t then (g.setPcs (oneLane l) fun _ => c).setPark (oneLane l) .ready else g
    | _ => g) g

/-- The oldest operation of a class leaves its counter, if it is complete (R332). -/
def reportOp (g : Gang) (k : Nat) : Gang :=
  match g.counted.find? fun c => c.cls == k with
  | none => g
  | some c =>
    if c.done then
      wakeCounter { g with
        counted := g.counted.erase c, kc := setAt 0 g.kc k (BitVec.ofNat 16 (g.kcOf k - 1)) }
    else g

/-- COUNTER_REPORT (R332). -/
def execCounterReport (g k : Nat) (s : State) : Out := .next (s.onGang g fun x => reportOp x k)

/-- Nothing of a counted operation remains: no access on its way, held, or on another device, and no contribution. -/
def opOver (s : State) (id : Nat) (g : Gang) (ticket : Nat) : Bool :=
  !(g.accesses.any fun x => x.acc.ticket == ticket && (x.held || x.bytes.any fun b => b.1.isRemote)) &&
    !(g.remotes.any fun r => r.ticket == ticket) && !(g.contribs.any fun c => c.ticket == ticket) &&
    !hasHeld s id g.cuKey fun h => h.acc.ticket == ticket

/-- A counted operation of which nothing remains is complete (R230, R243). -/
def endOp (s : State) (id ticket : Nat) : State :=
  s.onGang id fun g => if opOver s id g ticket then completeOp g ticket else g

/-- REMOTE_WRITE_ACK (R230). -/
def execRemoteWriteAck (g ticket : Nat) (s : State) : Out :=
  .next (match s.gang? g with
    | none => s
    | some x => match x.remotes.find? fun r => r.ticket == ticket with
      | none => s
      | some r =>
        r.accs.foldl (fun t a => sampleDone t g ticket a.lane a [.remote a.ptr])
          (endOp (s.setGang g { x with remotes := x.remotes.erase r }) g ticket))

/-- A contribution counted on the counter of the line tile at a location (R335). -/
def countAt (s : State) (line : Option Key) : State :=
  match line with
  | none => s
  | some k => match counterOf s k with
    | none => s
    | some c =>
      let set (c' : ContribCounter) := s.setDie (homeDie k) { s.die (homeDie k) with
        counters := (s.die (homeDie k)).counters.map fun y => if y.line = k then c' else y }
      if c.ready then set { c with excess := true }
      else
        let c' := { c with landed := c.landed + 1, ready := decide (c.landed + 1 = c.declared) }
        if c'.ready then writeFlag (set c') c' else set c'

/-- A contribution counted on its line tile's counter (R335). -/
def countContribution (s : State) (g : Gang) (a : Access) : State := countAt s (lineBase s g.cuKey g.ctx a.ptr)

/-- A lane leaves its instruction's contributions. -/
def dropContribution (g : Gang) (ticket : Nat) (a : Access) : Gang :=
  { g with contribs := (g.contribs.map fun (c : Contribution) =>
      if c.ticket = ticket then { c with accs := c.accs.erase a } else c).filter fun c => !c.accs.isEmpty }

/-- A lane leaves its instruction's contributions; the operation is complete when none is left, here, held, or on another device (R243). -/
def endContribution (s : State) (id ticket : Nat) (a : Access) : State :=
  endOp (s.onGang id fun g => dropContribution g ticket a) id ticket

/-- A lane's contribution is held in the replay buffer (R195, R341, R372). -/
def holdContribution (s : State) (g : Gang) (h : Held) : State :=
  (holdAccess s g.cuKey h).onGang h.gang fun g => (dropContribution g h.acc.ticket h.acc).count 7 1

/-- An earlier access of the gang comes before a contribution: an acquire, a common byte, or any where it releases (R257). -/
def beforeContribution (a : Access) (ps : List Place) (x : Waiting) : Bool :=
  decide (x.acc.ticket < a.ticket) && lane x.before a.lane &&
    (x.acc.acquire || a.release || if x.held then !a.scratch && fld x.acc.ptr 54 36 == fld a.ptr 54 36 else meets x.bytes ps)

/-- What a contribution comes after is performed: the gang's earlier accesses, and stores it has seen, as far as they are ordered before
it (R257, R260). -/
def settleBefore (s : State) (id : Nat) (g : Gang) (a : Access) (ps : List Place) : State :=
  let t := if a.release || (shownTo s g).any fun e => meets e.2.bytes ps then settleShown s id else s
  settleFor t id (beforeContribution a ps)

/-- Something that a contribution comes after is not yet performed, or, for a release, not yet acknowledged (R264). -/
def contributionWaits (s : State) (id : Nat) (a : Access) (ps : List Place) : Bool := match s.gang? id with
  | none => false
  | some g => g.accesses.any (beforeContribution a ps) || (a.release && g.remotes.any fun r => lane r.before a.lane)

/-- One lane's contribution, translated, performed as a RED and counted, once its turn has come (R243, R335). One on another device leaves
for it; later accesses do not wait for it (R258). -/
def performContribution (id ticket : Nat) (a : Access) (ps : List Place) (s0 : State) : State :=
  match s0.gang? id with
  | none => s0
  | some g =>
    let s := settleBefore s0 id g a ps
    if contributionWaits s id a ps then s
    else if ps.any Place.isRemote then
      chargeBudget (s.onGang id fun g => sendRemote (dropContribution g ticket a) ⟨0, a, [], 0, false, none, false, false, []⟩) g.die 7 1
    else if ps.all fun p => decide (p = .zero) then sampleDone (endContribution s id ticket a) id ticket a.lane a ps
    else
      let t := countContribution (rmwAccess s g a ps).1 g a
      sampleDone (endContribution t id ticket a) id ticket a.lane a ps

/-- One lane's contribution performed as a RED and counted (R243, R335); one that misses is held (R195, R372), or kills the gang. -/
def contribute (id ticket l : Nat) (s : State) : State :=
  match s.gang? id with
  | none => s
  | some g =>
    match (g.contribs.find? fun c => c.ticket == ticket).bind fun c => c.accs.find? fun a => a.lane == l with
    | none => s
    | some a =>
      let hold (j sub : Nat) (notres : Bool) : Held := ⟨id, a, g.ctx, ptrObj a.ptr, j, sub, notres, true, notres && !(s.die g.die).normal, true, []⟩
      match (if !a.scratch && isRemote s a.ptr then .ok [.remote a.ptr] else checkAccess s g a) with
      | .ok ps => performContribution id ticket a ps s
      | .error (.notres j sub) => holdContribution (noteMisses g [(a, .error (.notres j sub))] s) g (hold j sub true)
      | .error (.hold t) => holdContribution s g (hold (t.getD 0) 0 false)
      | .error m =>
        let c := m.code.getD (.memue, 0)
        killGang (markAllDamaged g.ctx [(a, .error m)] s) id c.1 c.2 false a.pc (oneLane l)

/-- REDC_CONTRIBUTION (R335). -/
def execRedcContribution (g ticket lane_ : Nat) (s : State) : Out := .next (contribute g ticket lane_ s)

end Sys2Proof.Machine
end

