-- ==== Sys2Proof/Machine/Matrix.lean ====
section
/-! DEFINITION. The matrix engine: the format word, the sums of R43 to R45, the rendezvous of four gangs, the accumulator
instructions and the matrix queue (R161 to R183). -/

namespace Sys2Proof.Machine

/-- K, element width and C/D type of a pair of A and B types (R165). -/
def formatClass (ta tb : Nat) : Option (Nat × Nat × Nat) :=
  let both (p : Nat → Bool) := p ta && p tb
  if both (· == 0) then some (4, 64, 0)
  else if both (· == 1) then some (8, 32, 1)
  else if both fun t => t == 2 || t == 3 then some (16, 16, 1)
  else if both fun t => t == 4 || t == 5 then some (32, 8, 1)
  else if both fun t => t == 6 || t == 7 then some (32, 8, 1)
  else if both fun t => t == 8 || t == 9 || t == 10 then some (64, 4, 1)
  else none

/-- Fields of the format word (R164). -/
def fwA (w : W64) : Nat := fld w 3 0
def fwB (w : W64) : Nat := fld w 7 4
def fwC (w : W64) : Nat := fld w 11 8
def fwGrp (w : W64) : Nat := fld w 13 12
def fwAsym (w : W64) (b : Bool) : Bool := w.getLsbD (if b then 17 else 16)
def fwBook (w : W64) (b : Bool) : Nat := bitNat (w.getLsbD (if b then 19 else 18))

/-- The class of a valid format word (R165). -/
def formatOf (w : W64) : Option (Nat × Nat × Nat) :=
  match formatClass (fwA w) (fwB w) with
  | none => none
  | some c =>
    let ints := (6 ≤ fwA w && fwA w ≤ 7) || (8 ≤ fwA w && fwA w ≤ 9 && 8 ≤ fwB w && fwB w ≤ 9)
    if fwC w == c.2.2 && (fwGrp w == 0 || ints) && (fwGrp w != 0 || (!fwAsym w false && !fwAsym w true)) &&
        fld w 63 20 == 0 && fld w 15 14 == 0 then some c else none

/-- An unsigned integer type (R164). -/
def fwUns (t : Nat) : Bool := t == 7 || t == 9

/-- The groups that an instruction's K range meets (R45). -/
def groupsMet (w : W64) (k : Nat) : Nat := if fwGrp w = 1 && k = 64 then 2 else 1

/-- Scale and zero point of a group entry (R35, R166). -/
def entryScale (p : W64) (g : Nat) : Val := valOf .fp16 (fld p (32 * g + 15) (32 * g))
def entryZero (t : Nat) (asym : Bool) (p : W64) (g : Nat) : Int :=
  if asym then intOf (fwUns t) 8 (fld p (32 * g + 23) (32 * g + 16)) else 0

/-- A zero point within the range of its side's type (R34). -/
def zeroOk (t : Nat) (z : Int) : Bool :=
  let n := if t = 6 || t = 7 then 8 else 4
  decide (intMin (fwUns t) n ≤ z) && decide (z ≤ intMax (fwUns t) n)

/-- The value of an element's bits under a type code (R32, R34, R36). An integer 0 counts as +0, and a negative integer has a minus sign
for the rule of signs of a zero product: DESIGN CHOICE (log 62). -/
def typeValue (t : Nat) (book : List (BitVec 16)) (b : Nat) : Val :=
  match t with
  | 0 => valOf .fp64 b | 1 => valOf .fp32 b | 2 => valOf .bf16 b | 3 => valOf .fp16 b | 4 => valOf .e4m3 b
  | 5 => valOf .e5m2 b | 6 => valInt (intOf false 8 b) | 7 => valInt (intOf true 8 b) | 8 => valInt (intOf false 4 b)
  | 9 => valInt (intOf true 4 b)
  | _ => valOf .bf16 (book.getD b 0).toNat

/-- The bits of the K elements of a dense row or column, in its four registers (R167). -/
def denseRow (regs : List W64) (k w : Nat) : List (Option Nat) :=
  (List.range k).map fun i => some (sub (regs.getD (i * w / 64) 0) (i % (64 / w)) w)

/-- Elements of a unit of sparsity (R171). -/
def unitSize (w : Nat) : Nat := if w = 4 then 2 else 1

/-- The two positions of group c in a row's metadata (R171). -/
def metaPos (m : W32) (c : Nat) : Nat × Nat := (bits m.toNat (4 * c + 1) (4 * c), bits m.toNat (4 * c + 3) (4 * c + 2))

/-- A row's metadata is valid (R171). -/
def metaOk (m : W32) (k w : Nat) : Bool :=
  (List.range (k / (4 * unitSize w))).all fun c => decide ((metaPos m c).1 < (metaPos m c).2)

/-- The bits of the K elements of a 2:4-sparse row; none for a unit that is not kept (R171). -/
def sparseRow (regs : List W64) (m : W32) (k w : Nat) : List (Option Nat) :=
  let u := unitSize w
  (List.range k).map fun i =>
    let p := metaPos m (i / u / 4)
    let kept : Option Nat := if i / u % 4 = p.1 then some (2 * (i / u / 4)) else if i / u % 4 = p.2 then some (2 * (i / u / 4) + 1)
      else none
    kept.map fun n => let j := n * u + i % u; sub (regs.getD (j * w / 64) 0) (j % (64 / w)) w

/-- A row's or column's element value: 0 where no unit is kept. -/
def slotValue (t : Nat) (book : List (BitVec 16)) : Option Nat → Val
  | some b => typeValue t book b
  | none => .fin false 0 1

/-- An integer element (R45). -/
def slotInt (t : Nat) : Option Nat → Int
  | some b => intOf (fwUns t) (if t = 6 || t = 7 then 8 else 4) b
  | none => 0

/-- R44: four fused steps. -/
def macFp64 (c : Nat) (xs : List (Val × Val)) : Nat :=
  xs.foldl (fun d x => (roundFloat .fp64 0 false false (fmaVal 0 x.1 x.2 (valOf .fp64 d)).1).1) c

/-- R43: the exact sum, rounded once. DESIGN CHOICE (log 62): the product of a negative integer and 0 counts as −0 in R43's rule of an
exact zero. -/
def macFp32 (c : Nat) (xs : List (Val × Val)) : Nat :=
  (roundFloat .fp32 0 false false (sumVals 0 (valOf .fp32 c :: xs.map fun x => mulVal x.1 x.2))).1

/-- The term of group g (R45). DESIGN CHOICE: a zero term has the exclusive or of the signs of its three factors (log 62), and an infinite
scale beside a zero scale makes the term a NaN whatever the partial sum (log 63). -/
def groupTerm (fmt : W64) (span : Nat) (pa pb : W64) (xs : List (Option Nat × Option Nat)) (g : Nat) : Val :=
  let za := entryZero (fwA fmt) (fwAsym fmt false) pa g
  let zb := entryZero (fwB fmt) (fwAsym fmt true) pb g
  let part := (((xs.drop (span * g)).take span).map fun x =>
    (slotInt (fwA fmt) x.1 - za) * (slotInt (fwB fmt) x.2 - zb)).foldl (· + ·) 0
  mulVal (mulVal (entryScale pa g) (entryScale pb g)) (valInt part)

/-- One element of a multiply (R169): from C, the row and column, and their parameter words. -/
def macElem (fmt : W64) (booksA booksB : SMap (BitVec 16)) (pa pb : W64) (row col : List (Option Nat)) (c : Nat) : Nat :=
  let va := fun x => slotValue (fwA fmt) (bookEntries booksA (fwBook fmt false)) x
  let vb := fun x => slotValue (fwB fmt) (bookEntries booksB (fwBook fmt true)) x
  if fwC fmt = 0 then macFp64 c ((row.zip col).map fun x => (va x.1, vb x.2))
  else if fwGrp fmt != 0 then
    let ng := groupsMet fmt row.length
    let ts := (List.range ng).map (groupTerm fmt (row.length / ng) pa pb (row.zip col))
    (roundFloat .fp32 0 false false (sumVals 0 (valOf .fp32 c :: ts))).1
  else macFp32 c ((row.zip col).map fun x => (va x.1, vb x.2))

/-- The key of word 0 of a tile (R161). -/
def tileBase (quarter tile : Nat) : Nat := 1024 * (16 * quarter + tile)

/-- Words written from a key on. -/
def putRange (m : SMap W32) (base : Nat) (ws : List W32) : SMap W32 :=
  m.filter (fun x => decide (x.1 < base)) ++
    ((List.range ws.length).zip ws).filterMap (fun x => if x.2 = 0 then none else some (base + x.1, x.2)) ++
    m.filter fun x => decide (base + ws.length ≤ x.1)

/-- A word of a tile. -/
def accWord (m : SMap W32) (k : Nat) : Nat := (getAt 0 m k).toNat

/-- Element (i, j) of the pair whose first tile begins at a key (R161). -/
def pairElem (m : SMap W32) (base i j : Nat) : Nat :=
  let k := base + 1024 * (j / 16) + 32 * i + 2 * (j % 16)
  accWord m k + 2 ^ 32 * accWord m (k + 1)

/-- The words of a pair of tiles whose element (i, j) is given. -/
def pairWords (f : Nat → Nat → Nat) : List W32 :=
  [0, 1].flatMap fun t => laneNumbers.flatMap fun i => (List.range 16).flatMap fun j =>
    let d := f i (16 * t + j)
    [word32 d, word32 (d / 2 ^ 32)]

/-- The words of a tile whose element (i, j) is given. -/
def tileWords (f : Nat → Nat → Nat) : List W32 := laneNumbers.flatMap fun i => laneNumbers.map fun j => word32 (f i j)

/-- Registers of lane l among those read four to a lane. -/
def quadRegs (ws : List W64) (l : Nat) : List W64 := (ws.drop (4 * l)).take 4

/-- The A rows of a multiply, dense or sparse. -/
def rowsOf (op : MatrixOp) (k w : Nat) : List (List (Option Nat)) :=
  laneNumbers.map fun i =>
    if op.sparse.isEmpty then denseRow (quadRegs op.a i) k w else sparseRow (quadRegs op.a i) (op.sparse.getD i 0) k w

/-- A multiply with the columns of participant m into the tile, or pair, that begins at a key (R169, R172). -/
def macTile (op : MatrixOp) (k w m base : Nat) (acc : SMap W32) : SMap W32 :=
  let rows := rowsOf op k w
  let cols := laneNumbers.map fun j => denseRow (quadRegs (op.b.getD m []) j) k w
  let d := fun (i j : Nat) (c : Nat) => macElem op.fmt op.booksA (op.booksB.getD m []) (op.pa.getD i 0) ((op.pb.getD m []).getD j 0)
    (rows.getD i []) (cols.getD j []) c
  putRange acc base (if fwC op.fmt = 0 then pairWords fun i j => d i j (pairElem acc base i j)
    else tileWords fun i j => d i j (accWord acc (base + 32 * i + j)))

/-- The first column of a chunk, and its elements (R177). -/
def chunkSize (m : W32) : Nat := 256 / modeW m

/-- The value of element e of a chunk of row i (R177). -/
def chunkElem (m : W32) (acc : SMap W32) (base sel i e : Nat) : Nat :=
  if modeEc m = 2 && modeEt m = 0 then
    let k := base + 32 * i + 2 * (4 * sel + e)
    accWord acc k + 2 ^ 32 * accWord acc (k + 1)
  else accWord acc (base + 32 * i + chunkSize m * sel + e)

/-- The format of the elements that ACCRD and ACCWR meet in a tile (R177). -/
def tileFormat (m : W32) : Format := if modeEc m = 2 && modeEt m = 0 then .fp64 else .fp32

/-- ACCRD's conversions of row i (R177). -/
def accrdRow (op : MatrixOp) (base i : Nat) (acc : SMap W32) : List (Nat × List Cause) :=
  (List.range (chunkSize op.mode)).map fun e =>
    convert op.mode (.float (tileFormat op.mode)) (modeType op.mode) (chunkElem op.mode acc base op.sel i e)

/-- The four registers that hold a list of elements of a width (R167). -/
def quadPack (w : Nat) (xs : List Nat) : List W64 :=
  (List.range 4).map fun r => pack w ((xs.drop (64 / w * r)).take (64 / w))

/-- Element e of a chunk as ACCWR writes it (R177): never flushed, rounded once. -/
def accwrElem (m : W32) (regs : List W64) (e : Nat) : Nat :=
  let w := modeW m
  let x := sub (regs.getD (e * w / 64) 0) (e % (64 / w)) w
  (roundFloat (tileFormat m) (modeRm m) (modeSat m) false ((modeType m).value false x)).1

/-- The words of a tile of which ACCWR writes a chunk of each active row (R177). -/
def accwrTile (op : MatrixOp) (base : Nat) (acc : SMap W32) : List W32 :=
  let n := chunkSize op.mode
  let wide := tileFormat op.mode == .fp64
  tileWords fun i j =>
    let e := if wide then j / 2 else j
    if lane op.lanes i && decide (n * op.sel ≤ e) && decide (e < n * op.sel + n) then
      let x := accwrElem op.mode (quadRegs op.a i) (e - n * op.sel)
      if wide && j % 2 == 1 then x / 2 ^ 32 else x
    else accWord acc (base + 32 * i + j)

/-- A product rounded to a format, RNE (R178). -/
def scaleElem (f : Format) (x y : Nat) : Nat := (roundFloat f 0 false false (mulVal (valOf f x) (valOf f y))).1

/-- ACCSC (R178). -/
def accscTile (op : MatrixOp) (base : Nat) (acc : SMap W32) : SMap W32 :=
  let k := fun i => (op.a.getD i 0).toNat
  putRange acc base (if op.sel = 1 then
      pairWords fun i j => let x := pairElem acc base i j; if lane op.lanes i then scaleElem .fp64 x (k i) else x
    else tileWords fun i j =>
      let x := accWord acc (base + 32 * i + j); if lane op.lanes i then scaleElem .fp32 x (k i % 2 ^ 32) else x)

/-- The terms that ACCMAX and ACCSUM reduce in row i (R179). -/
def rowTerms (op : MatrixOp) (base i : Nat) (acc : SMap W32) : List Val :=
  let f : Format := if op.sel % 2 = 1 then .fp64 else .fp32
  (laneNumbers.map fun j => valOf f (if op.sel % 2 = 1 then pairElem acc base i j else accWord acc (base + 32 * i + j))) ++
    if 2 ≤ op.sel then [valOf f ((op.a.getD i 0).toNat % 2 ^ f.width)] else []

/-- The reduction of row i (R179). -/
def reduceRow (op : MatrixOp) (base i : Nat) (acc : SMap W32) : W64 :=
  let f : Format := if op.sel % 2 = 1 then .fp64 else .fp32
  let ts := rowTerms op base i acc
  let v := if op.opcode = 0x1C9 then sumVals 0 ts else ts.foldl maxVal .nan
  word (roundFloat f 0 false false v).1

/-- Bytes of an element that ACCST and ACCLD move (R180). -/
def moveSize (sel : Nat) : Nat := if sel = 0 then 4 else 2

/-- The float format of ACCST and ACCLD in scratchpad (R180). -/
def moveFormat (sel : Nat) : Format := if sel = 1 then .bf16 else .fp16

/-- The bytes that ACCST writes (R180). -/
def accstBytes (sel base : Nat) (acc : SMap W32) : List Byte :=
  (List.range 1024).flatMap fun n =>
    let x := accWord acc (base + n)
    if sel = 0 then natBytes 4 x else natBytes 2 (roundFloat (moveFormat sel) 0 false false (valOf .fp32 x)).1

/-- The words that ACCLD writes (R180). -/
def accldWords (sel : Nat) (bs : List Byte) : List W32 :=
  (groupsOf (moveSize sel) 1024 bs).map fun b =>
    if sel = 0 then word32 (bytesNat b) else word32 (roundFloat .fp32 0 false false (valOf (moveFormat sel) (bytesNat b))).1

/-- The tiles of a block changed. -/
def setTiles (s : State) (blk : Nat) (f : SMap W32 → SMap W32) : State := s.onBlock blk fun b => { b with acc := f b.acc }

/-- A queued instruction that owes no register is complete (R162). -/
def matrixDone (s : State) (op : MatrixOp) : State := s.onGang op.gang fun g => completeOp g op.ticket

/-- A result for a destination key goes to that register, or to those that a transfer has put in its place (R78). -/
def MatrixOp.destsOf (op : MatrixOp) (x : Nat × W64) : List (Nat × W64) := match op.moved with
  | none => [x]
  | some ms => (ms.filter fun m => m.1 == x.1).map fun m => (m.2, x.2)

/-- The results that a queued instruction owes to registers of its gang; those of a killed gang are discarded (R162, R374). -/
def matrixOwe (s : State) (op : MatrixOp) (vs : List (Nat × W64)) : State :=
  s.onGang op.gang fun g =>
    let x := splitKeys (vs.flatMap op.destsOf)
    if g.killed then g else if vs.isEmpty then completeOp g op.ticket else owe ⟨op.ticket, x.1, x.2⟩ g

/-- The key of register v(dest + r) of lane l. -/
def MatrixOp.key (op : MatrixOp) (r l : Nat) : Nat := 32 * (op.wb + op.dest + r) + l

/-- ACCRD when the array reaches it (R177). -/
def runAccrd (op : MatrixOp) (base : Nat) (acc : SMap W32) (s : State) : State :=
  let rows := (lanesOf op.lanes).map fun i => (i, accrdRow op base i acc)
  let vs := rows.flatMap fun r => ((List.range 4).zip (quadPack (modeW op.mode) (r.2.map Prod.fst))).map fun x => (op.key x.1 r.1, x.2)
  logArith (matrixOwe s op vs) op.gang op.pc op.lanes op.mode (rows.flatMap fun r => r.2.flatMap Prod.snd)

/-- ACCST and ACCLD when the array reaches them, on path M (R180, R181). -/
def runMove (op : MatrixOp) (base : Nat) (acc : SMap W32) (g : Gang) (s : State) : State :=
  match spadPlaces s g op.off (1024 * moveSize op.sel) with
  | .error _ => matrixDone s op
  | .ok ps =>
    if op.opcode = 0x1CA then matrixDone (performBytes s g.die (some g.cuKey) (ps.zip (accstBytes op.sel base acc))) op
    else if ps.any (placePoisoned s) then killGang s op.gang .memue 1 false op.pc op.lanes
    else matrixDone (setTiles s op.block fun m => putRange m base (accldWords op.sel (ps.map (byteNow s)))) op

/-- A multiply when the array reaches it (R169, R172). -/
def runMac (op : MatrixOp) (base : Nat) (s : State) : State :=
  match formatOf op.fmt with
  | none => matrixDone s op
  | some c => matrixDone (setTiles s op.block fun m =>
      (List.range op.b.length).foldl (fun m n => macTile op c.1 c.2.1 n (base + 1024 * n) m) m) op

/-- A queued instruction performed by the array (R162). -/
def runMatrix (q : Nat) (op : MatrixOp) (s : State) : State :=
  let base := tileBase (q % 4) op.acc
  let acc := match s.block? op.block with
    | some b => b.acc
    | none => []
  let reduced := (lanesOf op.lanes).map fun i => (op.key 0 i, reduceRow op base i acc)
  match op.opcode with
  | 0x1C4 => matrixDone (setTiles s op.block fun m => putRange m base (List.replicate (1024 * 2 ^ op.sel) 0)) op
  | 0x1C5 => runAccrd op base acc s
  | 0x1C6 => matrixDone (setTiles s op.block fun m => putRange m base (accwrTile op base m)) op
  | 0x1C7 => matrixDone (setTiles s op.block (accscTile op base)) op
  | 0x1C8 => matrixOwe s op reduced
  | 0x1C9 => matrixOwe s op reduced
  | 0x1CA => match s.gang? op.gang with
    | some g => runMove op base acc g s
    | none => s
  | 0x1CB => match s.gang? op.gang with
    | some g => runMove op base acc g s
    | none => s
  | _ => runMac op base s

/-- The array performs the oldest instruction of a quarter's queue. -/
def matrixStep (s : State) (q : Nat) : State :=
  match (s.quarter q).matrix with
  | [] => s
  | op :: rest => runMatrix q op (s.setQuarter q { s.quarter q with matrix := rest })

/-- MATRIX_EXECUTE (R162). -/
def execMatrixExecute (q : Nat) (s : State) : Out := .next (matrixStep s q)

/-- The queue of a quarter is full, or the gang's KC1 is (R162, R332). -/
def matrixFull (s : State) (g : Gang) : Bool := decide (16 ≤ (s.quarter g.qKey).matrix.length) || decide (g.kcOf 1 = 65535)

/-- A value read in every lane. -/
def laneWords (e : Env) (f : Nat) : List W64 := laneNumbers.map fun l => e.g.read f l

/-- What a gang reads of its registers for a queued instruction (R162). -/
def matrixOp (e : Env) (ticket opcode acc sel : Nat) (a : List W64) (dest : Nat) : MatrixOp :=
  ⟨e.id, e.g.block, ticket, opcode, acc, sel, e.active, 0, [], [], [], a, [], [], [], e.mode, dest, e.g.wb, 0, e.iss.pc, none⟩

/-- A queued instruction accepted (R162): it joins the quarter's queue, and KC1 counts it. -/
def acceptMatrix (op : MatrixOp) (g : Gang) (e : Env) (s : State) : State :=
  let q := s.quarter g.qKey
  (s.setQuarter g.qKey { q with matrix := q.matrix ++ [op] }).setGang e.id (((countOp g 1 op.ticket).count 11 1).advance e.strand)

/-- An accumulator instruction: accepted, or held at a full queue. -/
def queueAcc (i : Instr) (op : Env → Nat → MatrixOp) (fields : List Nat) (e : Env) (s : State) : State :=
  if matrixFull s e.g then stallQueue s
  else
    let n := s.nextName
    acceptMatrix (op e n.1) (markAll fields n.1 e.active (reads e i)) e n.2

/-- The registers of a group in every lane. -/
def groupWords (e : Env) (a : BitVec 5) : List W64 :=
  laneNumbers.flatMap fun l => (List.range 4).map fun r => e.g.read (4 * a.toNat + r) l

/-- ACCZ (R176). -/
def execAccz (c : BitVec 4) (sf : BitVec 2) (s : State) : Out :=
  issue (.accz c sf) (queueAcc (.accz c sf) (fun e t => matrixOp e t 0x1C4 c.toNat sf.toNat [] 0) []) s

/-- ACCRD (R177). -/
def execAccrd (c : BitVec 4) (a : BitVec 5) (sf : BitVec 2) (s : State) : Out :=
  issue (.accrd c a sf) (queueAcc (.accrd c a sf) (fun e t => matrixOp e t 0x1C5 c.toNat sf.toNat [] (4 * a.toNat))
    ((List.range 4).map fun r => 4 * a.toNat + r)) s

/-- ACCWR (R177). -/
def execAccwr (c : BitVec 4) (a : BitVec 5) (sf : BitVec 2) (s : State) : Out :=
  issue (.accwr c a sf) (queueAcc (.accwr c a sf) (fun e t => matrixOp e t 0x1C6 c.toNat sf.toNat (groupWords e a) 0) []) s

/-- ACCSC (R178). -/
def execAccsc (c : BitVec 4) (a : BitVec 5) (sf : BitVec 2) (s : State) : Out :=
  issue (.accsc c a sf) (queueAcc (.accsc c a sf)
    (fun e t => matrixOp e t 0x1C7 c.toNat sf.toNat (laneWords e (4 * a.toNat)) 0) []) s

/-- ACCMAX (R179). -/
def execAccmax (c : BitVec 4) (a : BitVec 5) (sf : BitVec 2) (s : State) : Out :=
  issue (.accmax c a sf) (queueAcc (.accmax c a sf)
    (fun e t => matrixOp e t 0x1C8 c.toNat sf.toNat (laneWords e (4 * a.toNat)) (4 * a.toNat)) [4 * a.toNat]) s

/-- ACCSUM (R179). -/
def execAccsum (c : BitVec 4) (a : BitVec 5) (sf : BitVec 2) (s : State) : Out :=
  issue (.accsum c a sf) (queueAcc (.accsum c a sf)
    (fun e t => matrixOp e t 0x1C9 c.toNat sf.toNat (laneWords e (4 * a.toNat)) (4 * a.toNat)) [4 * a.toNat]) s

/-- ACCST and ACCLD at issue: the offset is checked, and the move queued (R180). -/
def queueMove (i : Instr) (opcode : Nat) (c : BitVec 4) (f : BitVec 7) (sf : BitVec 2) (e : Env) (s : State) : State :=
  let x := fld (e.once f) 31 0
  if x % 256 != 0 then trapStrand e .align 0 s
  else match spadPlaces s e.g x (1024 * moveSize sf.toNat) with
    | .error _ => trapStrand e .oos 2 s
    | .ok _ => queueAcc i (fun e t =>
        { matrixOp e t opcode c.toNat sf.toNat [] 0 with off := x, lanes := e.strand }) [] e s

/-- ACCST (R180). -/
def execAccst (c : BitVec 4) (f : BitVec 7) (sf : BitVec 2) (s : State) : Out :=
  issue (.accst c f sf) (queueMove (.accst c f sf) 0x1CA c f sf) s

/-- ACCLD (R180). -/
def execAccld (c : BitVec 4) (f : BitVec 7) (sf : BitVec 2) (s : State) : Out :=
  issue (.accld c f sf) (queueMove (.accld c f sf) 0x1CB c f sf) s

/-- A multiply's fields. -/
structure MacFields where
  opcode : Nat
  acc : Nat
  a : BitVec 5
  b : BitVec 5
  f : BitVec 7
  sel : Nat
  quad : Bool
  sparse : Bool

/-- The metadata of row i (R171). -/
def rowMeta (x : MacFields) (e : Env) (i : Nat) : W32 :=
  let half (l : Nat) (up : Bool) : W32 := ((e.g.read (x.f.toNat + 3) l).extractLsb' (if up then 32 else 0) 32)
  match x.sel with
  | 0 => half i false
  | 1 => half i true
  | 2 => half (i / 2) (i % 2 == 1)
  | _ => half (16 + i / 2) (i % 2 == 1)

/-- A class that the instruction allows (R169, R172). -/
def classAllowed (x : MacFields) (w : Nat) : Bool :=
  if x.sparse then decide (w ≤ 16) else if x.quad then decide (w ≤ 32) else true

/-- Some zero point of lane l lies outside its side's range (R168). -/
def badZero (x : MacFields) (e : Env) (w : W64) (k l : Nat) : Bool :=
  fwGrp w != 0 && (List.range (groupsMet w k)).any fun g =>
    !zeroOk (fwA w) (entryZero (fwA w) (fwAsym w false) (e.g.read (x.f.toNat + 1) l) g) ||
    !zeroOk (fwB w) (entryZero (fwB w) (fwAsym w true) (e.g.read (x.f.toNat + 2) l) g)

/-- Steps 2 to 6 of R168: the first condition that holds. -/
def macCheck (x : MacFields) (e : Env) : Option (Code × Nat × Mask) :=
  let bad := ~~~(e.active &&& ~~~e.g.halted)
  let w := e.g.read x.f.toNat 0
  let differ := maskOf fun l => e.g.read x.f.toNat l != w
  if bad != 0 then some (.conv, 0, bad)
  else if differ != 0 then some (.fmtdiv, 0, differ)
  else match formatOf w with
    | none => some (.fmtdiv, 1, e.strand)
    | some c =>
      if !classAllowed x c.2.1 then some (.fmtdiv, 1, e.strand)
      else if c.2.2 = 0 && (x.acc % 2 == 1 || decide (e.tiles ≤ x.acc + 1)) then some (.fmtdiv, 2, e.strand)
      else
        let wrong := maskOf fun l => badZero x e w c.1 l || (x.sparse && !metaOk (rowMeta x e l) c.1 c.2.1)
        if wrong != 0 then some (.fmtdiv, 3, wrong) else none

/-- The queued multiply of one participant, with the B operands of every participant (R172). -/
def macOp (x : MacFields) (e : Env) (ticket : Nat) (parts : List (MacFields × Env)) : MatrixOp :=
  { matrixOp e ticket x.opcode x.acc x.sel (groupWords e x.a) 0 with
    fmt := e.g.read x.f.toNat 0
    pa := laneWords e (x.f.toNat + 1)
    pb := parts.map fun p => laneWords p.2 (p.1.f.toNat + 2)
    sparse := if x.sparse then laneNumbers.map (rowMeta x e) else []
    b := parts.map fun p => groupWords p.2 p.1.b
    booksA := e.g.books
    booksB := parts.map fun p => p.2.g.books }

/-- MMA and MMAS after the shared checks (R168, R169). -/
def macStep (i : Instr) (x : MacFields) (e : Env) (s : State) : State :=
  match macCheck x e with
  | some t => trapLanes e t.1 t.2.1 t.2.2 s
  | none => queueAcc i (fun e t => macOp x e t [(x, e)]) [] e s

/-- MMA (R169). -/
def execMma (c : BitVec 4) (a b : BitVec 5) (f : BitVec 7) (s : State) : Out :=
  issueMet (.mma c a b f) (macStep (.mma c a b f) ⟨0x1C0, c.toNat, a, b, f, 0, false, false⟩) s

/-- MMAS (R169, R171). -/
def execMmas (c : BitVec 4) (a b : BitVec 5) (f : BitVec 7) (sf : BitVec 2) (s : State) : Out :=
  issueMet (.mmas c a b f sf)
    (macStep (.mmas c a b f sf) ⟨0x1C1, c.toNat, a, b, f, sf.toNat, false, true⟩) s

/-- The fields of the multiply at which a participant is parked (R57). -/
def macFields (iss : Issue) : MacFields :=
  let w := iss.iword
  let op := bits w.toNat 31 23
  ⟨op, bits w.toNat 22 19, w.extractLsb' 14 5, w.extractLsb' 9 5, w.extractLsb' 2 7, bits w.toNat 1 0, true, op == 0x1C3⟩

/-- The instruction of a participant's fields. -/
def macInstr (x : MacFields) : Instr :=
  if x.sparse then .mmaqs (BitVec.ofNat 4 x.acc) x.a x.b x.f (BitVec.ofNat 2 x.sel)
  else .mmaq (BitVec.ofNat 4 x.acc) x.a x.b x.f (BitVec.ofNat 2 x.sel)

/-- A gang stands parked at a rendezvous and is not stopped there (R172, R173). -/
def atRendezvous (g : Gang) : Bool :=
  !g.debugStop && match g.rendezvous with
    | some iss => decide (g.parkOf (lowestLane iss.lanes) = .rendezvous)
    | none => false

/-- The four gangs of a rendezvous, in order; none for one that its block does not have (R172). -/
def quadOf (s : State) (g : Gang) : List (Option (Nat × Gang)) :=
  (List.range 4).map fun m => s.gangs.find? fun h =>
    h.2.block == g.block && h.2.special.gangId == g.special.gangId / 4 * 4 + m

/-- A participant that will never come (R172). -/
def absent (p : Option (Nat × Gang)) : Bool :=
  match p with
  | none => true
  | some h => h.2.killed || h.2.liveLanes == 0

/-- What a parked participant's instruction finds. -/
def partEnv (s : State) (p : Nat × Gang) (iss : Issue) : Env := ⟨p.1, iss, p.2, tilesFor s p.2, systemContext s p.2⟩

/-- A precise trap of every parked participant, and of the one that arrives (R172). -/
def quadTrap (e : Env) (c : Code) (d : Nat) (s : State) : State :=
  let s1 := (quadOf s e.g).foldl (fun s p => match p with
    | none => s
    | some h => match h.2.rendezvous with
      | some iss =>
        if h.1 != e.id && atRendezvous h.2 then
          takeTrap (s.onGang h.1 fun g => { g with rendezvous := none }) h.1 iss.lanes iss.pc c d iss.lanes
        else s
      | none => s) s
  trapStrand e c d (s1.onGang e.id fun g => { g with rendezvous := none })

/-- The four instructions accepted together (R172). -/
def acceptQuad (ps : List (MacFields × Env)) (s : State) : State :=
  ps.foldl (fun s p =>
    let n := s.nextName
    let g := { reads p.2 (macInstr p.1) with rendezvous := none }
    acceptMatrix (macOp p.1 p.2 n.1 ps) (g.setPark p.2.strand .ready) p.2 n.2) s

/-- MMAQ and MMAQS after the shared checks: steps 2 to 6, then the rendezvous (R168, R172). -/
def quadStep (x : MacFields) (e : Env) (s : State) : State :=
  match macCheck x e with
  | some t => trapLanes e t.1 t.2.1 t.2.2 s
  | none =>
    let qs := quadOf s e.g
    if qs.any absent then quadTrap e .conv 1 s
    else if qs.any fun p => match p with
        | some h => h.1 != e.id && !atRendezvous h.2
        | none => false then
      stopRuns (s.setGang e.id { e.g.setPark e.strand .rendezvous with rendezvous := some { e.iss with lanes := e.strand } }) e.id
    else
      let ps : List (MacFields × Env) := qs.filterMap fun p => match p with
        | some h => if h.1 = e.id then some (x, e) else h.2.rendezvous.map fun iss => (macFields iss, partEnv s h iss)
        | none => none
      if ps.any fun p => p.1.opcode != x.opcode then quadTrap e .conv 1 s
      else if ps.any fun p => p.1.sel != x.sel || p.2.g.read p.1.f.toNat 0 != e.g.read x.f.toNat 0 then quadTrap e .fmtdiv 4 s
      else if ps.any fun p => matrixFull s p.2.g then stallQueue s
      else acceptQuad ps s

/-- MMAQ (R172). -/
def execMmaq (c : BitVec 4) (a b : BitVec 5) (f : BitVec 7) (sf : BitVec 2) (s : State) : Out :=
  issueMet (.mmaq c a b f sf)
    (quadStep ⟨0x1C2, c.toNat, a, b, f, sf.toNat, true, false⟩) s

/-- MMAQS (R171, R172). -/
def execMmaqs (c : BitVec 4) (a b : BitVec 5) (f : BitVec 7) (sf : BitVec 2) (s : State) : Out :=
  issueMet (.mmaqs c a b f sf)
    (quadStep ⟨0x1C3, c.toNat, a, b, f, sf.toNat, true, true⟩) s

/-- The d group of lane l after MTR (R182). -/
def mtrQuad (e : Env) (a : BitVec 7) (l : Nat) : List W64 :=
  let w := modeW e.mode
  let n := 256 / w
  let base := n * (l / n)
  let j := l - base
  quadPack w ((List.range n).map fun k => sub (e.g.read (a.toNat + j * w / 64) (base + k)) (j % (64 / w)) w)

/-- MTR (R182). -/
def execMtr (d a : BitVec 7) (s : State) : Out :=
  issue (.mtr d a) (fun e s =>
    let g := (List.range 4).foldl (fun (g : Gang) r => g.write e.active (d.toNat + r) fun l => (mtrQuad e a l).getD r 0)
      (reads e (.mtr d a))
    finish e g s) s

end Sys2Proof.Machine
end

