-- ==== Sys2Proof/Machine/Micro.lean ====
section
/-! DEFINITION. Microprograms of the control store: parameter substitution, the checks made before one runs, and running it (R307,
R320). -/

namespace Sys2Proof.Machine

/-- An instruction that a microprogram may use with its register fields replaced; none for another opcode (R307). -/
def substituteRegs (f : BitVec 7 → BitVec 7) : Instr → Option Instr
  | .iadd d a b => some (.iadd (f d) (f a) (f b))
  | .isub d a b => some (.isub (f d) (f a) (f b))
  | .iadds d a b => some (.iadds (f d) (f a) (f b))
  | .isubs d a b => some (.isubs (f d) (f a) (f b))
  | .imul d a b => some (.imul (f d) (f a) (f b))
  | .imulh d a b => some (.imulh (f d) (f a) (f b))
  | .imac d a b => some (.imac (f d) (f a) (f b))
  | .idiv d a b => some (.idiv (f d) (f a) (f b))
  | .irem d a b => some (.irem (f d) (f a) (f b))
  | .imin d a b => some (.imin (f d) (f a) (f b))
  | .imax d a b => some (.imax (f d) (f a) (f b))
  | .iabs d a => some (.iabs (f d) (f a))
  | .ineg d a => some (.ineg (f d) (f a))
  | .and d a b => some (.and (f d) (f a) (f b))
  | .or d a b => some (.or (f d) (f a) (f b))
  | .xor d a b => some (.xor (f d) (f a) (f b))
  | .andn d a b => some (.andn (f d) (f a) (f b))
  | .not d a => some (.not (f d) (f a))
  | .shl d a b => some (.shl (f d) (f a) (f b))
  | .shr d a b => some (.shr (f d) (f a) (f b))
  | .sar d a b => some (.sar (f d) (f a) (f b))
  | .rotl d a b => some (.rotl (f d) (f a) (f b))
  | .bfx d a b x => some (.bfx (f d) (f a) (f b) x)
  | .bfi d a b => some (.bfi (f d) (f a) (f b))
  | .popc d a => some (.popc (f d) (f a))
  | .clz d a => some (.clz (f d) (f a))
  | .ctz d a => some (.ctz (f d) (f a))
  | .brev d a => some (.brev (f d) (f a))
  | .bytep d a b => some (.bytep (f d) (f a) (f b))
  | .sel d a b x => some (.sel (f d) (f a) (f b) x)
  | .mov d a => some (.mov (f d) (f a))
  | .lea d a b x => some (.lea (f d) (f a) (f b) x)
  | .icmp d a b c => some (.icmp d (f a) (f b) c)
  | .iaddi d im => some (.iaddi (f d) im)
  | .movi d im => some (.movi (f d) im)
  | .movk0 d im => some (.movk0 (f d) im)
  | .movk1 d im => some (.movk1 (f d) im)
  | .movk2 d im => some (.movk2 (f d) im)
  | .movk3 d im => some (.movk3 (f d) im)
  | .icmpi d a im c => some (.icmpi d (f a) im c)
  | .andi d im => some (.andi (f d) im)
  | .ori d im => some (.ori (f d) im)
  | .xori d im => some (.xori (f d) im)
  | .shli d a im => some (.shli (f d) (f a) im)
  | .shri d a im => some (.shri (f d) (f a) im)
  | .sari d a im => some (.sari (f d) (f a) im)
  | .imuli d im => some (.imuli (f d) im)
  | .dot4 d a b x => some (.dot4 (f d) (f a) (f b) x)
  | .plop d a b t => some (.plop d a b t)
  | .p2v d a x => some (.p2v (f d) a x)
  | .v2p d a x => some (.v2p d (f a) x)
  | .vote d a x => some (.vote (if x = 2 then f d else d) a x)
  | .setmode im => some (.setmode im)
  | .setmodeh im => some (.setmodeh im)
  | .getmode d => some (.getmode (f d))
  | .fadd d a b => some (.fadd (f d) (f a) (f b))
  | .fsub d a b => some (.fsub (f d) (f a) (f b))
  | .fmul d a b => some (.fmul (f d) (f a) (f b))
  | .fma d a b => some (.fma (f d) (f a) (f b))
  | .fms d a b => some (.fms (f d) (f a) (f b))
  | .fnma d a b => some (.fnma (f d) (f a) (f b))
  | .fmin d a b => some (.fmin (f d) (f a) (f b))
  | .fmax d a b => some (.fmax (f d) (f a) (f b))
  | .fabs d a => some (.fabs (f d) (f a))
  | .fneg d a => some (.fneg (f d) (f a))
  | .fcmp d a b c => some (.fcmp d (f a) (f b) c)
  | .fclass d a => some (.fclass (f d) (f a))
  | .fdiv d a b => some (.fdiv (f d) (f a) (f b))
  | .fsqrt d a => some (.fsqrt (f d) (f a))
  | .fscale d a b => some (.fscale (f d) (f a) (f b))
  | .rnd d a => some (.rnd (f d) (f a))
  | .frcp d a => some (.frcp (f d) (f a))
  | .frsq d a => some (.frsq (f d) (f a))
  | .fexp2 d a => some (.fexp2 (f d) (f a))
  | .flog2 d a => some (.flog2 (f d) (f a))
  | .fsinpi d a => some (.fsinpi (f d) (f a))
  | .fcospi d a => some (.fcospi (f d) (f a))
  | .ftanh d a => some (.ftanh (f d) (f a))
  | .cvt d a k t sf => some (.cvt (f d) (f a) k t sf)
  | .cvtg d a b x => some (.cvtg (f d) (f a) (f b) x)
  | .cbenc d a x => some (.cbenc (f d) (f a) x)
  | .cbdec d a x => some (.cbdec (f d) (f a) x)
  | _ => none

/-- The register fields of an instruction of a microprogram (R307). -/
def microRegs : Instr → List (BitVec 7)
  | .iadd d a b => [d, a, b]
  | .isub d a b => [d, a, b]
  | .iadds d a b => [d, a, b]
  | .isubs d a b => [d, a, b]
  | .imul d a b => [d, a, b]
  | .imulh d a b => [d, a, b]
  | .imac d a b => [d, a, b]
  | .idiv d a b => [d, a, b]
  | .irem d a b => [d, a, b]
  | .imin d a b => [d, a, b]
  | .imax d a b => [d, a, b]
  | .iabs d a => [d, a]
  | .ineg d a => [d, a]
  | .and d a b => [d, a, b]
  | .or d a b => [d, a, b]
  | .xor d a b => [d, a, b]
  | .andn d a b => [d, a, b]
  | .not d a => [d, a]
  | .shl d a b => [d, a, b]
  | .shr d a b => [d, a, b]
  | .sar d a b => [d, a, b]
  | .rotl d a b => [d, a, b]
  | .bfx d a b _ => [d, a, b]
  | .bfi d a b => [d, a, b]
  | .popc d a => [d, a]
  | .clz d a => [d, a]
  | .ctz d a => [d, a]
  | .brev d a => [d, a]
  | .bytep d a b => [d, a, b]
  | .sel d a b _ => [d, a, b]
  | .mov d a => [d, a]
  | .lea d a b _ => [d, a, b]
  | .icmp _ a b _ => [a, b]
  | .iaddi d _ => [d]
  | .movi d _ => [d]
  | .movk0 d _ => [d]
  | .movk1 d _ => [d]
  | .movk2 d _ => [d]
  | .movk3 d _ => [d]
  | .icmpi _ a _ _ => [a]
  | .andi d _ => [d]
  | .ori d _ => [d]
  | .xori d _ => [d]
  | .shli d a _ => [d, a]
  | .shri d a _ => [d, a]
  | .sari d a _ => [d, a]
  | .imuli d _ => [d]
  | .dot4 d a b _ => [d, a, b]
  | .plop _ _ _ _ => []
  | .p2v d _ _ => [d]
  | .v2p _ a _ => [a]
  | .vote d _ x => if x = 2 then [d] else []
  | .setmode _ => []
  | .setmodeh _ => []
  | .getmode d => [d]
  | .fadd d a b => [d, a, b]
  | .fsub d a b => [d, a, b]
  | .fmul d a b => [d, a, b]
  | .fma d a b => [d, a, b]
  | .fms d a b => [d, a, b]
  | .fnma d a b => [d, a, b]
  | .fmin d a b => [d, a, b]
  | .fmax d a b => [d, a, b]
  | .fabs d a => [d, a]
  | .fneg d a => [d, a]
  | .fcmp _ a b _ => [a, b]
  | .fclass d a => [d, a]
  | .fdiv d a b => [d, a, b]
  | .fsqrt d a => [d, a]
  | .fscale d a b => [d, a, b]
  | .rnd d a => [d, a]
  | .frcp d a => [d, a]
  | .frsq d a => [d, a]
  | .fexp2 d a => [d, a]
  | .flog2 d a => [d, a]
  | .fsinpi d a => [d, a]
  | .fcospi d a => [d, a]
  | .ftanh d a => [d, a]
  | .cvt d a _ _ _ => [d, a]
  | .cvtg d a b _ => [d, a, b]
  | .cbenc d a _ => [d, a]
  | .cbdec d a _ => [d, a]
  | _ => []

/-- The effect of an instruction of a microprogram; a special function's result is full at once (R307, R320). -/
def microFx : Instr → Option Fx
  | .iadd d a b => some (fxIadd d a b)
  | .isub d a b => some (fxIsub d a b)
  | .iadds d a b => some (fxIadds d a b)
  | .isubs d a b => some (fxIsubs d a b)
  | .imul d a b => some (fxImul d a b)
  | .imulh d a b => some (fxImulh d a b)
  | .imac d a b => some (fxImac d a b)
  | .idiv d a b => some (fxIdiv d a b)
  | .irem d a b => some (fxIrem d a b)
  | .imin d a b => some (fxImin d a b)
  | .imax d a b => some (fxImax d a b)
  | .iabs d a => some (fxIabs d a)
  | .ineg d a => some (fxIneg d a)
  | .and d a b => some (fxAnd d a b)
  | .or d a b => some (fxOr d a b)
  | .xor d a b => some (fxXor d a b)
  | .andn d a b => some (fxAndn d a b)
  | .not d a => some (fxNot d a)
  | .shl d a b => some (fxShl d a b)
  | .shr d a b => some (fxShr d a b)
  | .sar d a b => some (fxSar d a b)
  | .rotl d a b => some (fxRotl d a b)
  | .bfx d a b x => some (fxBfx d a b x)
  | .bfi d a b => some (fxBfi d a b)
  | .popc d a => some (fxPopc d a)
  | .clz d a => some (fxClz d a)
  | .ctz d a => some (fxCtz d a)
  | .brev d a => some (fxBrev d a)
  | .bytep d a b => some (fxBytep d a b)
  | .sel d a b x => some (fxSel d a b x)
  | .mov d a => some (fxMov d a)
  | .lea d a b x => some (fxLea d a b x)
  | .icmp d a b c => some (fxIcmp d a b c)
  | .iaddi d im => some (fxIaddi d im)
  | .movi d im => some (fxMovi d im)
  | .movk0 d im => some (fxMovk0 d im)
  | .movk1 d im => some (fxMovk1 d im)
  | .movk2 d im => some (fxMovk2 d im)
  | .movk3 d im => some (fxMovk3 d im)
  | .icmpi d a im c => some (fxIcmpi d a im c)
  | .andi d im => some (fxAndi d im)
  | .ori d im => some (fxOri d im)
  | .xori d im => some (fxXori d im)
  | .shli d a im => some (fxShli d a im)
  | .shri d a im => some (fxShri d a im)
  | .sari d a im => some (fxSari d a im)
  | .imuli d im => some (fxImuli d im)
  | .dot4 d a b x => some (fxDot4 d a b x)
  | .plop d a b t => some (fxPlop d a b t)
  | .p2v d a x => some (fxP2v d a x)
  | .v2p d a x => some (fxV2p d a x)
  | .vote d a x => some (fxVote d a x)
  | .setmode im => some (fxSetmode im)
  | .setmodeh im => some (fxSetmodeh im)
  | .getmode d => some (fxGetmode d)
  | .fadd d a b => some (fxFadd d a b)
  | .fsub d a b => some (fxFsub d a b)
  | .fmul d a b => some (fxFmul d a b)
  | .fma d a b => some (fxFma d a b)
  | .fms d a b => some (fxFms d a b)
  | .fnma d a b => some (fxFnma d a b)
  | .fmin d a b => some (fxFmin d a b)
  | .fmax d a b => some (fxFmax d a b)
  | .fabs d a => some (fxFabs d a)
  | .fneg d a => some (fxFneg d a)
  | .fcmp d a b c => some (fxFcmp d a b c)
  | .fclass d a => some (fxFclass d a)
  | .fdiv d a b => some (fxFdiv d a b)
  | .fsqrt d a => some (fxFsqrt d a)
  | .fscale d a b => some (fxFscale d a b)
  | .rnd d a => some (fxRnd d a)
  | .frcp d a => some (fxSpecial .rcp d a)
  | .frsq d a => some (fxSpecial .rsq d a)
  | .fexp2 d a => some (fxSpecial .exp2 d a)
  | .flog2 d a => some (fxSpecial .log2 d a)
  | .fsinpi d a => some (fxSpecial .sinpi d a)
  | .fcospi d a => some (fxSpecial .cospi d a)
  | .ftanh d a => some (fxSpecial .tanh d a)
  | .cvt d a k t sf => some (fxCvt d a k t sf)
  | .cvtg d a b x => some (fxCvtg d a b x)
  | .cbenc d a x => some (fxCbenc d a x)
  | .cbdec d a x => some (fxCbdec d a x)
  | _ => none

/-- The special functions, whose results may outlive a microprogram. -/
def microSpecial : Instr → Option (SpecialOp × BitVec 7 × BitVec 7)
  | .frcp d a => some (.rcp, d, a)
  | .frsq d a => some (.rsq, d, a)
  | .fexp2 d a => some (.exp2, d, a)
  | .flog2 d a => some (.log2, d, a)
  | .fsinpi d a => some (.sinpi, d, a)
  | .fcospi d a => some (.cospi, d, a)
  | .ftanh d a => some (.tanh, d, a)
  | _ => none

/-- An instruction of a microprogram: its control byte, word and decoding. -/
structure MicroOp where
  ctl : Byte
  word : W32
  i : Instr
  deriving DecidableEq, Repr

/-- The length field of a slot's head (R307). -/
def slotLength (ws : List W64) : Nat := fld (ws.getD 0 0) 4 0

/-- The control bytes and words of the first instructions of a slot (R307). -/
def slotCode (ws : List W64) : List (Byte × W32) :=
  let bs := wordsBytes ws
  (List.range (min (slotLength ws) 24)).map fun i =>
    (bs.getD (8 + i) 0, word32 (bytesNat ((bs.drop (32 + 4 * i)).take 4)))

/-- A register field of a microprogram under a binding of its four parameters (R307). -/
def bindParam (params : List Nat) (f : BitVec 7) : BitVec 7 :=
  if 108 ≤ f.toNat && f.toNat < 112 then BitVec.ofNat 7 (params.getD (f.toNat - 108) 0) else f

/-- A slot's instructions decoded after substitution; none where one has an opcode or a field that is refused, or where a recipe names
a v register that is no parameter (R307, R320). -/
def microDecode (params : List Nat) (recipe : Bool) (ws : List W64) : Option (List MicroOp) :=
  if 24 < slotLength ws || fld (ws.getD 0 0) 63 5 != 0 then none
  else (slotCode ws).mapM fun c => match decode c.2 with
    | .error _ => none
    | .ok i =>
      if recipe && (microRegs i).any fun f => decide (f.toNat < 108) then none
      else (substituteRegs (bindParam params) i).map fun j => ⟨c.1 &&& 0xFE, c.2, j⟩

/-- MODE with no guard (R307). -/
def unguarded (m : W32) : W32 := setFld m 5 0 31

/-- What an instruction of a microprogram finds. -/
def microEnv (e : Env) (g : Gang) (m : MicroOp) : Env := { e with g := g, iss := { e.iss with ctl := m.ctl, iword := m.word } }

/-- MODE after an instruction of a microprogram. -/
def microMode (mode : W32) : Instr → W32
  | .setmode im => setFld mode 15 0 im.toNat
  | .setmodeh im => setFld mode 31 16 im.toNat
  | _ => mode

/-- Every check that any instruction could fail, each under MODE as it will stand there (R320). -/
def microOk (e : Env) (recipe : Bool) : W32 → List MicroOp → Bool
  | _, [] => true
  | mode, m :: rest =>
    let g := { e.g with mode := if recipe then unguarded mode else mode }
    fieldsOk (microEnv e g m) (operands (microEnv e g m) m.i) && microOk e recipe (microMode mode m.i) rest

/-- A microprogram under way: the gang, the next ticket, results not yet in their registers, and the conditions met, with the lanes
and MODE they were met under. -/
structure MicroRun where
  g : Gang
  ticket : Nat
  owed : List Pending
  met : List (Mask × W32 × List Cause)

/-- The results owed within a microprogram return (R77). -/
def MicroRun.settleOwed (r : MicroRun) : MicroRun := { r with g := r.owed.foldl returnResult r.g, owed := [] }

/-- One instruction of a microprogram whose sources are full. -/
def microDo (e : Env) (m : MicroOp) (r : MicroRun) : MicroRun :=
  let ei := microEnv e r.g m
  match microSpecial m.i with
  | some (op, d, a) =>
    let lanes := resultLanes ei d
    let g := (reads ei m.i).markEmpty lanes d.toNat r.ticket
    ⟨g, r.ticket + 1, if lanes = 0 then r.owed else r.owed ++ [pendingFor ei r.ticket lanes d.toNat fun l => (specialLane op a ei l).1],
      r.met ++ [(ei.active, ei.mode, causesOf lanes (specialLane op a ei))]⟩
  | none => match microFx m.i with
    | some fx =>
      let x := fx ei (reads ei m.i)
      ⟨x.1, r.ticket + 1, r.owed, r.met ++ [(ei.active, ei.mode, x.2)]⟩
    | none => r

/-- One instruction of a microprogram; none where a source stays empty (R320). -/
def microStep (e : Env) (recipe : Bool) (r0 : MicroRun) (m : MicroOp) : Option MicroRun :=
  let r := if recipe then { r0 with g := { r0.g with mode := unguarded r0.g.mode } } else r0
  let empty (r : MicroRun) := let o := operands (microEnv e r.g m) m.i; o.reads.any (sourceEmpty (microEnv e r.g m) o)
  if empty r then
    let r' := r.settleOwed
    if empty r' then none else some (microDo e m r')
  else some (microDo e m r)

/-- A microprogram run to its end; none where it must wait for an empty source. -/
def microRun (e : Env) (recipe : Bool) : List MicroOp → MicroRun → Option MicroRun
  | [], r => some r
  | m :: rest, r => match microStep e recipe r m with
    | none => none
    | some r' => microRun e recipe rest r'

/-- A context's control-store object as memory holds it; a slot that cannot be read has length 0. -/
def slotInMemory (s : State) (cu ctx k : Nat) : List W64 :=
  match s.ctx? ctx with
  | none => []
  | some x => match readObject s cu ctx (x.cstore + word (128 * k)) 128 with
    | .ok bs => bytesWords 16 bs
    | .error _ => []

/-- The CU's copy of a slot (R320): the copy it holds, or what memory holds now, which then replaces the copy; the choice is free
where the two differ. -/
def slotOf (s : State) (cu ctx k : Nat) : List W64 × State :=
  let m := slotInMemory s cu ctx k
  match (s.cu cu).micro.find? fun x => x.1 == ctx && x.2.1 == k with
  | some c =>
    if c.2.2 = m then (m, s)
    else
      let r := s.draw
      if r.1.getLsbD 0 then (c.2.2, r.2)
      else (m, r.2.setCu cu { r.2.cu cu with micro := (ctx, k, m) :: ((r.2.cu cu).micro.filter fun x => !(x.1 == ctx && x.2.1 == k)) })
  | none =>
    if (find s.cus cu).isNone then (m, s) else (m, s.setCu cu { s.cu cu with micro := (ctx, k, m) :: (s.cu cu).micro })

/-- The ARITH records of a microprogram, with the MCALL's PC (R320). -/
def microLog (e : Env) (met : List (Mask × W32 × List Cause)) (s : State) : State :=
  met.foldl (fun s x => logArith s e.id e.iss.pc x.1 x.2.1 x.2.2) s

/-- MCALL (R320). -/
def execMcall (d : BitVec 7) (k : BitVec 8) (s : State) : Out :=
  issue (.mcall d k) (fun e s =>
    let c := slotOf s e.g.cuKey e.g.ctx k.toNat
    match microDecode ((List.range 4).map fun j => d.toNat + j) false c.1 with
    | none => trapStrand e .illop 0 c.2
    | some ops =>
      if !microOk e false e.mode ops then trapStrand e .illop 0 c.2
      else match microRun e false ops ⟨e.g, s.fresh, [], []⟩ with
        | none => stallQueue c.2
        | some r => microLog e r.met (finish e { r.g with pending := r.g.pending ++ r.owed }
            { c.2 with fresh := s.fresh + ops.length })) s

/-- An opcode that a microprogram may use (R307). -/
def microOpcode (o : Nat) : Bool := o ≤ 0x02F || (0x040 ≤ o && o ≤ 0x046) || (0x080 ≤ o && o ≤ 0x0CA)

/-- U = 1 is allowed with an opcode of a microprogram (R54). -/
def microUOk (o : Nat) : Bool := o ≤ 0x03F || (0x080 ≤ o && o ≤ 0x0CA)

/-- The conditions under which MSTORE accepts an image (R321). -/
def slotAccepted (ws : List W64) : Bool :=
  let n := slotLength ws
  let bs := wordsBytes ws
  decide (n ≤ 24) && fld (ws.getD 0 0) 63 5 == 0 &&
  ((slotCode ws).all fun c =>
    let o := bits c.2.toNat 31 23
    microOpcode o && (!ctlU c.1 || microUOk o) && [Slot.a, .b, .d].all fun x => decide (hintOf c.1 x ≤ 1)) &&
  (((bs.drop (8 + n)).take (24 - n)).all fun b => b == 0) && ((bs.drop (32 + 4 * n)).all fun b => b == 0)

end Sys2Proof.Machine
end

