-- ==== Sys2Proof/Machine/Tables.lean ====
section
/-! DEFINITION. Instructions on tables: safe points and transfer requests, MSTORE, the Harp lanes' transducers, and codebooks (R308 to
R328). -/

namespace Sys2Proof.Machine

/-- Bytes that an instruction reads weakly, once for its gang: the gang's own accesses to them come first, and while those cannot be
performed there are none; what another device holds is free (R257, R322, R327). -/
def weakOnce (e : Env) (p : W64) (n : Nat) (s : State) : Except Miss (State × Option (List Byte)) :=
  match translate s e.g.cuKey e.g.ctx p .read false false n with
  | .error m => .error m
  | .ok ps =>
    let t := drainPlaces s e.id e.strand ps
    if placesWait t e.id e.strand ps then .ok (t, none)
    else if ps.any (placePoisoned t) then .error (.fault .memue 0)
    else if ps.any Place.isRemote then
      .ok ({ t with tick := t.tick + n }, some ((List.range n).map fun i => byteAt (Config.freeWord (t.tick + i)) 0))
    else
      let r := loadBytesOf t e.g (onceAccess e p) ps
      .ok (r.1, some r.2)

/-- An instruction that reads bytes weakly, once for its gang: what it does with them, while they can be read (R257, R372). -/
def withOnce (e : Env) (p : W64) (n : Nat) (f : List Byte → State → State) (s : State) : State :=
  match weakOnce e p n s with
  | .error m => onceMiss e p m s
  | .ok (t, none) => stallQueue t
  | .ok (t, some bs) => f bs t

/-- A predicate written in every non-exited lane (R321, R322). -/
def predAll (g : Gang) (d : Nat) (yes : Bool) : Gang := g.setPred g.liveLanes d (if yes then allLanes else 0)

/-- The words of a version table entry a request may enter: valid, within the count, and not the running version (R302, R317). -/
def enterable (s : State) (g : Gang) (v : Nat) : Option (List W64) :=
  match s.grid? g.grid with
  | none => none
  | some x => match versionEntry s g.cuKey g.ctx x.vtab v with
    | .ok (some w) => if verValid w && v != g.curv then some w else none
    | _ => none

/-- The directory of a map: safe-point number and offset of the map entry (R298). -/
def mapDirectory (s : State) (cu ctx : Nat) (map : W64) : List (Nat × Nat) :=
  if map = 0 then []
  else match objectWords s cu ctx map 1 with
    | .error _ => []
    | .ok h => match objectWords s cu ctx (map + 64) (fld (h.getD 0 0) 15 0) with
      | .error _ => []
      | .ok ws => ws.map fun w => (fld w 63 52, fld w 39 0)

/-- A safe point parks the strands of a gang whose transfer is pending (R302, R316). -/
def safePointParks (s : State) (g : Gang) (n : Nat) : Bool :=
  match enterable s g g.xver with
  | none => true
  | some w => (mapDirectory s g.cuKey g.ctx (verMap w)).any fun d => d.1 == n

/-- SAFEPT (R316). -/
def execSafept (n : BitVec 12) (s : State) : Out :=
  issue (.safept n) (fun e s =>
    if e.g.xferPend && safePointParks s e.g n.toNat then
      stopRuns (s.setGang e.id (e.g.setPark e.strand (.safept (s.die e.g.die).clock))) e.id
    else finish e e.g s) s

/-- A request for version v (R80, R317, R405): nothing while one is pending; NOVER for one that cannot be entered. -/
def requestTransfer (s : State) (g : Gang) (v : Nat) : Gang :=
  if g.xferPend then g
  else match enterable s g v with
    | none => { g with gstat := setFld g.gstat 15 8 1 }
    | some _ => { g with gstat := setFld (setBit g.gstat 2 true) 15 8 v }

/-- XFER (R317). -/
def execXfer (a : BitVec 7) (sf : BitVec 1) (v : BitVec 8) (s : State) : Out :=
  issue (.xfer a sf v) (fun e s =>
    let n := if sf = 1 then fld (e.once a) 7 0 else v.toNat
    finish e (requestTransfer s (reads e (.xfer a sf v)) n) s) s

/-- What XFERQ reads (R319). -/
def transferStatus (g : Gang) : W64 := word (g.curv * 2 ^ 16 + g.xver * 2 ^ 8 + bitNat g.xferPend)

/-- XFERQ (R319). -/
def execXferq (d : BitVec 7) (s : State) : Out := alu (.xferq d) (fxVal d fun e _ => transferStatus e.g) s

/-- A slot written into the context's control-store object and every CU's copy (R321). -/
def writeSlot (s : State) (cu ctx k : Nat) (ws : List W64) : State :=
  let s1 := match s.ctx? ctx with
    | some x => (writeObject s cu ctx (x.cstore + word (128 * k)) (wordsBytes ws)).getD s
    | none => s
  { s1 with cus := s1.cus.map fun c =>
      (c.1, { c.2 with micro := (ctx, k, ws) :: c.2.micro.filter fun x => !(x.1 == ctx && x.2.1 == k) }) }

/-- MSTORE (R321). -/
def execMstore (d a : BitVec 7) (k : BitVec 8) (s : State) : Out :=
  issue (.mstore d a k) (fun e s =>
    let p := e.once a
    if ptrOff p % 128 != 0 then trapStrand e .align 0 s
    else withOnce e p 128 (fun bs t =>
      let ws := bytesWords 16 bs
      let e1 := e.renew t
      let s1 := finish e1 (predAll (reads e1 (.mstore d a k)) d.toNat (slotAccepted ws)) t
      if slotAccepted ws then writeSlot s1 e.g.cuKey e.g.ctx k.toNat ws else s1) s) s

/-- Fields of a Harp context descriptor (R308). -/
def hdStart (d : List W64) : Nat := fld (d.getD 0 0) 15 11
def hdStates (d : List W64) : Nat := fld (d.getD 0 0) 10 6 + 1
def hdUnary (d : List W64) : Bool := (d.getD 0 0).getLsbD 5
def hdDown (d : List W64) : Bool := (d.getD 0 0).getLsbD 4
def hdWidth (d : List W64) : Nat := fld (d.getD 0 0) 1 0 + 1

/-- The class of a state (R308). -/
def hdClass (d : List W64) (st : Nat) : Nat := fld (d.getD (1 + st / 16) 0) (4 * (st % 16) + 3) (4 * (st % 16))

/-- The entries of a table's transition array (R309). -/
def hdEntries (d : List W64) : Nat := hdStates d * 2 ^ (if hdUnary d then hdWidth d else 2 * hdWidth d)

/-- Fields of a transition entry (R309). -/
def trEmit (x : BitVec 16) : Bool := x.getLsbD 10
def trValid (x : BitVec 16) : Bool := x.getLsbD 9
def trOut (x : BitVec 16) : Nat := bits x.toNat 8 5
def trNext (x : BitVec 16) : Nat := bits x.toNat 4 0

/-- A table object is well formed (R308, R309): its descriptor, bytes 32 to 63, and its entries. -/
def tableOk (d : List W64) (es : List (BitVec 16)) : Bool :=
  let w0 := d.getD 0 0
  fld w0 63 48 == 0x4B48 && fld w0 47 16 == 0 && fld w0 3 2 == 0 && ((d.drop 3).all fun w => w == 0) &&
  decide (hdStart d < hdStates d) &&
  ((List.range 32).all fun st => decide (hdClass d st ≤ 4) || (8 ≤ hdClass d st && hdClass d st ≤ 11)) &&
  es.all fun x => bits x.toNat 15 11 == 0 &&
    (!trValid x || (decide (trNext x < hdStates d) && decide (trOut x < 2 ^ hdWidth d)))

/-- Transition entries as the context holds them, zero entries left out. -/
def entryMap (es : List (BitVec 16)) : SMap (BitVec 16) :=
  ((List.range es.length).zip es).filter fun x => x.2 != 0

/-- The Harp context of a gang's quarter (R311). -/
def harpOf (s : State) (g : Gang) (c : Nat) : Option HarpTable :=
  match s.block? g.block with
  | none => none
  | some b => match find b.harp (4 * g.quarter + c) with
    | some t => if t.valid then some t else none
    | none => none

/-- A table object as DTLOAD has read it: its descriptor and its entries. -/
def loadTable (e : Env) (i : Instr) (d c : Nat) (desc : List W64) (bs : List Byte) (t : State) : State :=
  let es := (groupsOf 2 (bs.length / 2) bs).map fun b => BitVec.ofNat 16 (bytesNat b)
  let ok := tableOk desc es
  let e1 := e.renew t
  let s1 := finish e1 (predAll (reads e1 i) d ok) t
  if ok then s1.onBlock e.g.block fun b => { b with harp := put b.harp (4 * e.g.quarter + c) ⟨desc.take 4, entryMap es, true⟩ }
  else s1

/-- DTLOAD (R322): the descriptor is read, then the entries that it counts, whatever else it holds. -/
def execDtload (d a : BitVec 7) (c : BitVec 2) (s : State) : Out :=
  issue (.dtload d a c) (fun e s =>
    let p := e.once a
    if ptrOff p % 64 != 0 then trapStrand e .align 0 s
    else withOnce e p 64 (fun h =>
      let desc := bytesWords 8 h
      withOnce e (p + 64) (2 * hdEntries desc) (loadTable e (.dtload d a c) d.toNat c.toNat desc)) s) s

/-- DTUND's detail (R325). -/
def dtundDetail (c state digit kind : Nat) : Nat := c + state * 4 + digit * 128 + kind * 8192

/-- A lane's Harp state (R295). -/
def harpState (g : Gang) (c l : Nat) : Nat := (getAt 0 g.harp (32 * c + l)).toNat

/-- The Harp states of some lanes written. -/
def setHarp (g : Gang) (c : Nat) (m : Mask) (f : Nat → Nat) : Gang :=
  { g with harp := (lanesOf m).foldl (fun h l => setAt 0 h (32 * c + l) (BitVec.ofNat 5 (f l))) g.harp }

/-- DTSET (R323). -/
def execDtset (a : BitVec 7) (o c : BitVec 2) (s : State) : Out :=
  issue (.dtset a o c) (fun e s =>
    match harpOf s e.g c.toNat with
    | none => trapLanes e .dtund (dtundDetail c.toNat 0 0 1) e.active s
    | some t =>
      let v := fun l => fld (e.rd a l) 4 0
      let bad := if o.toNat = 2 then maskOf fun l => lane e.active l && decide (hdStates t.desc ≤ v l) else 0
      if bad != 0 then trapLanes e .dtund (dtundDetail c.toNat (v (lowestLane bad)) 0 0) bad s
      else
        let g := reads e (.dtset a o c)
        finish e (match o.toNat with
          | 0 => setHarp g c.toNat e.active fun _ => hdStart t.desc
          | 2 => setHarp g c.toNat e.active v
          | _ => g) s) s

/-- One lane's transduction so far: state, result, or the state and digit at which no transition is valid. -/
abbrev Digits := Except (Nat × Nat) (Nat × W64)

/-- One digit of a transduction (R310, R324). -/
def digitStep (t : HarpTable) (flip keep : Bool) (a b : W64) (acc : Digits) (p : Nat) : Digits :=
  match acc with
  | .error x => .error x
  | .ok (st, r) =>
    let w := hdWidth t.desc
    let A := sub a p w
    let B := if flip then 2 ^ w - 1 - sub b p w else sub b p w
    let x := getAt 0 t.trans (if hdUnary t.desc then st * 2 ^ w + A else st * 2 ^ (2 * w) + A * 2 ^ w + B)
    if !trValid x then .error (st, p)
    else .ok (trNext x, if trEmit x && !keep then setSub r p w (trOut x) else r)

/-- The digits of a register in the table's direction (R310). -/
def digitOrder (t : HarpTable) : List Nat :=
  let n := 64 / hdWidth t.desc
  if hdDown t.desc then (List.range n).reverse else List.range n

/-- A lane's transduction (R310, R324). -/
def transduce (t : HarpTable) (flip keep : Bool) (st : Nat) (a b r : W64) : Digits :=
  (digitOrder t).foldl (digitStep t flip keep a b) (.ok (st, r))

/-- What a transduction leaves: the state and result, none where it trapped. -/
def Digits.done (x : Digits) : Option (Nat × W64) := match x with
  | .ok y => some y
  | .error _ => none

/-- A transducing instruction (R324, R325): the checks of the context, the look-ups, and the commit. -/
def transducing (unary : Bool) (c : Nat) (f : Env → HarpTable → Nat → Digits) (commit : Env → HarpTable → (Nat → Nat × W64) → State → State)
    (e : Env) (s : State) : State :=
  match harpOf s e.g c with
  | none => trapLanes e .dtund (dtundDetail c 0 0 1) e.active s
  | some t =>
    if hdUnary t.desc != unary then trapLanes e .dtund (dtundDetail c 0 0 2) e.active s
    else
      let rs := (lanesOf e.active).map fun l => (l, f e t l)
      let bad := rs.filterMap fun x => match x.2 with
        | .error y => some (x.1, y)
        | .ok _ => none
      match bad with
      | (_, y) :: _ => trapLanes e .dtund (dtundDetail c y.1 y.2 0) (maskOf fun l => bad.any fun x => x.1 == l) s
      | [] => commit e t (fun l => ((find rs l).bind Digits.done).getD (0, 0)) s

/-- The commit of DADD, DSUB and DCONV: lane states, and the result owed to d (R324, R325). -/
def commitDigits (i : Instr) (d : BitVec 7) (c : Nat) (e : Env) (_ : HarpTable) (f : Nat → Nat × W64) (s : State) : State :=
  let n := s.nextName
  let g := setHarp ((reads e i).markEmpty e.active d.toNat n.1) c e.active fun l => (f l).1
  finish e (if e.active = 0 then g else owe (pendingFor e n.1 e.active d.toNat fun l => (f l).2) g) n.2

/-- DADD (R324). -/
def execDadd (d a b : BitVec 7) (c : BitVec 2) (s : State) : Out :=
  issue (.dadd d a b c) (transducing false c.toNat
    (fun e t l => transduce t false false (harpState e.g c.toNat l) (e.rd a l) (e.rd b l) (e.rd d l))
    (commitDigits (.dadd d a b c) d c.toNat)) s

/-- DSUB (R324). -/
def execDsub (d a b : BitVec 7) (c : BitVec 2) (s : State) : Out :=
  issue (.dsub d a b c) (transducing false c.toNat
    (fun e t l => transduce t true false (harpState e.g c.toNat l) (e.rd a l) (e.rd b l) (e.rd d l))
    (commitDigits (.dsub d a b c) d c.toNat)) s

/-- DCONV (R324). -/
def execDconv (d a : BitVec 7) (c : BitVec 2) (s : State) : Out :=
  issue (.dconv d a c) (transducing true c.toNat
    (fun e t l => transduce t false false (harpState e.g c.toNat l) (e.rd a l) 0 (e.rd d l))
    (commitDigits (.dconv d a c) d c.toNat)) s

/-- DCMP (R324). -/
def execDcmp (d a b : BitVec 7) (c : BitVec 2) (s : State) : Out :=
  issue (.dcmp d a b c) (transducing false c.toNat
    (fun e t l => transduce t false true (harpState e.g c.toNat l) (e.rd a l) (e.rd b l) 0)
    (fun e t f s =>
      let is (k : Nat) : Mask := maskOf fun l => lane e.active l && hdClass t.desc (f l).1 == k
      let g := setHarp (reads e (.dcmp d a b c)) c.toNat e.active fun l => (f l).1
      let g1 := (List.range 3).foldl (fun (g : Gang) j => g.setPred e.active (d.toNat + j) (is (2 + j))) g
      finish e g1 s)) s

/-- DSTATE (R326). -/
def execDstate (d : BitVec 7) (c : BitVec 2) (s : State) : Out :=
  issue (.dstate d c) (fun e s =>
    match harpOf s e.g c.toNat with
    | none => trapLanes e .dtund (dtundDetail c.toNat 0 0 1) e.active s
    | some t => finish e (writeResult e d (fun l =>
        let st := harpState e.g c.toNat l
        word (hdClass t.desc st * 256 + st)) (reads e (.dstate d c))) s) s

/-- Sixteen codebook entries written (R312, R327). -/
def setBook (books : SMap (BitVec 16)) (c : Nat) (bs : List Byte) : SMap (BitVec 16) :=
  ((List.range 16).zip (groupsOf 2 16 bs)).foldl (fun m x => setAt 0 m (16 * c + x.1) (BitVec.ofNat 16 (bytesNat x.2))) books

/-- CBLOAD (R327). -/
def execCbload (a : BitVec 7) (x : BitVec 2) (s : State) : Out :=
  issue (.cbload a x) (fun e s =>
    let p := e.once a
    let n := if x = 2 then 64 else 32
    if ptrOff p % n != 0 then trapStrand e .align 0 s
    else withOnce e p n (fun bs t =>
      let e1 := e.renew t
      let g := reads e1 (.cbload a x)
      let books := if x = 2 then setBook (setBook g.books 0 (bs.take 32)) 1 (bs.drop 32) else setBook g.books x.toNat bs
      finish e1 { g with books := books } t) s) s

/-- CBRD (R328). -/
def execCbrd (d : BitVec 7) (q : BitVec 2) (b : BitVec 1) (s : State) : Out :=
  alu (.cbrd d q b) (fxVal d fun e _ => pack 16 ((((bookEntries e.g.books b.toNat).drop (4 * q.toNat)).take 4).map BitVec.toNat)) s

end Sys2Proof.Machine
end

