-- ==== Sys2Proof/Machine/System.lean ====
section
/-! DEFINITION. System instructions: SYSRD, SYSWR and TLOG (R63, R64). -/

namespace Sys2Proof.Machine

/-- A system register read (R63); none for a number outside the table. -/
def sysRead (s : State) (g : Gang) (n : Nat) : Option W64 :=
  match n with
  | 0 => some (word g.die)
  | 1 => some (word g.cu)
  | 2 => some (word g.quarter)
  | 3 => some (word g.slot)
  | 4 => some (word g.ctx)
  | 5 => some (word (s.die g.die).clock)
  | n => if 0x10 ≤ n && n ≤ 0x17 then some (getAt 0 (s.die g.die).scr (n - 0x10)) else none

/-- SYSRD (R63). -/
def execSysrd (d : BitVec 7) (n : BitVec 9) (s : State) : Out :=
  issue (.sysrd d n) (fun e s =>
    if !e.sys then trapStrand e .illop 0 s
    else
      let s1 := if n = 5 then (readClock s e.g.die).2 else s
      match sysRead s1 e.g n.toNat with
      | none => trapStrand e .illop 0 s
      | some v => finish e ((reads e (.sysrd d n)).setReg d.toNat 0 ⟨v, .full⟩) s1) s

/-- SYSWR (R63): the scratch words alone may be written. -/
def execSyswr (a : BitVec 7) (n : BitVec 9) (s : State) : Out :=
  issue (.syswr a n) (fun e s =>
    if !e.sys then trapStrand e .illop 0 s
    else if 0x10 ≤ n.toNat && n.toNat ≤ 0x17 then
      let d := s.die e.g.die
      finish e (reads e (.syswr a n)) (s.setDie e.g.die { d with scr := setAt 0 d.scr (n.toNat - 0x10) (e.once a) })
    else trapStrand e .illop 0 s) s

/-- TLOG (R64). -/
def execTlog (a : BitVec 7) (s : State) : Out :=
  issue (.tlog a) (fun e s =>
    let s1 := finish e (reads e (.tlog a)) s
    if e.active = 0 then s1
    else logGang s1 e.g 1 Code.trapsw.num e.iss.pc e.active (e.rd a (lowestLane e.active))) s

end Sys2Proof.Machine
end

