-- ==== Sys2Proof/Machine/Schedule.lean ====
section
/-! DEFINITION. Fetching an instruction, which strands may issue, and the choice of the next run (R18 to R24, R46 to R49, R201, R372). -/

namespace Sys2Proof.Machine

/-- The sixteen bytes of the packet that holds a PC (R46, R201). -/
def fetchPacket (s : State) (g : Gang) (pc : W64) : Except Miss (List Byte) :=
  match translate s g.cuKey g.ctx (packetOf pc) .execute false false 16 with
  | .error m => .error m
  | .ok ps =>
    if ps.any (placePoisoned s) then .error (.fault .memue 0) else .ok (ps.map (byteNow s))

/-- The control byte and the word of a PC's slot (R46, R47). -/
def slotOfPacket (bs : List Byte) (pc : W64) : Byte × W32 :=
  let n := fld pc 3 2
  (bs.getD (n - 1) 0, word32 (bytesNat ((bs.drop (4 * n)).take 4)))

/-- A control word that R47 refuses. -/
def badControl (bs : List Byte) : Bool := bs.getD 3 0 != 0

/-- The lanes of a lane's strand that are not halted (R18, R22). -/
def Gang.runnable (g : Gang) (l : Nat) : Mask := g.strandOf l &&& ~~~g.halted

/-- What the strand of lane l would find if it issued now. -/
def strandEnv (s : State) (id : Nat) (g : Gang) (l : Nat) (ctl : Byte) (w : W32) : Env :=
  ⟨id, ⟨id, g.runnable l, g.pcOf l, ctl, w⟩, g, tilesFor s g, systemContext s g⟩

/-- Instructions that the whole gang issues, both halves of a compatibility gang together (R142, R168, R245). -/
def needsWhole : Instr → Bool
  | .call .. => true | .calli .. => true | .ret => true
  | .bar .. => true | .bara .. => true | .barw .. => true | .cbar .. => true
  | .mma .. => true | .mmas .. => true | .mmaq .. => true | .mmaqs .. => true
  | _ => false

/-- A strand that waits on an empty register waits no longer (R20). -/
def sourcesReady (s : State) (id : Nat) (g : Gang) (l : Nat) : Bool :=
  match fetchPacket s g (g.pcOf l) with
  | .error _ => true
  | .ok bs =>
    let x := slotOfPacket bs (g.pcOf l)
    match decode x.2 with
    | .error _ => true
    | .ok i =>
      let e := strandEnv s id g l x.1 x.2
      let e := if needsWhole i && g.c16 then { e with iss := { e.iss with lanes := g.liveLanes } } else e
      verdict e (operands e i) != .wait

/-- A lane's park condition lets its strand issue (R22). `last`: a strand that has yielded may be chosen too (R150). -/
def parkAllows (s : State) (id : Nat) (g : Gang) (last : Bool) (l : Nat) : Bool :=
  match g.parkOf l with
  | .ready => true
  | .yielded => last
  | .regWait => sourcesReady s id g l
  | .drain => !hasHeld s id g.cuKey fun h => h.acc.kind == .once && h.acc.pc == g.pcOf l
  | .c16meet => (lanesOf g.liveLanes).all fun m => g.pcOf m == g.pcOf l
  | .exitWait => exitReady g
  | .safept _ => !g.xferPend
  | .trapped _ _ _ _ => !handlerHeld s g
  | _ => false

/-- The gang may issue at all (R22): resident, not killed, not stopped, not stalled in place for a NOTRES, not waiting for a replay
slot. -/
def gangMayIssue (s : State) (id : Nat) (g : Gang) : Bool :=
  !g.killed && (!g.debugStop || g.stepOne.isSome) && !(hasHeld s id g.cuKey Held.notres) &&
  !((s.cu g.cuKey).replayWait.any fun h => h.gang == id)

/-- The lowest lane of every eligible strand of a gang (R22). While a handler runs, only the strand it runs in may issue (R370); a
stopped gang issues only in the strand that was granted a single step (R380). -/
def eligibleStrands (s : State) (id : Nat) (g : Gang) (last : Bool) : List Nat :=
  if !gangMayIssue s id g then []
  else laneNumbers.filter fun l =>
    let m := g.runnable l
    m != 0 && lowestLane m == l && ((lanesOf m).any fun k => parkAllows s id g last k) &&
      (!g.tmask.getLsbD 0 || g.handlerLanes == 0 || g.strandOf l &&& g.handlerLanes != 0) &&
      (match g.stepOne with
        | some k => lane m k
        | none => true)

/-- The gangs of a quarter. -/
def gangsOn (s : State) (q : Nat) : List (Nat × Gang) := s.gangs.filter fun g => g.2.qKey == q

/-- The gangs of a quarter that have an eligible strand. -/
def eligibleGangs (s : State) (q : Nat) (last : Bool) : List (Nat × Gang) :=
  (gangsOn s q).filter fun g => !(eligibleStrands s g.1 g.2 last).isEmpty

/-- The entry with the least key. -/
def leastBy {β : Type} (f : β → Nat) : List β → Option β
  | [] => none
  | x :: xs => match leastBy f xs with
    | some y => if f x ≤ f y then some x else some y
    | none => some x

/-- The distance from a round robin's beginning to a place among n. -/
def roundFrom (start n k : Nat) : Nat := (k + n - start % n) % n

/-- The gang a quarter chooses among its eligible gangs, and whether by promotion (R23). -/
def chooseGang (x : Quarter) (gs : List (Nat × Gang)) : Option ((Nat × Gang) × Bool) :=
  match leastBy (fun g => g.2.promoted.getD 0) (gs.filter fun g => g.2.promoted.isSome) with
  | some g => some (g, true)
  | none =>
    let top := gs.foldl (fun n g => max n g.2.prio) 0
    (leastBy (fun g => roundFrom (getAt 0 x.rr top) 16 g.2.slot) (gs.filter fun g => g.2.prio == top)).map fun g => (g, false)

/-- The strand a gang chooses (R23): the next lowest lane after that of the strand that ran last. -/
def chooseStrand (g : Gang) (ls : List Nat) : Option Nat :=
  leastBy (roundFrom (match g.lastLane with
    | some l => l + 1
    | none => 0) 32) ls

/-- A gang that has stayed eligible through 48 choices is promoted (R23). DESIGN CHOICE (log 57): of gangs of a quarter that reach 48 at
one choice, the one with the lower name counts as promoted first. -/
def promote (s : State) (id : Nat) : State :=
  match s.gang? id with
  | none => s
  | some g =>
    if 48 ≤ g.waited && g.promoted.isNone then
      let x := s.quarter g.qKey
      (s.setQuarter g.qKey { x with promotions := x.promotions + 1 }).setGang id { g with promoted := some x.promotions }
    else s

/-- GANG_PROMOTION (R23). -/
def execGangPromotion (g : Nat) (s : State) : Out := .next (promote s g)

/-- The counts and promotions of a quarter's gangs at a choice (R23). -/
def countChoice (s : State) (q chosen : Nat) (eligible : List Nat) : State :=
  { s with gangs := s.gangs.map fun (g : Nat × Gang) =>
      if g.2.qKey != q then g
      else if g.1 = chosen || !eligible.contains g.1 then (g.1, { g.2 with waited := 0, promoted := none })
      else (g.1, { g.2 with waited := g.2.waited + 1 }) }

/-- Strands that yielded take part again (R150). -/
def endYields (s : State) (q : Nat) : State :=
  { s with gangs := s.gangs.map fun (g : Nat × Gang) =>
      if g.2.qKey == q then (g.1, wakeParked (fun p => decide (p = .yielded)) g.2) else g }

/-- A quarter between runs starts the next one (R20, R23). -/
def arbitrate (s : State) (q : Nat) : State :=
  if (s.quarter q).run.isSome then s
  else
    let s0 := (gangsOn s q).foldl (fun s g => promote s g.1) s
    let last := (eligibleGangs s0 q false).isEmpty
    let gs := eligibleGangs s0 q last
    match chooseGang (s0.quarter q) gs with
    | none => s
    | some ((id, g), promoted) =>
      match chooseStrand g (eligibleStrands s0 id g last) with
      | none => s
      | some l =>
        let s1 := endYields (countChoice s0 q id (gs.map Prod.fst)) q
        let x := s1.quarter q
        let rr := if promoted then x.rr else setAt 0 x.rr g.prio ((g.slot + 1) % 16)
        let s2 := s1.setQuarter q { x with rr := rr, run := some ⟨id, g.runnable l, 0, none⟩ }
        { s2.onGang id fun g => { g.count 2 1 with lastLane := some l } with focus := some q }

/-- RUN_ARBITRATION (R23). -/
def execRunArbitration (q : Nat) (s : State) : Out := .next (arbitrate s q)

/-- The strand of a lane waits for a packet (R20). -/
def waitFetch (s : State) (id : Nat) (m : Mask) : State := stopRuns (s.onGang id fun g => g.setPark m .fetchWait) id

/-- The quarter's fetch buffer lacks the next packet of its run (R20). -/
def fetchMiss (s : State) (q : Nat) : State :=
  match (s.quarter q).run with
  | none => s
  | some r => match s.gang? r.gang with
    | none => s
    | some g => if r.lanes = 0 then s else waitFetch s r.gang (g.runnable (lowestLane r.lanes))

/-- INSTRUCTION_FETCH_FILL (R20): the packet of a waiting strand arrives. One that is not resident, or is moving, does not come until
its translation allows it (R372). -/
def execInstructionFetchFill (id lane_ : Nat) (s : State) : Out :=
  .next (match s.gang? id with
    | none => s
    | some g =>
      if g.parkOf lane_ = .fetchWait then
        match fetchPacket s g (g.pcOf lane_) with
        | .error (.notres _ _) => s
        | .error (.hold _) => s
        | _ => s.setGang id (wakeParkedIn g (g.strandOf lane_))
      else s)
where
  /-- The lanes of a mask that wait for a fetch compete again. -/
  wakeParkedIn (g : Gang) (m : Mask) : Gang :=
    { g with park := g.park.filter fun e => !(lane m e.1 && decide (e.2 = .fetchWait)) }

/-- What a fetch that does not deliver its packet does (R49, R198, R372, R373). -/
def fetchFault (s : State) (id : Nat) (g : Gang) (m : Mask) (pc : W64) : Miss → State
  | .fault c d =>
    if c.kills then killGang s id c d false pc m else takeTrap s id m pc c d m
  | .damaged t => killGang (markDamaged s g.ctx (ptrObj pc) t) id .objue (if t.isSome then 1 else 0) false pc m
  | .notres j sub =>
    let t := countDie (dropEntry s g.cuKey g.ctx (ptrObj pc) j) g.die 38 1
    if (s.die g.die).normal then waitFetch t id m else stopRuns (t.onGang id fun g => g.setPark m (.fetchOut (ptrObj pc) j sub)) id
  | .hold _ => waitFetch s id m

/-- A gang stopped between two of its instructions: every non-exited lane that is not halted takes halt reason DEBUG (R380). -/
def debugStopGang (s : State) (id : Nat) : State :=
  stopRuns (s.onGang id fun g =>
    if g.killed then g
    else { g with
      debugStop := true, stepOne := none, waited := 0, promoted := none
      haltReason := (lanesOf g.liveLanes).foldl
        (fun h l => if getAt .none h l = .none then setAt .none h l .debug else h) g.haltReason }) id

/-- A breakpoint of the running version lies at a PC (R380). -/
def breakpointAt (s : State) (g : Gang) (pc : W64) : Bool :=
  match s.ctx? g.ctx with
  | none => false
  | some x => x.breakpoints.any fun b => b.2.1 == g.curv && b.2.2 == ptrOff pc

/-- A fault carried into a task's first instruction is raised there (R290, R368). -/
def raiseCarried (s : State) (id : Nat) (g : Gang) (m : Mask) (pc : W64) (code detail : Nat) : State :=
  let s1 := s.setGang id { g with carried := none }
  match [Code.align, .oos, .notres, .perm, .objinv, .objue, .memue].find? fun c => c.num == code with
  | some c => if c.kills then killGang s1 id c detail false pc m else takeTrap s1 id m pc c detail m
  | none => s1

/-- The codes of class H (R368). -/
def hardCodes : List Code :=
  [.illop, .illpk, .empty, .conv, .fmtdiv, .align, .oos, .notres, .perm, .objinv, .dtund, .exitmis, .xfernone, .trapsw, .arith]

/-- A trap that has waited for its handler's entry is taken (R370). -/
def raiseTrapped (s : State) (id : Nat) (g : Gang) (l code detail : Nat) (pc : W64) (tl : Mask) : State :=
  let m := maskOf fun k => decide (g.parkOf k = g.parkOf l)
  takeTrap (s.setGang id (g.setPark m .ready)) id m pc ((hardCodes.find? fun c => c.num == code).getD .illop) detail tl

/-- What the issue slot of a quarter meets next. -/
inductive Fetched where
  /-- Nothing issues; the state goes on as given. -/
  | idle (s : State)
  /-- An instruction of the run's strand issues. -/
  | slot (s : State) (iss : Issue)

/-- The next instruction of a quarter's run (R20, R48): its packet, and the control word where the strand enters one. -/
def fetchNext (s : State) (q : Nat) : Fetched :=
  match (s.quarter q).run with
  | none => .idle { s with focus := none }
  | some r =>
    let ended := { s.setQuarter q { s.quarter q with run := none } with focus := none }
    match s.gang? r.gang with
    | none => .idle ended
    | some g =>
      let l := lowestLane (r.lanes &&& g.liveLanes &&& ~~~g.halted)
      let m := g.runnable l
      if r.lanes &&& g.liveLanes &&& ~~~g.halted = 0 || g.killed then .idle ended
      else
        let pc := g.pcOf l
        match g.parkOf l with
        | .trapped code detail tpc tl => .idle (raiseTrapped s r.gang g l code detail tpc tl)
        | _ =>
        if !goodPc pc then .idle (takeTrap s r.gang m pc .illpk 0 m)
        else if g.stepOne.isNone && breakpointAt s g pc then .idle (debugStopGang s r.gang)
        else match g.carried with
        | some c => .idle (raiseCarried s r.gang g m pc c.1 c.2)
        | none => match fetchPacket s g pc with
        | .error x => .idle (fetchFault s r.gang g m pc x)
        | .ok bs =>
          if r.packet != some (packetOf pc) && badControl bs then .idle (takeTrap s r.gang m pc .illpk 1 m)
          else
            let x := slotOfPacket bs pc
            let s1 := s.setQuarter q { s.quarter q with run := some { r with lanes := m, packet := some (packetOf pc) } }
            .slot (s1.setGang r.gang (g.setPark m .ready)) ⟨r.gang, m, pc, x.1, x.2⟩

/-- The instruction a word stands for: a word that R58 or R60 refuses is issued all the same, and raises ILLOP (R61, R62). -/
def issued (w : W32) : Instr :=
  match decode w with
  | .ok i => i
  | .error _ => .unassignedOpcode w

/-- After an instruction: the run counts it, and ends with its E bit, after 24 instructions, or where the instruction did not issue and
stopped it (R20, R341). A debug single step stops again (R380). -/
def afterIssue (q : Nat) (iss : Issue) (s : State) : State :=
  if s.cur.isNone then s
  else
    let s1 := { s.onGang iss.gang fun g => { g.count 1 1 with stepOne := none } with cur := none }
    let stepped := match s1.gang? iss.gang with
      | some g => g.debugStop
      | none => false
    match (s1.quarter q).run with
    | none => s1
    | some r =>
      if r.gang != iss.gang then s1
      else if ctlE iss.ctl || 24 ≤ r.count + 1 || stepped then
        { s1.setQuarter q { s1.quarter q with run := none } with focus := if s1.focus = some q then none else s1.focus }
      else s1.setQuarter q { s1.quarter q with run := some { r with count := r.count + 1 } }

end Sys2Proof.Machine
end

