-- ==== Sys2Proof/Machine/Faults.lean ====
section
/-! DEFINITION. The fault service's answers, kills that hardware errors cause, and debug stops (R195, R367 to R375, R380). -/

namespace Sys2Proof.Machine

/-- One byte written by firmware behind the caches: no L2 keeps a copy. -/
def serviceByte (s : State) (k : Key) (b : Byte) : State :=
  performByte { s with dies := s.dies.map fun (d : Nat × Die) => (d.1, { d.2 with l2 := drop d.2.l2 k }) } 0 none true k b

/-- Bytes written by firmware from a location on; a sector written whole loses its poison (R221). -/
def serviceWrite (s : State) (k : Key) (bs : List Byte) : State :=
  let ks := (List.range bs.length).map (k + ·)
  let t := (ks.zip bs).foldl (fun t x => serviceByte t x.1 x.2) s
  { t with poison := if t.poison.isEmpty then [] else poisonAfter t.poison ks }

/-- A location lies among n from a first one on. -/
def keySpan (a n : Nat) (k : Key) : Bool := decide (a ≤ k) && decide (k < a + n)

/-- An object record as memory holds it now. -/
def recordNow (s : State) (x : Context) (obj : Nat) : Record := bytesWords 16 (coherentBytes s (recordAt x obj) 128)

/-- A tile-map entry as memory holds it now. -/
def entryNow (s : State) (r : Record) (tile : Nat) : W64 := coherentW64 s (r.tmap + 8 * tile)

/-- A word of a tile map written by firmware no longer carries the error of its sector (R198). -/
def mend (s : State) (k : Key) : State := if poisoned s k then { s with mended := k / 8 :: s.mended } else s

/-- A tile-map entry written. -/
def putEntry (s : State) (r : Record) (tile : Nat) (e : W64) : State :=
  mend (serviceWrite s (r.tmap + 8 * tile) (w64Bytes e)) (r.tmap + 8 * tile)

/-- A tile-map entry of its fields (R189, R200). -/
def makeEntry (sysm : Bool) (state gen frame present : Nat) : W64 :=
  if sysm then word (frame * 2 ^ 12 + state * 2 ^ 8 + gen % 256)
  else word (state * 2 ^ 56 + gen % 256 * 2 ^ 48 + frame * 2 ^ 16 + present)

/-- The frame field of an entry: a 64 KiB frame, or a 4 KiB page of the bus (R189, R200). -/
def entryFrame (sysm : Bool) (e : W64) : Nat := if sysm then fld e 63 12 else entFrame e

/-- A frame lies where the object's durability requires it: durable objects in Rind ranges outside their CRC areas, others outside the
ranges (R214). The recovery directory's frame is nobody's (R395). -/
def frameAllowed (s : State) (durable : Bool) (frame : Nat) : Bool :=
  let pa := frame * 65536
  let range := s.rind.find? fun r => decide (r.1 ≤ pa) && decide (pa < r.1 + r.2.1)
  let copy := s.rind.any fun r => r.2.2.any fun b => decide (b ≤ pa) && decide (pa < b + r.2.1)
  let directory := s.rind.head?.any fun r => r.1 == frame * 65536
  !directory && !copy && match range with
    | some r => durable && decide (pa < r.1 + r.2.1 - r.2.1 / 64)
    | none => !durable

/-- The entry of a sub-tile that the fault service maps; none where it has nothing to map (R184, R189). -/
def mappedEntry (s : State) (r : Record) (tile sub frame : Nat) : Option W64 :=
  let e := entryNow s r tile
  let fresh := makeEntry r.sysm 1 (entGen r.sysm e) frame (2 ^ (sub % 16))
  if r.state != 1 || !r.wf || r.tmlen ≤ tile || damagedAt s (r.tmap + 8 * tile) 8 || entDamaged r.sysm e then none
  else if entState r.sysm e = 0 then
    (if entDamaged r.sysm fresh || (!r.sysm && !frameAllowed s r.du frame) then none else some fresh)
  else if entState r.sysm e = 1 && !r.sysm && sub < 16 && !entPresent e sub then some (e ||| BitVec.twoPow 64 sub)
  else none

/-- The fault service brings a sub-tile's bytes to its frame and maps it. -/
def mapSubTile (s : State) (ctx obj tile sub frame : Nat) (fill : List Byte) : State :=
  match s.ctx? ctx with
  | none => s
  | some x =>
    let r := recordNow s x obj
    match mappedEntry s r tile sub frame with
    | none => s
    | some e =>
      let at_ := entFrame e * 65536 + sub * 4096
      let s1 := if r.sysm then s else forgetL1 (serviceWrite s at_ (fill.take 4096)) (keySpan at_ 4096)
      let waits (c : Nat) : Bool := ((s.cu c).replay ++ (s.cu c).replayWait).any fun h => h.ctx == ctx && h.obj == obj && h.tile == tile
      leaveCopies (putEntry s1 r tile e) ctx obj none [(tile, entryNow s r tile)] waits

/-- A held access that waits for the fault service's answer on a sub-tile. -/
def Held.waitsFor (h : Held) (ctx obj tile sub : Nat) : Bool :=
  h.notres && h.ctx == ctx && h.obj == obj && h.tile == tile && h.sub == sub

/-- Blocks that were saved on a sub-tile's account may be restored (R373). -/
def answerSaved (s : State) (ctx obj tile sub : Nat) (declined : Bool) : State :=
  let answer (b : SavedBlock) : SavedBlock :=
    if b.wait = some (obj, tile, sub) then { b with wait := none, declined := if declined then b.wait else none } else b
  { s with grids := s.grids.map fun (g : Nat × Grid) =>
      if g.2.ctx != ctx then g else (g.1, { g.2 with saved := g.2.saved.map answer }) }

/-- Copy pieces of a context that waited for a sub-tile wait no longer (R235). -/
def answerCopies (s : State) (ctx obj tile sub : Nat) : State :=
  let answer (c : CopyOp) : CopyOp := { c with held := c.held.filter fun h => decide (h ≠ (obj, tile, sub)) }
  { s with gangs := s.gangs.map fun (g : Nat × Gang) =>
      if g.2.ctx != ctx || g.2.copies.isEmpty then g else (g.1, { g.2 with copies := g.2.copies.map answer }) }

/-- FAULT_ACK (R335, R372, R373). -/
def execFaultAck (ctx obj tile sub frame : Nat) (fill : List Byte) (s : State) : Out :=
  let s1 := retryFlags (answerCopies (mapSubTile s ctx obj tile sub frame fill) ctx obj tile sub)
  .next (answerSaved (reissueAll s1 fun h => h.waitsFor ctx obj tile sub) ctx obj tile sub false)

/-- A strand with a given park condition whose fetch meets NOTRES on a sub-tile raises it, once for its lowest lane (R372). -/
def declineFetch (p : Park) (obj tile sub : Nat) (id : Nat) (s : State) (l : Nat) : State :=
  match s.gang? id with
  | none => s
  | some g =>
    let m := g.runnable l
    if m != 0 && lowestLane m == l && ((lanesOf m).any fun k => decide (g.parkOf k = p)) && ptrObj (g.pcOf l) == obj then
      match fetchPacket s g (g.pcOf l) with
      | .error (.notres j k) => if j = tile && k = sub then takeTrap s id m (g.pcOf l) .notres 0 m else s
      | _ => s
    else s

/-- A gang with a copy piece held on a sub-tile is killed when the fault service declines (R235). -/
def declineCopies (obj tile sub : Nat) (id : Nat) (s : State) : State :=
  match s.gang? id with
  | none => s
  | some g => match g.copies.find? fun c => c.held.contains (obj, tile, sub) with
    | none => s
    | some c => killGang s id .notres 0 false c.pc (g.copyMask (c.lanes.map CopyLane.lane))

/-- FAULT_DECLINE for everything of a context but the inputs of tasks (R235, R372, R373). -/
def declineSubTile (ctx obj tile sub : Nat) (s : State) : State :=
  let ids := (s.gangs.filter fun g => g.2.ctx == ctx).map Prod.fst
  let s1 := (s.cus.map Prod.fst).foldl (fun s c => declineAt s c fun h => h.waitsFor ctx obj tile sub) s
  let s2 := ids.foldl (fun s id => laneNumbers.foldl (declineFetch .fetchWait obj tile sub id) s) s1
  answerSaved (ids.foldl (fun s id => declineCopies obj tile sub id s) s2) ctx obj tile sub true

/-- The codes of class K that an error met in hardware gives (R368, R374). -/
def killCode (n : Nat) : Option Code := [Code.objue, .memue, .regue, .sdc].find? fun c => c.num == n

/-- GANG_KILL (R374, R375): TCAUSE[7] is 1 for REGUE and SDC; TPC is the next instruction of the strand that ran last. -/
def execGangKill (id code detail : Nat) (s : State) : Out :=
  .next (match killCode code, s.gang? id with
    | some c, some g =>
      let l := match g.lastLane with
        | some k => if lane g.liveLanes k then k else lowestLane g.liveLanes
        | none => lowestLane g.liveLanes
      if g.liveLanes = 0 then s
      else killGang s id c detail (decide (c = .regue) || decide (c = .sdc)) (g.pcOf l) (g.strandOf l)
    | _, _ => s)

/-- FAULT_MODE_SET (R367, R373). -/
def execFaultModeSet (die : Nat) (normal : Bool) (s : State) : Out :=
  .next (if die < 4 then s.setDie die { s.die die with normal := normal } else s)

/-- A port of the Zheum link; one that the fabric service has not brought up is down (R390, R394). -/
def State.port (s : State) (p : Nat) : Port := (find s.ports p).getD ⟨false, 0, []⟩

/-- A route to another device remains (R391). -/
def reaches (s : State) (node : Nat) : Bool := ((find s.routes node).getD []).any fun p => (s.port p).up

/-- A remote access that cannot complete kills its gang (R391). -/
def remoteTimeout (id : Nat) (s : State) : State :=
  match s.gang? id with
  | none => s
  | some g => match g.remotes.head?.bind fun r => r.accs.head? with
    | none => s
    | some a => if g.killed || reaches s (ptrNode a.ptr) then s else
      countError (killGang s id .memue 0 false a.pc (g.copyMask (g.remotes.flatMap fun r => r.accs.map Access.lane))) 7

/-- REMOTE_TIMEOUT (R391): the gang has a remote access whose destination no route reaches. -/
def execRemoteTimeout (g : Nat) (s : State) : Out := .next (remoteTimeout g s)

/-- The gangs that a stop of the debug service names: 0 a gang, 1 a block, 2 a context (R380). -/
def stopScope (s : State) (scope id : Nat) : List Nat :=
  match scope with
  | 0 => if (s.gang? id).isSome then [id] else []
  | 1 => blockGangs s id
  | 2 => (s.gangs.filter fun g => g.2.ctx == id).map Prod.fst
  | _ => []

/-- DEBUG_STOP (R380). -/
def execDebugStop (scope id : Nat) (s : State) : Out := .next ((stopScope s scope id).foldl debugStopGang s)

/-- Lanes that HALT stopped go to the slot after their HALT (R158, R380). -/
def resumeHalted (g : Gang) (m : Mask) : Gang :=
  let h := maskOf fun l => lane m l && getAt .none g.haltReason l == .halt
  { g.advance h with
    halted := g.halted &&& ~~~h
    haltReason := (lanesOf h).foldl (fun r l => setAt .none r l .none) g.haltReason }

/-- A gang resumed: DEBUG lanes continue where they stand; KILLED and NESTED lanes stay (R380). -/
def debugResumeGang (g : Gang) : Gang :=
  let g1 := resumeHalted g g.liveLanes
  wakeParked (fun p => decide (p = .rendezvous)) { g1 with
    debugStop := false, stepOne := none
    haltReason := laneNumbers.foldl (fun r l => if getAt .none r l = .debug then setAt .none r l .none else r) g1.haltReason }

/-- DEBUG_RESUME (R380). -/
def execDebugResume (g : Nat) (s : State) : Out :=
  .next (s.onGang g fun x => if x.killed then x else debugResumeGang x)

/-- DEBUG_SINGLE_STEP (R380): the strand of a lane of a stopped gang may issue one instruction. A HALT in it is stepped past. -/
def execDebugSingleStep (g lane_ : Nat) (s : State) : Out :=
  .next (s.onGang g fun x =>
    if x.debugStop && !x.killed && lane x.liveLanes lane_ then { resumeHalted x (x.strandOf lane_) with stepOne := some lane_ }
    else x)

/-- A register of a stopped gang replaced in state only: 0 full, 1 empty, 2 dead (R71). An empty one waits for the youngest result owed
to it. -/
def debugState (g : Gang) (f l n : Nat) (fresh : Nat) : Gang :=
  let r := g.reg f l
  let owed := (g.pending.filter fun p =>
    if f < 112 then p.vs.any fun x => x.1 == g.vKey f l else p.ss.any fun x => x.1 == f - 112).getLast?
  match n with
  | 0 => g.setReg f l { r with st := .full }
  | 1 => g.setReg f l { r with st := .empty ((owed.map Pending.ticket).getD fresh) }
  | 2 => g.setReg f l { r with st := .dead }
  | _ => g

/-- An item marked D of a stopped gang written (R71, R380): 0 v register, 1 s register, 2 predicate, 3 MODE, 4 cb register, 5 lane PC,
6 state of a v register, 7 state of an s register, 8 TCAUSE, 9 TPC, 10 TLANES, 11 TMASK. A PC that fails R49 is refused. -/
def debugItem (s : State) (g : Gang) (item idx l : Nat) (v : W64) : Gang :=
  match item with
  | 0 => if idx < g.wsize && l < 32 then (g.bindField idx).setReg idx l ⟨v, .full⟩ else g
  | 1 => if idx < 16 then g.setReg (112 + idx) 0 ⟨v, .full⟩ else g
  | 2 => if idx < 24 then g.setPred (oneLane l) idx (if v.getLsbD 0 then allLanes else 0) else g
  | 3 => { g with mode := modeBits (v.setWidth 32) }
  | 4 => if idx < 8 then { g with cb := setAt 0 g.cb idx (v.setWidth 32) } else g
  | 5 => if lane g.liveLanes l && goodTarget s (g.pcOf l) v then (g.setPcs (oneLane l) fun _ => v).setPark (oneLane l) .ready else g
  | 6 => if idx < g.wsize && l < 32 then debugState g idx l v.toNat s.fresh else g
  | 7 => if idx < 16 then debugState g (112 + idx) 0 v.toNat s.fresh else g
  | 8 => { g with tcause := causeBits (v.setWidth 32) }
  | 9 => { g with tpc := v }
  | 10 => { g with tlanes := v.setWidth 32 }
  | 11 => { g with tmask := (v.setWidth 32) &&& 1, handlerLanes := if v.getLsbD 0 then g.handlerLanes else 0 }
  | _ => g

/-- DEBUG_WRITE (R71, R78, R380). Item 12 is an accumulator word of the gang's quarter: tile, row and column in idx. DESIGN CHOICE (log 67):
while the transfer sequencer runs on the gang, nothing is written. -/
def execDebugWrite (id item idx lane_ : Nat) (v : W64) (s : State) : Out :=
  .next (match s.gang? id with
    | none => s
    | some g =>
      if !g.debugStop || g.sequencing then s
      else if item = 12 then
        (if idx < 1024 * tilesFor s g then s.onBlock g.block fun b =>
            { b with acc := setAt 0 b.acc (1024 * 16 * g.quarter + idx) (v.setWidth 32) } else s)
      else { s.setGang id (debugItem s g item idx lane_ v) with fresh := s.fresh + 1 })

/-- BREAKPOINT_SET (R367, R380). -/
def execBreakpointSet (ctx n : Nat) (bp : Option (Nat × Nat)) (s : State) : Out :=
  .next (if 4 ≤ n then s else s.onCtx ctx fun x => { x with
    breakpoints := match bp with
      | some b => if b.1 < 256 && b.2 < 2 ^ 36 then put x.breakpoints n b else x.breakpoints
      | none => drop x.breakpoints n })

/-- TRANSFER_RELEASE_TIMEOUT (R306): the clock of the strand's die has moved 4,096 cycles since it parked, and the sequencer has not
started. -/
def execTransferReleaseTimeout (id lane_ : Nat) (s : State) : Out :=
  .next (match s.gang? id with
    | none => s
    | some g => match g.parkOf lane_ with
      | .safept since =>
        if g.sequencing || !g.xferPend then s else
        let m := g.strandOf lane_ &&& ~~~g.halted
        let x := s.die g.die
        (s.setDie g.die { x with clock := max x.clock (since + 4096) }).setGang id ((g.advance m).setPark m .ready)
      | _ => s)

/-- CLAIM_GRANT (R154): the first waiting CLAIM of a pool is served when the rows are there. -/
def execClaimGrant (blk q : Nat) (s : State) : Out :=
  .next (match s.block? blk with
    | none => s
    | some b => match waitingClaims s b q with
      | [] => s
      | c :: _ => match s.gang? c.2.1 with
        | none => s
        | some g =>
          let s1 := s.onBlock blk fun b => { b with claims := b.claims.erase c }
          if claimTooWide g c.2.2.2 then takeTrap s1 c.2.1 c.2.2.1 (g.pcOf (lowestLane c.2.2.1)) .illop 0 c.2.2.1
          else if poolHas s g c.2.2.2 then claimRows s1 c.2.1 c.2.2.2 c.2.2.1
          else s)

end Sys2Proof.Machine
end

