-- ==== Sys2Proof/Machine/Residency.lean ====
section
/-! DEFINITION. What a CU holds and has room for, how a gang starts and ends, and tasks in shadow slots (R14, R16, R72, R81, R82, R153,
R205, R288 to R290). -/

namespace Sys2Proof.Machine

/-- What every gang of a block starts with (R71, R283, R297). -/
structure Launch where
  ctx : Nat
  grid : Nat
  prio : Nat
  pc : W64
  rows : Nat
  window : Nat
  ver : Nat
  c16 : Bool
  prot : Bool
  vtab : W64
  regs : List W64
  deriving DecidableEq, Repr

/-- The slot at which a version's gangs start. DESIGN CHOICE (log 58): slot 1 where its code pointer names a packet, for which R46 gives no
start. -/
def entryPc (p : W64) : W64 := if fld p 3 2 = 0 then p + 4 else p

/-- GSTAT at gang start (R80). -/
def startGstat (x : Launch) (mir : Bool) : W32 :=
  word32 (x.ver % 256 * 2 ^ 16 + bitNat mir * 2 ^ 5 + bitNat x.c16 * 2 ^ 4 + bitNat x.prot * 2 ^ 3)

/-- The spill object of a gang that starts in a resident slot: the context's spill objects are numbered by quarter and slot. -/
def spillFor (s : State) (ctx q slot : Nat) : W64 :=
  match s.ctx? ctx with
  | some x => x.spill + word ((16 * q + slot) * 2 ^ 36)
  | none => 0

/-- A gang that has just started (R71). DESIGN CHOICE (log 59): its rows beyond the window, whose start R71 does not give, read full and
0 when a CALL first slides the window onto them. -/
def startGang (s : State) (x : Launch) (special : Special) (block cu q slot : Nat) (mir : Bool) : Gang where
  block := block
  die := cu / 48
  cu := cu % 48
  quarter := q
  slot := slot
  ctx := x.ctx
  grid := x.grid
  prio := x.prio
  special := special
  v := []
  sreg := ((List.range 16).zip x.regs).foldl (fun m r => setAt Reg.zero m r.1 ⟨r.2, .full⟩) []
  p := []
  mode := 0x1F
  wb := 0
  lrow := 0
  nrows := x.rows
  wsize := x.window
  cb := []
  pc := laneNumbers.map fun l => (l, x.pc)
  exited := 0
  halted := 0
  haltReason := []
  park := []
  gstat := startGstat x mir
  tcause := 0
  tpc := 0
  tlanes := 0
  tmask := 0
  handlerLanes := 0
  kc := []
  books := []
  harp := []
  spill := spillFor s x.ctx (4 * cu + q) slot
  vtab := x.vtab
  bound := []
  boundOut := []
  pending := []
  accesses := []
  copies := []
  counted := []
  remotes := []
  contribs := []
  checkpoint := none
  perf := setAt 0 [] 0 (word (s.die (cu / 48)).clock)
  armed := none
  sampled := []
  lastLane := none
  waited := 0
  promoted := none
  arrivedBars := []
  arrivedCbars := []
  killed := false
  rendezvous := none
  debugStop := false
  stepOne := none
  carried := none
  exitPc := 0
  sequencing := false

/-- Tiles reserved on a quarter: those of its CU's blocks, of tasks on it, and of tasks in its shadow slots (R82, R290). -/
def tilesInUse (s : State) (q : Nat) : Nat :=
  let bs := (s.blocks.filter fun b => 48 * b.2.die + b.2.cu == q / 4 && (!b.2.task || b.2.q0 == q % 4)).map fun b => b.2.tiles
  let ss := ((s.cu (q / 4)).shadows.filter fun x => x.quarter == q % 4).map fun x => lbTiles x.words
  (bs ++ ss).foldl (· + ·) 0

/-- Declared scratchpad of what a CU holds (R205). -/
def spadsOn (s : State) (cu : Nat) : List Nat :=
  ((s.blocks.filter fun b => 48 * b.2.die + b.2.cu == cu).map fun b => b.2.spb) ++ (s.cu cu).shadows.map fun x => lbSpb x.words

/-- Resident slots of a quarter in use, those kept for tasks among them (R11). -/
def slotsUsed (s : State) (q : Nat) : List Nat :=
  ((gangsOn s q).map fun g => g.2.slot) ++ ((s.cu (q / 4)).shadows.filter fun x => x.quarter == q % 4).map Shadow.slot

/-- What a block asks of the quarters of a CU: its gangs with their rows, pool rows of its quarters from its first on, tiles,
scratchpad (R72, R205, R283). A task has tiles on its own quarter only (R82). -/
structure Need where
  gangs : List (Nat × Nat)
  pools : List Nat
  tiles : Nat
  spb : Nat
  task : Bool
  deriving DecidableEq, Repr

/-- The gangs of a block on quarter q of its CU when its first quarter is q0 (R14). -/
def Need.on (n : Need) (q0 q : Nat) : List (Nat × Nat) := n.gangs.filter fun g => (q0 + g.1) % 4 == q

/-- Rows of the block's gangs on a quarter. -/
def Need.rows (n : Need) (q0 q : Nat) : Nat := ((n.on q0 q).map Prod.snd).foldl (· + ·) 0

/-- Pool rows of the block on a quarter. -/
def Need.pool (n : Need) (q0 q : Nat) : Nat := n.pools.getD ((q + 4 - q0 % 4) % 4) 0

/-- The block fits on a CU, mirrored or not (R14, R72, R81, R82, R205, R379). -/
def fits (s : State) (cu q0 : Nat) (n : Need) (mir : Bool) : Bool :=
  (s.cu cu).emergency.isNone && decide (spadPart (n.spb :: spadsOn s cu) ≤ 458752) &&
  (List.range 4).all fun q =>
    let r := n.rows q0 q
    let p := n.pool q0 q
    decide (rowsInUse s (4 * cu + q) + r * (if mir then 2 else 1) + p ≤ 512) &&
    (!mir || (n.on q0 q).isEmpty || decide (r + p ≤ 256)) &&
    decide ((slotsUsed s (4 * cu + q)).length + (n.on q0 q).length ≤ 16) &&
    ((n.task && q != q0 % 4) || decide (tilesInUse s (4 * cu + q) + n.tiles ≤ 16))

/-- A block's end: every gang of it has ended or was killed, and its accepted matrix instructions are complete (R26, R374). -/
def blockOver (s : State) (b : Nat) (x : Block) : Bool :=
  (x.gangs.all fun id => match s.gang? id with
    | some g => g.killed
    | none => true) &&
  s.quarters.all fun q => q.2.matrix.all fun op => op.block != b

/-- What a killed gang has performed is in memory before it leaves: its combined block counts, and stores that its block or cluster has
seen (R259, R339). -/
def leaveMemory (s : State) (id : Nat) : State := settleShown (writeOutBbc s id) id

/-- A block that is over leaves its CU; its killed gangs free their slots (R374), and its grid counts it. Combined counts that meet a moving
or absent tile are waited for (R195). -/
def endBlock (s0 : State) (b : Nat) : State :=
  match s0.block? b with
  | none => s0
  | some x =>
    let s := if blockOver s0 b x then x.gangs.foldl leaveMemory s0 else s0
    if !blockOver s0 b x || x.gangs.any fun id => bbcOwed s id (48 * x.die + x.cu) then s
    else
      let blocks := drop s.blocks b
      { s with
        gangs := s.gangs.filter fun g => g.2.block != b
        blocks := blocks
        clusters := s.clusters.filter fun c => c.1 != x.cluster || c.2.blocks.any fun k => (find blocks k).isSome
        grids := change s.grids x.grid fun g =>
          if x.task then { g with tasks := g.tasks - 1 } else { g with live := g.live - 1 } }

/-- A gang has ended and owes nothing (R153). -/
def gangGone (s : State) (id : Nat) (g : Gang) : Bool :=
  g.liveLanes == 0 && ((List.range 4).all fun k => g.kcOf k == 0) && g.accesses.isEmpty && g.remotes.isEmpty && g.contribs.isEmpty &&
  g.copies.isEmpty && g.sampled.isEmpty && !(hasHeld s id g.cuKey fun _ => true) && !bbcOwed s id g.cuKey

/-- GANG_END (R153): the gang's slot and rows are free; a block whose last gang it was has ended (R374). -/
def execGangEnd (id : Nat) (s0 : State) : Out :=
  let s := match s0.gang? id with
    | some g => if g.liveLanes = 0 then writeOutBbc s0 id else s0
    | none => s0
  .next (match s.gang? id with
    | none => s
    | some g =>
      if g.killed then endBlock s g.block
      else if gangGone s id g then endBlock (stopRuns { s with gangs := drop s.gangs id } id) g.block
      else s)

/-- The CUs of a die from which a CU steals, in order: the rest of its vat after its own, then the vats nearest in number (R290). -/
def stealOrder (cu : Nat) : List Nat :=
  let d := 48 * (cu / 48)
  let c := cu % 48
  let v := c / 4
  let own := (List.range 3).map fun i => 4 * v + (c % 4 + 1 + i) % 4
  let others := (List.range 12).flatMap fun k =>
    (if k != 0 && k ≤ v then [v - k] else []) ++ (if k != 0 && v + k < 12 then [v + k] else [])
  (own ++ others.flatMap fun w => (List.range 4).map (4 * w + ·)).map (d + ·)

/-- A context has a block on a CU. -/
def residentOn (s : State) (ctx cu : Nat) : Bool := s.blocks.any fun b => b.2.ctx == ctx && 48 * b.2.die + b.2.cu == cu

/-- The oldest task of a CU is one that another CU may steal: of a context resident there (R290). -/
def mayLose (s : State) (thief c : Nat) : Bool := match (s.cu c).tasks.head? with
  | some t => residentOn s t.ctx thief
  | none => false

/-- A spilled task may come to a CU: it has not left its die (R290). -/
def Task.mayCome (t : Task) (cu : Nat) : Bool := match t.die with
  | some d => d == cu / 48
  | none => true

/-- The task a CU takes next: its own newest, the oldest of the first CU in stealing order that it may steal from, or the oldest that was
spilled; and the state without it (R290). -/
def nextTask (s : State) (cu : Nat) : Option (Task × State) :=
  match (s.cu cu).tasks.getLast? with
  | some t => some (t, s.setCu cu { s.cu cu with tasks := (s.cu cu).tasks.dropLast })
  | none => match (stealOrder cu).find? (mayLose s cu) with
    | some c => (s.cu c).tasks.head?.map fun t => (t, s.setCu c { s.cu c with tasks := (s.cu c).tasks.drop 1 })
    | none => match s.contexts.find? fun x => x.2.taskSpilled.any fun t => t.mayCome cu with
      | some x => (x.2.taskSpilled.find? fun t => t.mayCome cu).map fun t =>
          (t, s.onCtx x.1 fun y => { y with taskSpilled := y.taskSpilled.erase t })
      | none => none

/-- The task fits on a quarter of a CU (R290). -/
def taskFits (s : State) (cu q slot : Nat) (b : List W64) : Bool :=
  (s.cu cu).emergency.isNone && decide (spadPart (lbSpb b :: spadsOn s cu) ≤ 458752) &&
  decide (rowsInUse s (4 * cu + q) + lbRows b ≤ 512) && decide (tilesInUse s (4 * cu + q) + lbTiles b ≤ 16) &&
  q < 4 && slot < 16 && !(slotsUsed s (4 * cu + q)).contains slot

/-- A task leaves its grid (R290). -/
def dropTask (s : State) (t : Task) : State := { s with grids := change s.grids t.grid fun g => { g with tasks := g.tasks - 1 } }

/-- An uncorrectable error in a record or entry that a part of the device has met is marked (R198). -/
def markMiss (s : State) (ctx : Nat) (p : W64) (m : Miss) : State := match m with
  | .damaged t => markDamaged s ctx (ptrObj p) t
  | _ => s

/-- TASK_DISPATCH (R290): the next task enters a free shadow slot, its rows, tiles and scratchpad reserved. A launch block that is not
resident is waited for; one that faults drops the task with a record. -/
def execTaskDispatch (cu q slot : Nat) (s : State) : Out :=
  .next (if 8 ≤ (s.cu cu).shadows.length then s else match nextTask s cu with
    | none => s
    | some (t, s1) => match objectWords s cu t.ctx t.ptr 16 with
      | .error (.notres _ _) => s
      | .error (.hold _) => s
      | .error m =>
        let c := m.code.getD (.memue, 0)
        dropTask (appendRecord (markMiss s1 t.ctx t.ptr m) cu t.ctx 2 c.1.num t.exitPc 0 t.ptr) t
      | .ok b =>
        if taskFits s cu q slot b then
          s1.setCu cu { s1.cu cu with shadows := (s1.cu cu).shadows ++
            [⟨t, b, q, slot, (List.range 4).filter fun j => lbSource b j != 0, [], none⟩] }
        else s)

/-- The places of an input range of a task in a shadow slot: its source, within its scratchpad (R237, R290). -/
def inputPlaces (s : State) (cu : Nat) (x : Shadow) (j : Nat) : Except Miss (List Place) :=
  if lbSpb x.words < lbOffset x.words j + lbLength x.words j then .error (.fault .oos 2)
  else match translateFrom s cu x.task.ctx (lbSource x.words j) .read 0 (lbLength x.words j) with
    | .error m => .error m
    | .ok ps => if ps.any (placePoisoned s) then .error (.fault .memue 0) else .ok ps

/-- An input range is copied, waits, or leaves its fault to the task (R290). -/
def copyInput (cu : Nat) (a : State × Shadow) (j : Nat) : State × Shadow :=
  let s := a.1
  let x := a.2
  match inputPlaces s cu x j with
  | .ok ps =>
    let r := pieceBytes s [] ps ps
    let at_ := lbOffset x.words j
    (r.1, { x with
      inputs := x.inputs.erase j
      spad := ((List.range r.2.length).zip r.2).foldl (fun m b => setAt 0 m (at_ + b.1) b.2.2) x.spad })
  | .error (.notres t _) => (countDie (dropEntry s cu x.task.ctx (ptrObj (lbSource x.words j)) t) (cu / 48) 38 1, x)
  | .error (.hold _) => (s, x)
  | .error m =>
    let c := m.code.getD (.memue, 0)
    (markMiss s x.task.ctx (lbSource x.words j) m, { x with inputs := x.inputs.erase j, fault := x.fault.or (some (c.1.num, j)) })

/-- The special values of a task's gang (R289). -/
def taskSpecial (s : State) (x : Shadow) : Special :=
  let n := lbLanes x.words
  ⟨0, [lbTag x.words, 0, 0], [0, 0, 0], [1, 1, 1], [n, 1, 1], lbRole x.words, (match s.grid? x.task.grid with
    | some g => g.rank
    | none => 0), word n, n⟩

/-- A task starts: a block of one gang, its inputs in its scratchpad (R28, R289). It comes after the release of the EXIT that made it
runnable: no older value remains in its CU's L1 (R153, R260). -/
def startTask (s : State) (cu : Nat) (x : Shadow) : State :=
  let e := match versionEntry s cu x.task.ctx x.task.vtab x.task.ver with
    | .ok (some e) => e
    | _ => []
  let q := 4 * cu + x.quarter
  let mir := khMir e && decide (lbRows x.words ≤ 256) && decide (rowsInUse s q + lbRows x.words ≤ 512)
  let s1 := invalidateL1 (s.setCu cu { s.cu cu with shadows := (s.cu cu).shadows.erase x }) cu
  let b := s1.fresh
  let l : Launch := ⟨x.task.ctx, x.task.grid, lbPrio x.words, lbEntry x.words, lbRows x.words, lbWindow x.words, x.task.ver, khC16 e,
    khProt e, x.task.vtab, x.words.drop 12⟩
  let g := { startGang s1 l (taskSpecial s x) b cu x.quarter x.slot mir with carried := x.fault }
  let blk : Block := ⟨x.task.grid, x.task.ctx, lbTag x.words, b + 1, 0, cu / 48, cu % 48, x.quarter, [b + 2], lbSpb x.words,
    lbTiles x.words, x.spad, [], [], [], [], [], [], [], mir, true⟩
  { s1 with
    fresh := b + 3
    gangs := put s1.gangs (b + 2) g
    blocks := put s1.blocks b blk
    clusters := put s1.clusters (b + 1) ⟨x.task.grid, [b], [], []⟩ }

/-- TASK_RUNNABLE (R290): inputs that can be copied are, and the task is runnable once none is left. -/
def execTaskRunnable (cu slot : Nat) (s : State) : Out :=
  .next (match (s.cu cu).shadows[slot]? with
    | none => s
    | some x =>
      let r := x.inputs.foldl (copyInput cu) (s, x)
      let s1 := r.1.setCu cu { r.1.cu cu with shadows := (r.1.cu cu).shadows.map fun y => if y = x then r.2 else y }
      if r.2.inputs.isEmpty then startTask s1 cu r.2 else s1)

/-- A declined sub-tile counts as a fault of the task inputs that wait for it (R290). -/
def declineInputs (ctx obj tile sub : Nat) (s : State) (cu : Nat) : State :=
  let waits (x : Shadow) (j : Nat) : Bool := ptrObj (lbSource x.words j) == obj && match inputPlaces s cu x j with
    | .error (.notres t k) => t == tile && k == sub
    | _ => false
  let one (x : Shadow) : Shadow :=
    if x.task.ctx != ctx then x
    else match x.inputs.find? (waits x) with
      | none => x
      | some j => { x with
          inputs := x.inputs.filter fun j => !waits x j, fault := x.fault.or (some (Code.num .notres, j)) }
  if (s.cu cu).shadows.isEmpty then s else s.setCu cu { s.cu cu with shadows := (s.cu cu).shadows.map one }

/-- FAULT_DECLINE (R235, R290, R372, R373). -/
def execFaultDecline (ctx obj tile sub : Nat) (s : State) : Out :=
  let s1 := declineSubTile ctx obj tile sub s
  .next ((s1.cus.map Prod.fst).foldl (declineInputs ctx obj tile sub) s1)

end Sys2Proof.Machine
end

