-- ==== Sys2Proof/Machine/Relocate.lean ====
section
/-! DEFINITION. Shootdowns, relocation, the rebuild of damaged records and entries, and scrubbing (R190, R195 to R198, R215, R221). -/

namespace Sys2Proof.Machine

/-- An object record written, with its mirror copy (R186). -/
def putRecord (s : State) (x : Context) (obj : Nat) (r : Record) : State :=
  let s1 := serviceWrite s (recordAt x obj) (wordsBytes r)
  if r.mirror = 0 then s1 else serviceWrite s1 r.mirror (wordsBytes r)

/-- A record with another state. -/
def Record.withState (r : Record) (st : Nat) : Record :=
  word (fld (r.w 0) 63 32 * 2 ^ 32 + st * 2 ^ 29 + fld (r.w 0) 28 0) :: r.drop 1

/-- The first location of an entry's tile (R189, R200). -/
def entBase (sysm : Bool) (e : W64) : Key := if sysm then hostKey (entryFrame true e * 4096) else entFrame e * 65536

/-- A location lies in a tile of an object that has a place. -/
def objectHas (s : State) (r : Record) (k : Key) : Bool :=
  (List.range r.tmlen).any fun j =>
    let e := entryNow s r j
    (entState r.sysm e == 1 || entState r.sysm e == 2) && keySpan (entBase r.sysm e) r.tileBytes k

/-- Line tiles are written back and leave every L1 and L2. -/
def dropLines (s : State) (p : Key → Bool) : State := forgetL1 (writeBack s p) p

/-- Variables that Rennets hold return to their home lines. -/
def rennetHome (s : State) (p : Key → Bool) : State :=
  let out := s.dies.flatMap fun d => (d.2.rennet ++ d.2.overflow).filter fun e => p e.1
  let t := { s with dies := s.dies.map fun d => (d.1, { d.2 with
    rennet := d.2.rennet.filter fun e => !p e.1
    overflow := d.2.overflow.filter fun e => !p e.1 }) }
  out.foldl (fun t e => (List.range 8).foldl (fun t i => memWrite t (e.1 + i) (byteAt e.2 i)) t) t

/-- What a shootdown waits for is performed, as far as its order lets it be (R190). -/
def drainAll (s : State) : State := (s.gangs.map Prod.fst).foldl drain s

/-- The in-flight counters of the old epoch parity are zero on every CU (R190). -/
def epochQuiet (s : State) : Bool := s.gangs.all fun g => inFlight s g.2.cuKey (epochOf s g.2.cuKey) == 0

/-- A shootdown, complete (R190): the accesses in flight under the old epoch have been performed, and no cache holds the object's old
record or entries. The line tiles and Rennet variables of a retired object go with them (R199). None while an access in flight waits for
something else. -/
def shootdownAll (s : State) (ctx obj : Nat) : Option State :=
  let s1 := drainAll s
  if !epochQuiet s1 then none
  else
    let s2 := shootdownObject s1 ctx obj
    let s3 := match s2.ctx? ctx with
      | none => s2
      | some x =>
        let r := recordNow s2 x obj
        if r.state = 4 then rennetHome (dropLines s2 (objectHas s2 r)) (objectHas s2 r) else s2
    some { s3 with publishing := s3.publishing.filter (· != (ctx, obj)) }

/-- SHOOTDOWN (R190). -/
def execShootdown (ctx obj : Nat) (s : State) : Out := .next ((shootdownAll s ctx obj).getD (drainAll s))

/-- Sectors poisoned (R221). -/
def addPoison (s : State) (ss : List Nat) : State :=
  { s with
    poison := (ss.filter fun p => !s.poison.contains p) ++ s.poison
    mended := s.mended.filter fun w => !ss.contains (w / 16) }

/-- One sector copied, poison with it (R221). -/
def copySector (s : State) (src dst : Key) : State :=
  let t := serviceWrite s dst ((List.range 128).map fun i => coherent s (src + i))
  if poisoned s src then addPoison t [dst / 128] else t

/-- One request of a budget class for each 256 bytes from a location on, on the dies that home them (R340). -/
def chargeSpan (s : State) (n : Nat) (k len : Nat) : State :=
  (List.range ((len + 255) / 256)).foldl (fun s i => chargeBudget s (homeDie ((k + 256 * i) % 2 ^ 40)) n 1) s

/-- Sectors copied to a new place, of which no L1 holds a line, within the relocation budget (R195, R340). -/
def copySectors (s0 : State) (src dst n : Nat) : State :=
  let s := chargeSpan s0 1 src (128 * n)
  forgetL1 ((List.range n).foldl (fun s i => copySector s (src + 128 * i) (dst + 128 * i)) s) (keySpan dst (128 * n))

/-- An object whose record is whole, still and valid, with no change of it under way. -/
def settledRecord (s : State) (ctx obj : Nat) : Option (Context × Record) :=
  match s.ctx? ctx with
  | none => none
  | some x =>
    let r := recordNow s x obj
    if x.otLen ≤ obj || s.publishing.contains (ctx, obj) || (s.rebuilds.any fun b => b.ctx == ctx && b.obj == obj) ||
        damagedAt s (recordAt x obj) 128 || r.state != 1 || !r.wf then none
    else some (x, r)

/-- The mirroring of the Rind range a frame lies in. -/
def mirroredFrame (s : State) (frame : Nat) : Bool := (mirrorOf s.rind (frame * 65536)).isSome

/-- Steps 1 to 4 of the move of a residency tile (R195). While accesses in flight wait for something else, it has not begun. -/
def moveTile (s : State) (ctx obj : Nat) (r : Record) (tile target : Nat) : State :=
  let e := entryNow s r tile
  let new := makeEntry r.sysm 1 0 target 0
  if r.tmlen ≤ tile || damagedAt s (r.tmap + 8 * tile) 8 || entDamaged r.sysm e || entState r.sysm e != 1 || entDamaged r.sysm new ||
      (!r.sysm && (!frameAllowed s r.du target || mirroredFrame s target != mirroredFrame s (entFrame e))) then s
  else
    let moving := makeEntry r.sysm 2 (entGen r.sysm e) (entryFrame r.sysm e) (fld e 15 0)
    let a := entBase r.sysm e
    let b := entBase r.sysm new
    match shootdownAll (putEntry s r tile moving) ctx obj with
    | none => drainAll s
    | some s1 =>
      let s2 := rennetHome (dropLines s1 (keySpan a r.tileBytes)) (keySpan a r.tileBytes)
      let s3 := if r.sysm then copySectors s2 a b 32
        else ((List.range 16).filter (entPresent e)).foldl (fun s k => copySectors s (a + 4096 * k) (b + 4096 * k) 32) s2
      { s3 with moves := s3.moves ++ [⟨ctx, obj, some tile, target⟩] }

/-- A tile-map entry as a move of its map copies it: one with an uncorrectable error stays so, by a reserved state (R189, R198). -/
def movedEntry (s : State) (r : Record) (j : Nat) : W64 :=
  let e := entryNow s r j
  if damagedAt s (r.tmap + 8 * j) 8 then makeEntry r.sysm 15 (entGen r.sysm e) (entryFrame r.sysm e) (fld e 15 0) else e

/-- Steps 1 to 4 of the move of a record with its tile map (R195). -/
def moveMap (s : State) (ctx obj : Nat) (x : Context) (r : Record) (target : Nat) : State :=
  if target % 8 != 0 || 2 ^ 40 < target + 8 * r.tmlen then s
  else match shootdownAll (putRecord s x obj (r.withState 2)) ctx obj with
    | none => drainAll s
    | some s1 =>
      let s2 := (List.range r.tmlen).foldl (fun s j =>
        mend (serviceWrite s (target + 8 * j) (w64Bytes (movedEntry s1 r j))) (target + 8 * j)) (chargeSpan s1 1 r.tmap (8 * r.tmlen))
      { s2 with moves := s2.moves ++ [⟨ctx, obj, none, target⟩] }

/-- RELOCATION (R195, R197): a second move of a tile begins after the first publishes. -/
def execRelocation (ctx obj : Nat) (tile : Option Nat) (target : Nat) (s : State) : Out :=
  .next (match settledRecord s ctx obj with
    | none => s
    | some (x, r) => match tile with
      | some j => if s.moves.any fun m => m.ctx == ctx && m.obj == obj && m.tile == some j then s else moveTile s ctx obj r j target
      | none => if s.moves.any fun m => m.ctx == ctx && m.obj == obj then s else moveMap s ctx obj x r target)

/-- Contribution counters follow the bytes of their line tiles (R196, R338). -/
def moveCounters (s : State) (a b n : Nat) : State :=
  let out := s.dies.flatMap fun d => d.2.counters.filter fun c => keySpan a n c.line
  let t := { s with dies := s.dies.map fun d => (d.1, { d.2 with counters := d.2.counters.filter fun c => !keySpan a n c.line }) }
  out.foldl (fun s c =>
    let k := b + (c.line - a)
    let d := homeDie k
    s.setDie d { s.die d with counters := (s.die d).counters ++ [{ c with line := k }] }) t

/-- A move's publication (R195). That of an object which has been retired meanwhile publishes nothing (R197). -/
def publishMove (s : State) (m : Move) : State :=
  match s.ctx? m.ctx with
  | none => s
  | some x =>
    let r := recordNow s x m.obj
    match m.tile with
    | none =>
      if r.state != 2 then s
      else
        let r' := (r.take 7) ++ [word m.target] ++ r.drop 8
        putRecord s x m.obj (Record.withState r' 1)
    | some j =>
      let e := entryNow s r j
      let new := makeEntry r.sysm 1 (entGen r.sysm e + 1) m.target (fld e 15 0)
      if (r.state != 1 && r.state != 2) || entState r.sysm e != 2 then s
      else moveCounters (putEntry s r j new) (entBase r.sysm e) (entBase r.sysm new) r.tileBytes

/-- What waited outside for a publication is taken up again, oldest first (R195, R196). -/
def releaseOutside (s : State) : State := { s with agenda := s.outside.map .event ++ s.agenda, outside := [] }

/-- RELOCATION_PUBLISH (R195): every access held for the move is reissued, and so are the flags that a Rennet has still to write. -/
def execRelocationPublish (ctx obj : Nat) (tile : Option Nat) (s : State) : Out :=
  .next (match s.moves.find? fun m => m.ctx == ctx && m.obj == obj && m.tile == tile with
    | none => s
    | some m => releaseOutside <| retryFlags (reissueAll { publishMove s m with moves := s.moves.erase m } fun h => !h.notres))

/-- The other copy of bytes in a mirrored Rind range or in the partner of one, where it is intact (R215). -/
def rindCopy (s : State) (pa n : Nat) : Option (List Byte) :=
  (List.range n).mapM fun i => match (mirrorOf s.rind (pa + i)).or (originOf s.rind (pa + i)) with
    | some k => if poisoned s k || crcFails s k then none else some (memRead s k)
    | none => none

/-- The copy that a damaged record is rebuilt from: that of its mirrored range, or the one its mirror field names (R198). -/
def recordCopy (s : State) (pa : Nat) (r : Record) : Option (List Byte) :=
  (rindCopy s pa 128).or (if r.mirror = 0 || damagedAt s r.mirror 128 then none else some (coherentBytes s r.mirror 128))

/-- The copy that a damaged entry is rebuilt from: that of its mirrored range, or that of the map a shared object keeps (R198). -/
def entryCopy (s : State) (pa : Nat) (r : Record) : Option (List Byte) :=
  (rindCopy s pa 8).or (if r.shared && !entDamaged r.sysm (coherentW64 s pa) then some (coherentBytes s pa 8) else none)

/-- The record or entry of a rebuild still carries its error: none that the object service has written since does. -/
def stillDamaged (s : State) (b : Rebuild) (r : Record) : Bool :=
  damagedAt s b.addr (if b.tile.isSome then 8 else 128) || (b.tile.isSome && entDamaged r.sysm (coherentW64 s b.addr))

/-- A rebuild (R198): from an intact copy, or the record's or entry's state becomes poisoned. The other entries of an entry's sector keep
their errors. -/
def rebuild (s : State) (b : Rebuild) (intact : Bool) : State :=
  match s.ctx? b.ctx with
  | none => s
  | some x =>
    let r := recordNow s x b.obj
    if !stillDamaged s b r then s
    else match b.tile with
      | none => serviceWrite s b.addr (((if intact then recordCopy s b.addr r else none)).getD (wordsBytes (r.withState 3)))
      | some _ =>
        let e := coherentW64 s b.addr
        mend (serviceWrite s b.addr (((if intact then entryCopy s b.addr r else none)).getD
          (w64Bytes (makeEntry r.sysm 3 (entGen r.sysm e) (entryFrame r.sysm e) (fld e 15 0))))) b.addr

/-- RECORD_REBUILD (R198): after publication the held accesses proceed. -/
def execRecordRebuild (ctx obj : Nat) (tile : Option Nat) (intact : Bool) (s : State) : Out :=
  .next (match s.rebuilds.find? fun b => b.ctx == ctx && b.obj == obj && b.tile == tile with
    | none => s
    | some b =>
      let rest := s.rebuilds.filter fun c => c.addr != b.addr
      releaseOutside <| retryFlags (reissueAll (shootdownObject { rebuild s b intact with rebuilds := rest } ctx obj) fun h => !h.notres))

/-- An uncorrectable sector: repaired from an intact copy and counted as corrected, or poisoned; in a Rind range or its partner the whole
256-byte block is (R215, R221). -/
def sectorBad (s : State) (sector : Nat) : State :=
  let ss := if hasCrc s (128 * sector) then [sector / 2 * 2, sector / 2 * 2 + 1] else [sector]
  match rindCopy s (128 * (ss.headD 0)) (128 * ss.length) with
  | some bs =>
    let t := ((List.range bs.length).zip bs).foldl (fun s b => memWrite s (128 * ss.headD 0 + b.1) b.2) s
    countError { t with poison := t.poison.filter fun p => !ss.contains p } 0
  | none => countError (addPoison s ss) 1

/-- SCRUB (R221, R340): a sector of HBM is rewritten, or found uncorrectable, as a Rind block is whose CRC fails; no trap is raised. -/
def execScrub (sector : Nat) (uncorrectable : Bool) (s : State) : Out :=
  .next (if !inHbm (128 * sector) then s
    else
      let t := chargeBudget s (homeDie (128 * sector)) 3 1
      if uncorrectable || crcFails t (128 * sector) then sectorBad t sector
      else if s.poison.contains sector then t else countError t 0)

/-- A byte of HBM changes unseen by ECC. In a Rind range, or its partner, the next read of its block finds the CRC to fail; what that does
is done at once, and nothing can be seen between (R215). -/
def upsetByte (s : State) (k : Nat) (b : Byte) : State :=
  if !hasCrc s k then s
  else
    let t := { s with mem := writeByte s.mem k b }
    if crcFails t k then sectorBad t (k / 128) else t

end Sys2Proof.Machine
end

