-- ==== Sys2Proof/Machine/Transfer.lean ====
section
/-! DEFINITION. The transfer sequencer: version maps, the checks and steps of a transfer, and the release of parked strands (R298 to R307,
R405, R406). -/

namespace Sys2Proof.Machine

/-- A value descriptor of a map entry (R300). -/
structure ValueDesc where
  id : Nat
  kind : Nat
  code : Bool
  loc : Nat
  arg : W64
  deriving DecidableEq, Repr

/-- A map entry (R299); a relocation is a source offset, a target offset and a length. -/
structure MapEntry where
  n : Nat
  pc : Nat
  mode : W32
  mv : Bool
  kr : Nat
  descs : List ValueDesc
  rels : List (Nat × Nat × Nat)
  deriving DecidableEq, Repr

/-- A site (R301). -/
structure Site where
  sid : Nat
  n : Nat
  pc : Nat
  kind : Nat
  cont : Nat
  deriving DecidableEq, Repr

/-- A version map read whole (R298). -/
structure VersionMap where
  entries : List MapEntry
  sites : List Site
  deriving DecidableEq, Repr

/-- What stops the sequencer: it waits, or refuses the request with a code of R304. -/
inductive Blocked where
  | wait
  | refuse (code : Nat)
  deriving DecidableEq, Repr

/-- A value descriptor of its two words. -/
def valueDesc (a b : W64) : ValueDesc := ⟨fld a 63 48, fld a 47 44, a.getLsbD 40, fld a 39 0, b⟩

/-- A descriptor is well formed for a version whose window and scratchpad are given (R300). -/
def descOk (window spb : Nat) (a : W64) (d : ValueDesc) : Bool :=
  fld a 43 41 == 0 && match d.kind with
  | 0 => decide (d.loc < window) && d.loc < 128 && d.arg == 0
  | 1 => d.loc < 16 && d.arg == 0
  | 2 => decide (d.loc + 256 ≤ spb) && decide (d.loc < 2 ^ 32) && d.arg == 0
  | 3 => d.loc == 0
  | 4 => d.loc == 0 && fld d.arg 15 10 == 0 && fld d.arg 9 8 ≤ 3 &&
      ((List.range 3).all fun j => decide (j < fld d.arg 9 8) || fld d.arg (16 * j + 31) (16 * j + 16) == 0)
  | 5 => d.loc < 24 && d.arg == 0
  | 6 => d.loc < 8 && d.arg == 0
  | _ => false

/-- No number occurs twice in a list. -/
def distinct (l : List Nat) : Bool := decide (l.eraseDups.length = l.length)

/-- The map entry that a directory names, from its words: the head, then descriptors and relocations; none where it is not well formed
(R299). -/
def parseEntry (window spb n : Nat) (h ws : List W64) : Option MapEntry :=
  let w := fun i => h.getD i 0
  let nval := fld (w 1) 15 0
  let nrel := fld (w 1) 31 16
  let descs := (List.range nval).map fun i => (ws.getD (2 * i) 0, valueDesc (ws.getD (2 * i) 0) (ws.getD (2 * i + 1) 0))
  let rels := (List.range nrel).map fun i => (ws.getD (2 * (nval + i)) 0, ws.getD (2 * (nval + i) + 1) 0)
  let ok := fld (w 0) 63 52 == n && fld (w 0) 51 36 == 0 && goodPc (word (fld (w 0) 35 0)) && fld (w 2) 63 33 == 0 && w 3 == 0 &&
    ((List.range 4).all fun k => fld (w 2) (8 * k + 7) (8 * k + 5) == 0) &&
    (descs.all fun d => descOk window spb d.1 d.2) && distinct (descs.map fun d => d.2.id) &&
    rels.all fun r => fld r.2 63 32 == 0 && decide (fld r.1 31 0 + fld r.2 31 0 ≤ spb) && decide (fld r.1 63 32 + fld r.2 31 0 ≤ spb)
  if ok then some ⟨n, fld (w 0) 35 0, word32 (fld (w 1) 63 32), (w 2).getLsbD 32, fld (w 2) 31 0, descs.map Prod.snd,
    rels.map fun r => (fld r.1 31 0, fld r.1 63 32, fld r.2 31 0)⟩
  else none

/-- A site of its two words; none where it is not well formed (R301). -/
def parseSite (a b : W64) : Option Site :=
  let k := fld b 63 62
  if k == 3 || fld b 61 36 != 0 || (k != 0 && fld b 35 0 != 0) || !goodPc (word (fld a 35 0)) ||
      (k == 0 && !goodPc (word (fld b 35 0))) then none
  else some ⟨fld a 63 48, fld a 47 36, fld a 35 0, k, fld b 35 0⟩

/-- Words of a map: not resident or moving is waited for, any other fault makes the map bad. -/
def mapWords (s : State) (g : Gang) (p : W64) (k : Nat) : Except Blocked (List W64) :=
  match objectWords s g.cuKey g.ctx p k with
  | .ok ws => .ok ws
  | .error (.notres _ _) => .error .wait
  | .error (.hold _) => .error .wait
  | .error _ => .error (.refuse 6)

/-- A required part of a map. -/
def wellFormed {α : Type} : Option α → Except Blocked α
  | some x => .ok x
  | none => .error (.refuse 6)

/-- One entry of a map read and checked. -/
def readEntry (s : State) (g : Gang) (map : W64) (window spb : Nat) (d : W64) : Except Blocked MapEntry :=
  match mapWords s g (map + word (fld d 39 0)) 4 with
  | .error b => .error b
  | .ok h => match mapWords s g (map + word (fld d 39 0 + 32)) (2 * (fld (h.getD 1 0) 15 0 + fld (h.getD 1 0) 31 16)) with
    | .error b => .error b
    | .ok ws => wellFormed (if fld d 51 40 = 0 then parseEntry window spb (fld d 63 52) h ws else none)

/-- Numbers rise strictly. -/
def rises : List Nat → Bool
  | a :: b :: rest => decide (a < b) && rises (b :: rest)
  | _ => true

/-- A map object read whole; a pointer of 0 names a map with nothing in it (R298). -/
def readMap (s : State) (g : Gang) (map : W64) (window spb : Nat) : Except Blocked VersionMap :=
  if map = 0 then .ok ⟨[], []⟩
  else match mapWords s g map 8 with
    | .error b => .error b
    | .ok h =>
      let w := fun i => h.getD i 0
      if fld (w 0) 63 48 != 0x4B4D || fld (w 0) 47 16 != 0 || fld (w 1) 47 40 != 0 || !((h.drop 2).all fun x => x == 0) then
        .error (.refuse 6)
      else match mapWords s g (map + 64) (fld (w 0) 15 0), mapWords s g (map + word (fld (w 1) 39 0)) (2 * fld (w 1) 63 48) with
        | .error b, _ => .error b
        | _, .error b => .error b
        | .ok dir, .ok sw =>
          if !rises (dir.map fun d => fld d 63 52) then .error (.refuse 6)
          else match allOk (dir.map (readEntry s g map window spb)),
              wellFormed ((List.range (fld (w 1) 63 48)).mapM fun i => parseSite (sw.getD (2 * i) 0) (sw.getD (2 * i + 1) 0)) with
            | .error b, _ => .error b
            | _, .error b => .error b
            | .ok es, .ok ss => .ok ⟨es, ss⟩

/-- The entry of a safe point (R298). -/
def VersionMap.entry (m : VersionMap) (n : Nat) : Option MapEntry := m.entries.find? fun e => e.n == n

/-- The kind of site a lane may be parked on: 0 at a YIELDW, 1 at a JOIN (R301). -/
def siteKind : Park → Option Nat
  | .yieldw _ _ _ => some 0
  | .join => some 1
  | _ => none

/-- A lane's site in the running version, and the target's site of the same id and kind, when the target describes its point (R301). -/
def siteOf (src tgt : VersionMap) (g : Gang) (l : Nat) : Option (Site × Site) :=
  match siteKind (g.parkOf l) with
  | none => none
  | some k => match src.sites.find? fun x => x.kind == k && x.pc == ptrOff (g.pcOf l) with
    | none => none
    | some x => match tgt.sites.find? fun y => y.sid == x.sid && y.kind == k with
      | none => none
      | some y => if (tgt.entry x.n).isSome then some (x, y) else none

/-- A lane waits at a SAFEPT. -/
def atSafept : Park → Bool
  | .safept _ => true
  | _ => false

/-- The lanes a transfer concerns: neither exited nor halted. -/
def Gang.moving (g : Gang) : Mask := g.liveLanes &&& ~~~g.halted

/-- The strands parked at a SAFEPT go on past it (R304, R306). -/
def releaseSafepts (g : Gang) : Gang :=
  let m := maskOf fun l => lane g.moving l && atSafept (g.parkOf l)
  (g.advance m).setPark m .ready

/-- A refusal: nothing changes, and every parked strand goes on (R304). -/
def refuseTransfer (g : Gang) (code : Nat) : Gang :=
  let g1 := releaseSafepts g
  wakeCounter { g1 with gstat := setFld (setBit g1.gstat 2 false) 15 8 code, sequencing := false }

/-- A strand that is to move: its lanes, its entries in the two maps, and its site when it is parked on one. -/
structure Mover where
  lanes : Mask
  src : MapEntry
  tgt : MapEntry
  site : Option (Site × Site)

/-- The number of the SAFEPT at a PC. -/
def safeptNumber (s : State) (g : Gang) (pc : W64) : Option Nat :=
  match fetchPacket s g pc with
  | .error _ => none
  | .ok bs => match decode (slotOfPacket bs pc).2 with
    | .ok (.safept n) => some n.toNat
    | _ => none

/-- The strand of a lane as a mover; a missing entry makes the map bad (R304, R316). -/
def moverOf (s : State) (src tgt : VersionMap) (g : Gang) (l : Nat) : Except Blocked Mover :=
  let m := g.strandOf l &&& ~~~g.halted
  let x := match siteOf src tgt g l with
    | some p => (src.entry p.1.n, some p)
    | none => ((safeptNumber s g (g.pcOf l)).bind fun n => src.entries.find? fun e => e.n == n && e.pc == ptrOff (g.pcOf l), none)
  match x.1 with
  | none => .error (.refuse 6)
  | some e => match tgt.entry e.n with
    | none => .error (.refuse 6)
    | some t => .ok ⟨m, e, t, x.2⟩

/-- The strands of a gang that move, by their lowest lanes. -/
def movers (s : State) (src tgt : VersionMap) (g : Gang) : Except Blocked (List Mover) :=
  allOk (((lanesOf g.moving).filter fun l => lowestLane (g.strandOf l &&& ~~~g.halted) == l).map (moverOf s src tgt g))

/-- The conditions of R304 that precede the maps: NOVER, FOOTPRINT, WINDOW, WIDTH and HALTED (R351). -/
def transferCheck (s : State) (g : Gang) (w : List W64) : Option Nat :=
  let fp := verFoot w
  let b := s.block? g.block
  let pool := (b.map fun x => getAt 0 x.pool g.quarter).getD 0
  let more := fpRows fp - g.nrows
  if decide ((b.map Block.spb).getD 0 < fpSpb fp) || decide (tilesFor s g < fpTiles fp) || !rowsOk (fpRows fp) (fpWindow fp) ||
      decide (pool < more) || (g.mir && decide (512 < rowsInUse s g.qKey + more)) ||
      decide (fpWindow fp < khWneed w) || decide (tilesFor s g < khTneed w) then some 2
  else if g.wb != 0 && (fpWindow fp != g.wsize || fpRows fp != g.nrows) then some 3
  else if (khProt w && !g.prot && g.liveLanes &&& 0xFFFF0000 != 0) || (khC16 w && khProt w) then some 4
  else if g.liveLanes &&& g.halted != 0 then some 5
  else none

/-- Counter class k may go on: it carries, or has fallen to the least threshold of the entries that drain it (R302 step 2). -/
def drained (g : Gang) (ms : List Mover) (k : Nat) : Bool :=
  ms.all fun m => [m.src.kr, m.tgt.kr].all fun r => !(bits r (8 * k + 4) (8 * k + 4) == 1) || decide (g.kcOf k ≤ bits r (8 * k + 3) (8 * k))

/-- Eight bytes of the gang's scratchpad. -/
def spadWord (s : State) (g : Gang) (o : Nat) : W64 :=
  match s.block? g.block with
  | some b => bytesW64 ((List.range 8).map fun i => getAt 0 b.spad (o + i))
  | none => 0

/-- The value a source descriptor of kind 0, 1, 2, 3, 5 or 6 names in a lane, with its register state (R300). -/
def placeValue (s : State) (g : Gang) (d : ValueDesc) (l : Nat) : Reg :=
  let full (v : W64) : Reg := ⟨v, .full⟩
  match d.kind with
  | 0 => g.reg d.loc l
  | 1 => g.reg (112 + d.loc) 0
  | 2 => full (spadWord s g (d.loc + 8 * g.visible l))
  | 5 => full (if lane (g.pred d.loc) l then 1 else 0)
  | 6 => full ((getAt 0 g.cb d.loc).setWidth 64)
  | _ => full d.arg

/-- A recipe's value in the lanes of a strand, its parameters already fetched (R307). -/
def recipeValue (s : State) (id : Nat) (g : Gang) (m : Mover) (slot : Nat) (params : List (Nat → Reg)) : Except Blocked (Nat → Reg) :=
  let mode := if m.src.mv then m.src.mode else g.mode
  let g0 : Gang := { g with v := [], wb := 0, lrow := 0, nrows := 112, wsize := 112, mode := mode, gstat := setBit g.gstat 4 false }
  let rows := ((List.range params.length).zip params).foldl (fun (g : Gang) p =>
    (lanesOf m.lanes).foldl (fun g l => g.setReg (p.1 + 1) l (p.2 l)) g) g0
  let e : Env := ⟨id, ⟨id, m.lanes, g.pcOf (lowestLane m.lanes), 0, 0⟩, rows, tilesFor s g, systemContext s g⟩
  match microDecode [0, 1, 2, 3] true (slotInMemory s g.cuKey g.ctx slot) with
  | none => .error (.refuse 8)
  | some ops =>
    if !microOk e true mode ops then .error (.refuse 8)
    else match microRun e true ops ⟨rows, s.fresh, [], []⟩ with
      | none => .error .wait
      | some r => .ok fun l => ⟨(r.settleOwed).g.read 0 l, .full⟩

/-- The return offset of a value that holds a code offset, carried to the target version (R301, R302). -/
def translateCode (src tgt : VersionMap) (v : W64) : Option W64 :=
  match src.sites.find? fun x => x.kind == 2 && x.pc == fld v 35 0 with
  | none => none
  | some x => (tgt.sites.find? fun y => y.kind == 2 && y.sid == x.sid).map fun y => withOff v y.pc

/-- A value of an id fetched in the lanes of a strand: read, constant or computed (R302 step 3), and whether a recipe read a dead register
for it (R51). A recipe's parameters are no recipes
(R304). -/
def fetchId (s : State) (id : Nat) (g : Gang) (m : Mover) (recipes : Bool) (vid : Nat) : Except Blocked (ValueDesc × (Nat → Reg) × Bool) :=
  match m.src.descs.find? fun d => d.id == vid with
  | none => .error (.refuse 6)
  | some d =>
    if d.kind != 4 then .ok (d, placeValue s g d, false)
    else if !recipes then .error (.refuse 6)
    else
      let n := fld d.arg 9 8
      let ps := (List.range n).map fun j =>
        let pid := fld d.arg (16 * j + 31) (16 * j + 16)
        match m.src.descs.find? fun x => x.id == pid with
        | none => .error (.refuse 6)
        | some x => if x.kind = 4 then .error (.refuse 6) else .ok (placeValue s g x)
      match allOk ps with
      | .error b => .error b
      | .ok vs =>
        if vs.any fun v => (lanesOf m.lanes).any fun l => (v l).isEmpty then .error .wait
        else (recipeValue s id g m (fld d.arg 7 0) (vs.map fun v l => ⟨(v l).read, .full⟩)).map fun r =>
          (d, r, vs.any fun v => (lanesOf m.lanes).any fun l => decide ((v l).st = .dead))

/-- A fetched value on its way to a target descriptor. -/
structure Carry where
  lanes : Mask
  desc : ValueDesc
  /-- The s register it comes from, if it does. -/
  source : Option Nat
  val : Nat → Reg
  /-- Some lane's source was dead: the value is poison (R51). -/
  dead : Bool

/-- One target descriptor's value: a register may be carried empty to a register; elsewhere its result is waited for (R302 step 3). -/
def fetchFor (s : State) (id : Nat) (g : Gang) (src tgt : VersionMap) (m : Mover) (d : ValueDesc) : Except Blocked Carry :=
  match fetchId s id g m true d.id with
  | .error b => .error b
  | .ok (x, v, used) =>
    let empty := (lanesOf m.lanes).any fun l => (v l).isEmpty
    let dead := used || (lanesOf m.lanes).any fun l => decide ((v l).st = .dead)
    if empty && d.kind != 0 && d.kind != 1 then .error .wait
    else if x.code || d.code then
      (if empty then .error .wait
      else if (lanesOf m.lanes).all fun l => (translateCode src tgt (v l).read).isSome then
        .ok ⟨m.lanes, d, none,
          fun l => ⟨(translateCode src tgt (v l).read).getD 0, .full⟩, dead⟩
      else .error (.refuse 6))
    else .ok ⟨m.lanes, d, if x.kind = 1 then some x.loc else none,
      fun l => if (v l).isEmpty then v l else ⟨(v l).read, .full⟩, dead⟩

/-- The target descriptors that receive a value (R302 step 3). -/
def receives (d : ValueDesc) : Bool := d.kind == 0 || d.kind == 1 || d.kind == 2 || d.kind == 5 || d.kind == 6

/-- A shared place that a transfer writes: s registers, cb registers and scratchpad slots, numbered apart (R304). -/
def sharedPlace (g : Gang) (d : ValueDesc) (l : Nat) : Option Nat :=
  match d.kind with
  | 1 => some d.loc
  | 6 => some (16 + d.loc)
  | 2 => some (32 + d.loc + 8 * g.visible l)
  | _ => none

/-- What a carried value puts in a shared place: the value id, the value as the place holds it, and the s register it comes from. -/
def Carry.shared (g : Gang) (c : Carry) : List (Nat × Nat × Reg × Option Nat) :=
  (lanesOf c.lanes).filterMap fun l => (sharedPlace g c.desc l).map fun p =>
    (p, c.desc.id, if c.desc.kind = 6 then ⟨word (fld (c.val l).val 31 0), .full⟩ else c.val l, c.source)

/-- Two of some entries for one place differ. -/
def differ {α : Type} [DecidableEq α] (ps : List (Nat × α)) : Bool := ps.any fun p => match find ps p.1 with
  | some q => decide (q ≠ p.2)
  | none => false

/-- MAPBAD from the entries themselves: an id that a source entry lacks, or a recipe's parameter that it lacks or that is a recipe
(R304). -/
def badIds (ms : List Mover) : Bool :=
  let plain (m : Mover) (i : Nat) : Bool := m.src.descs.any fun d => d.id == i && d.kind != 4
  ms.any fun m => (m.tgt.descs.filter receives).any fun d => match m.src.descs.find? fun x => x.id == d.id with
    | none => true
    | some x => x.kind == 4 && (List.range (fld x.arg 9 8)).any fun j => !plain m (fld x.arg (16 * j + 31) (16 * j + 16))

/-- CONFLICT from the entries themselves: two ids for one shared place, or two modes (R304). -/
def badPlaces (g : Gang) (ms : List Mover) : Bool :=
  let modes := ((ms.filter fun m => m.tgt.mv).map fun m => m.tgt.mode).eraseDups
  decide (1 < modes.length) || differ (ms.flatMap fun m => (m.tgt.descs.filter receives).flatMap fun d =>
    (lanesOf m.lanes).filterMap fun l => (sharedPlace g d l).map fun p => (p, d.id))

/-- CONFLICT: two ids or two values for one shared place, or two modes (R304). -/
def conflicts (g : Gang) (ms : List Mover) (cs : List Carry) : Bool :=
  badPlaces g ms || differ ((cs.flatMap (Carry.shared g)).map fun p => (p.1, p.2.1, p.2.2.1.val))

/-- Values for one shared place that cannot be compared yet: an empty one beside another that does not come from the same register. -/
def unsettled (g : Gang) (cs : List Carry) : Bool :=
  let ps := cs.flatMap (Carry.shared g)
  ps.any fun p => p.2.2.1.isEmpty && match ps.filter fun q => q.1 == p.1 with
    | [_] => false
    | qs => p.2.2.2.isNone || qs.any fun q => decide (q ≠ p)

/-- Everything fetched for every strand; of several reasons to refuse, the first of R304, once no value has to be waited for. -/
def fetchAll (s : State) (id : Nat) (g : Gang) (src tgt : VersionMap) (ms : List Mover) : Except Blocked (List Carry) :=
  let rs := ms.flatMap fun m => (m.tgt.descs.filter receives).map (fetchFor s id g src tgt m)
  let cs := rs.filterMap fun r => match r with
    | .ok c => some c
    | .error _ => none
  let stops (b : Blocked) : Bool := rs.any fun r => match r with
    | .error x => decide (x = b)
    | .ok _ => false
  if stops .wait || unsettled g cs then .error .wait
  else if stops (.refuse 6) then .error (.refuse 6)
  else if conflicts g ms cs then .error (.refuse 7)
  else allOk rs

/-- The registers that take the result owed to a register, given its ticket and key. -/
abbrev Rekey := Nat → Nat → List Nat

/-- A pending result follows its registers to new places (R78). -/
def Pending.rekey (m : Rekey) (p : Pending) : Pending :=
  let x := splitKeys ((p.vs ++ p.ss.map fun x => (sKey x.1, x.2)).flatMap fun x => (m p.ticket x.1).map fun k => (k, x.2))
  { p with vs := x.1, ss := x.2 }

/-- The registers of an access in their new places, its words still in turn; a word that no longer has a register has none (R78). -/
def Access.rekey (m : Rekey) (a : Access) : Access :=
  let n := if a.size = 16 then 2 else 1
  let at_ (j : Nat) : List Nat := ((a.dests.zip (List.range a.dests.length)).filter fun d => d.2 % n == j).flatMap fun d => m a.ticket d.1
  let len := (List.range n).foldl (fun k j => max k (at_ j).length) 0
  { a with dests := (List.range len).flatMap fun i => (List.range n).map fun j => (at_ j).getD i (sKey 16) }

/-- The registers that a queued matrix instruction's results go to, in their new places (R78). -/
def MatrixOp.rekey (m : Rekey) (op : MatrixOp) : MatrixOp :=
  let old := op.moved.getD ((List.range 4).flatMap fun r => (lanesOf op.lanes).map fun l => (op.key r l, op.key r l))
  { op with moved := some (old.flatMap fun p => (m op.ticket p.2).map fun k => (p.1, k)) }

/-- Everything that a gang is still owed follows its registers (R78, R302). -/
def rekeyGang (id : Nat) (m : Rekey) (s : State) : State :=
  { s.onGang id fun g => { g with
      pending := g.pending.map (Pending.rekey m)
      accesses := g.accesses.map fun x => { x with acc := x.acc.rekey m } } with
    quarters := s.quarters.map fun (q : Nat × Quarter) =>
      if q.2.matrix.any fun op => op.gang == id then
        (q.1, { q.2 with matrix := q.2.matrix.map fun op => if op.gang = id then op.rekey m else op })
      else q }

/-- A carried value written to a gang's registers, predicates or cb registers (R300, R302 step 5). -/
def writeCarry (g : Gang) (c : Carry) : Gang :=
  let l0 := lowestLane c.lanes
  match c.desc.kind with
  | 0 => (lanesOf c.lanes).foldl (fun g l => g.setReg c.desc.loc l (c.val l)) g
  | 1 => g.setReg (112 + c.desc.loc) 0 (c.val l0)
  | 5 => g.setPred c.lanes c.desc.loc (maskOf fun l => (c.val l).val != 0)
  | 6 => { g with cb := setAt 0 g.cb c.desc.loc ((c.val l0).val.setWidth 32) }
  | _ => g

/-- The key of the register that a descriptor of kind 0 or 1 names. -/
def descKey (g : Gang) (d : ValueDesc) (l : Nat) : Nat := if d.kind = 0 then g.vKey d.loc l else sKey d.loc

/-- The registers that a carried empty value moves between, under its ticket. -/
def Carry.moves (g : Gang) (ms : List Mover) (c : Carry) : List (Nat × Nat × Nat) :=
  if c.desc.kind != 0 && c.desc.kind != 1 then []
  else (lanesOf c.lanes).filterMap fun l => match (c.val l).st with
    | .empty t => ((ms.find? fun m => lane m.lanes l).bind fun m => m.src.descs.find? fun d => d.id == c.desc.id).map fun d =>
        (t, descKey g d l, descKey g c.desc l)
    | _ => none

/-- Where a transfer takes what is owed: registers of the window and s registers as carried; those of outer frames keep theirs. -/
def transferKeys (g : Gang) (moves : List (Nat × Nat × Nat)) : Rekey := fun t k =>
  if decide (32 * g.wb ≤ k) && (decide (k < 32 * (g.wb + g.wsize)) || decide (2 ^ 32 ≤ k)) then
    (moves.filter fun m => m.1 == t && m.2.1 == k).map fun m => m.2.2
  else [k]

/-- The relocations and slot writes of a transfer on the block's scratchpad: every source byte is read first (R302 steps 4, 5). -/
def moveSpad (old : SMap Byte) (rels : List (Nat × Nat × Nat)) (slots : List (Nat × W64)) : SMap Byte :=
  let moved := rels.foldl (fun m r => (List.range r.2.2).foldl (fun m i => setAt 0 m (r.2.1 + i) (getAt 0 old (r.1 + i))) m) old
  slots.foldl (fun m x => (List.range 8).foldl (fun m i => setAt 0 m (x.1 + i) (byteAt x.2 i)) m) moved

/-- Every register, predicate and cb register made free in the lanes that move, before what is carried is written (R10, R302). -/
def freeAll (g : Gang) (s : State) : Gang × State :=
  let r0 := freshRows { g with gstat := setBit g.gstat 4 false } (rowRange g.wb (g.wb + g.wsize)) s
  let r : Gang × State := ({ r0.1 with gstat := g.gstat }, r0.2)
  let t := r.2.tick
  let w (i : Nat) : W64 := Config.freeWord (t + i)
  let g1 := (List.range 16).foldl (fun (g : Gang) i => g.setReg (112 + i) 0 ⟨w i, .full⟩) r.1
  let g2 := (List.range 24).foldl (fun (g : Gang) i => g.setPred g.liveLanes i ((w (16 + i)).setWidth 32)) g1
  let g3 : Gang := { g2 with cb := (List.range 8).foldl (fun m i => setAt 0 m i ((w (40 + i)).setWidth 32)) g2.cb }
  (g3, { r.2 with tick := t + 48 })

/-- The slots of the running version that the target leaves unnamed hold anything (R302). -/
def staleSlots (g : Gang) (ms : List Mover) (cs : List Carry) (rels : List (Nat × Nat × Nat)) (s : State) : List (Nat × W64) :=
  let old := ms.flatMap fun m => (m.src.descs.filter fun d => d.kind == 2).flatMap fun d => (lanesOf m.lanes).map fun l => d.loc + 8 * g.visible l
  let new := cs.flatMap fun c => if c.desc.kind = 2 then (lanesOf c.lanes).map fun l => c.desc.loc + 8 * g.visible l else []
  let gone := old.filter fun o => !new.contains o && rels.all fun r => decide (o + 8 ≤ r.2.1) || decide (r.2.1 + r.2.2 ≤ o)
  ((List.range gone.length).zip gone).map fun x => (x.2, Config.freeWord (s.tick + x.1))

/-- A per-lane map with the lanes of its keys moved: each new lane takes an old lane's entries; keys are n·32 + lane. -/
def moveLanes {β : Type} (f : Nat → Option Nat) (m : List (Nat × β)) : List (Nat × β) :=
  (m.flatMap fun e => laneNumbers.filterMap fun l => if f l = some (e.1 % 32) then some (e.1 / 32 * 32 + l, e.2) else none).foldl
    (fun r e => put r e.1 e.2) []

/-- A mask with its lanes moved. -/
def moveMask (f : Nat → Option Nat) (m : Mask) : Mask := maskOf fun l => match f l with
  | some k => lane m k
  | none => false

/-- The old lane that each lane takes after a change of width (R303). -/
def widthMap (enter : Bool) (l : Nat) : Option Nat := if enter then some (l / 2) else if l < 16 then some (2 * l) else none

/-- Where a change of width takes what is owed to registers (R303). -/
def widthKeys (enter : Bool) : Rekey := fun _ k =>
  if 2 ^ 32 ≤ k then [k]
  else laneNumbers.filterMap fun l => if widthMap enter l = some (k % 32) then some (k / 32 * 32 + l) else none

/-- The lane that does the work of a lane after a change of width. -/
def widthLane (enter : Bool) (l : Nat) : Nat := if enter then 2 * l else l / 2

/-- The whole gang's lanes moved on entry into protected mode, or on leaving it (R303). TLANES is no item that a transfer moves (R71). -/
def changeWidth (g : Gang) (enter : Bool) : Gang :=
  let f := widthMap enter
  let acc (a : Access) : Access := { a with lane := widthLane enter a.lane }
  let range (x : CopyLane) : CopyLane := { x with lane := widthLane enter x.lane }
  let out : Mask := if enter then 0 else 0xFFFF0000
  { g with
    v := moveLanes f g.v
    p := g.p.map fun e => (e.1, moveMask f e.2)
    cb := g.cb.map fun e => (e.1, moveMask f e.2)
    pc := moveLanes f g.pc
    exited := moveMask f g.exited ||| out
    halted := moveMask f g.halted
    haltReason := moveLanes f g.haltReason
    park := moveLanes f g.park
    handlerLanes := moveMask f g.handlerLanes
    harp := moveLanes f g.harp
    accesses := g.accesses.map fun (x : Waiting) => { x with acc := acc x.acc, before := moveMask f x.before ||| out }
    copies := g.copies.map fun (c : CopyOp) => { c with lanes := c.lanes.map range, whole := c.whole.map range }
    remotes := g.remotes.map fun (r : RemoteWrite) => { r with accs := r.accs.map acc, before := moveMask f r.before ||| out }
    contribs := g.contribs.map fun (c : Contribution) => { c with accs := c.accs.map acc }
    sampled := g.sampled.map fun (x : Sampled) => { x with lane := widthLane enter x.lane } }

/-- The YIELDW that stands at a code address: its counter class and threshold (R406). -/
def yieldwAt (s : State) (g : Gang) (pc : W64) : Option (Nat × Nat) :=
  match fetchPacket s g pc with
  | .error _ => none
  | .ok bs => match decode (slotOfPacket bs pc).2 with
    | .ok (.yieldw k t _) => some (k.toNat, t.toNat)
    | _ => none

/-- A strand resumed in the target version (R302 step 6, R406). -/
def resumeMover (s : State) (code : W64) (g : Gang) (m : Mover) : Gang :=
  let go (pc : W64) (p : Park) := (g.setPcs m.lanes fun _ => pc).setPark m.lanes p
  match m.site with
  | none => go (nextSlot (withOff code m.tgt.pc)) .ready
  | some x =>
    let pc := withOff code x.2.pc
    let c := withOff code x.2.cont
    if x.2.kind = 1 then go pc .ready
    else match yieldwAt s g pc with
      | some (k, t) => if g.kcOf k ≤ t then go c .ready else go pc (.yieldw k t c)
      | none => go c .ready

/-- Rows that the target footprint adds or removes, while WB = 0 (R302). -/
def resizeGang (g : Gang) (w : List W64) (s : State) : Gang × State :=
  if g.wb != 0 then (g, s)
  else
    let n := fpRows (verFoot w)
    let g1 := dropRows g n
    let r := freshRows g1 (rowRange g.nrows n) s
    ({ r.1 with nrows := n, wsize := fpWindow (verFoot w) }, r.2.onBlock g.block fun b =>
      { b with pool := setAt 0 b.pool g.quarter (getAt 0 b.pool g.quarter + g.nrows - n) })

/-- Steps 4 to 6 of a transfer whose values are all fetched (R302). -/
def finishTransfer (s : State) (id : Nat) (g : Gang) (w : List W64) (ms : List Mover) (cs : List Carry) : State :=
  let rels := (ms.flatMap fun m => m.tgt.rels).eraseDups
  let slots := staleSlots g ms cs rels s ++ cs.flatMap fun c =>
    if c.desc.kind = 2 then (lanesOf c.lanes).map fun l => (c.desc.loc + 8 * g.visible l, (c.val l).val) else []
  let s1 := { s.onBlock g.block fun b => { b with spad := moveSpad b.spad rels slots } with tick := s.tick + slots.length }
  let s2 := rekeyGang id (transferKeys g (cs.flatMap (Carry.moves g ms))) s1
  let r := resizeGang ((s2.gang? id).getD g) w s2
  let x := freeAll r.1 r.2
  let g1 := cs.foldl writeCarry x.1
  let g2 : Gang := { g1 with
    mode := (firstSome (fun (m : Mover) => if m.tgt.mv then some (modeBits m.tgt.mode) else none) ms).getD g.mode
    bound := [], boundOut := [], sequencing := false }
  let poison := cs.any fun c => c.dead
  let st := setFld (setFld (setBit (setBit (setBit g2.gstat 2 false) 4 (khC16 w)) 3 (khProt w)) 15 8 0) 23 16 g.xver
  let g3 := ms.foldl (resumeMover x.2 (verCode w)) { g2 with gstat := if poison then setBit st 0 true else st }
  if khProt w != g.prot then rekeyGang id (widthKeys (khProt w)) (x.2.setGang id (changeWidth g3 (khProt w)))
  else x.2.setGang id g3

/-- The steps of a transfer of a gang whose strands are parked for it (R302, R304). While a counter or a result is waited for, the sequencer
has started. -/
def runTransfer (s : State) (id : Nat) (g : Gang) (w : List W64) (src tgt : VersionMap) : State :=
  let stop (b : Blocked) : State := match b with
    | .wait => s.setGang id { g with sequencing := true }
    | .refuse c => s.setGang id (refuseTransfer g c)
  match transferCheck s g w with
  | some c => stop (.refuse c)
  | none => match movers s src tgt g with
    | .error b => stop b
    | .ok ms =>
      if badIds ms then stop (.refuse 6)
      else if badPlaces g ms then stop (.refuse 7)
      else if !((List.range 4).all (drained g ms)) then stop .wait
      else match fetchAll s id g src tgt ms with
        | .error b => stop b
        | .ok cs => finishTransfer s id g w ms cs

/-- The map of the version a gang runs; nothing where its entry cannot be read. -/
def runningMap (s : State) (g : Gang) : Except Blocked VersionMap :=
  match versionEntry s g.cuKey g.ctx g.vtab g.curv with
  | .ok (some w) => readMap s g (verMap w) (fpWindow (verFoot w)) ((s.block? g.block).map Block.spb |>.getD 0)
  | _ => .error (.refuse 6)

/-- A request whose target or maps cannot be used: refused once every strand that moves waits at a SAFEPT; those strands go on while one is
parked at a JOIN, of which no site translates (R149, R302, R304). -/
def deadTarget (s : State) (id : Nat) (g : Gang) (code : Nat) : State :=
  if (lanesOf g.moving).all fun l => atSafept (g.parkOf l) then s.setGang id (refuseTransfer g code)
  else if (lanesOf g.moving).any fun l => decide (g.parkOf l = .join) then s.setGang id (releaseSafepts g)
  else s

/-- TRANSFER_SEQUENCE (R149, R302): the sequencer starts once every strand that is not halted is parked for the transfer, and lane
accesses still held have been performed. While a strand is parked at a JOIN without translation, those at a SAFEPT go on in the
running version. Once it has started, a debug stop does not keep it from its steps (R305). -/
def transferSequence (s : State) (id : Nat) : State :=
  match s.gang? id with
  | none => s
  | some g =>
    if !g.xferPend || g.killed || (g.debugStop && !g.sequencing) || g.liveLanes = 0 || hasHeld s id g.cuKey (fun _ => true) then s
    else match enterable s g g.xver with
      | none => deadTarget s id g 1
      | some w =>
        match runningMap s g, readMap s g (verMap w) (fpWindow (verFoot w)) ((s.block? g.block).map Block.spb |>.getD 0) with
        | .ok src, .ok tgt =>
          if (lanesOf g.moving).all fun l => atSafept (g.parkOf l) || (siteOf src tgt g l).isSome then runTransfer s id g w src tgt
          else if (lanesOf g.moving).any fun l => decide (g.parkOf l = .join) && (siteOf src tgt g l).isNone then
            s.setGang id (releaseSafepts g)
          else s
        | .error (.refuse c), .ok _ => deadTarget s id g ((transferCheck s g w).getD c)
        | _, .error (.refuse c) => deadTarget s id g ((transferCheck s g w).getD c)
        | _, _ => s

/-- TRANSFER_SEQUENCE (R302). -/
def execTransferSequence (g : Nat) (s : State) : Out := .next (transferSequence s g)

end Sys2Proof.Machine
end

