-- ==== Sys2Proof/Machine/Image.lean ====
section
/-! DEFINITION. Context images: the header, and a block written as block record, gang records and in-flight records (R283 to R287,
R378). -/

namespace Sys2Proof.Machine

/-- Fields of an image header (R283). -/
def ihKind (h : List W64) : Nat := fld (h.getD 0 0) 39 32
def ihGen (h : List W64) : Nat := fld (h.getD 0 0) 31 0
def ihVtab (h : List W64) : W64 := h.getD 1 0
def ihVer (h : List W64) : Nat := fld (h.getD 2 0) 63 56
def ihSys (h : List W64) : Bool := (h.getD 2 0).getLsbD 2
def ihProt (h : List W64) : Bool := (h.getD 2 0).getLsbD 1
def ihCoop (h : List W64) : Bool := (h.getD 2 0).getLsbD 0
def ihPgt (h : List W64) : W64 := h.getD 3 0
def ihExtents (h : List W64) : List Nat := [fld (h.getD 4 0) 31 0, fld (h.getD 4 0) 63 32, fld (h.getD 5 0) 31 0]
def ihGlanes (h : List W64) : W64 := h.getD 6 0
def ihBlockExt (h : List W64) : List Nat := [fld (h.getD 7 0) 31 0, fld (h.getD 7 0) 63 32, fld (h.getD 8 0) 31 0]
def ihBlanes (h : List W64) : Nat := fld (h.getD 8 0) 63 32
def ihFoot (h : List W64) : W64 := h.getD 9 0
def ihPrio (h : List W64) : Nat := fld (h.getD 10 0) 17 16
def ihCluster (h : List W64) : Nat := fld (h.getD 10 0) 9 8 + 1
def ihGangs (h : List W64) : Nat := fld (h.getD 10 0) 5 0
def ihRole (h : List W64) (g : Nat) : Nat :=
  ((h.getD 11 0).toNat + 2 ^ 64 * fld (h.getD 12 0) 31 0) / 2 ^ (3 * g) % 8
def ihSeg (h : List W64) : Nat × Nat := (fld (h.getD 13 0) 39 0, fld (h.getD 13 0) 63 40)
def ihBtab (h : List W64) : Nat × Nat := (fld (h.getD 14 0) 39 0, fld (h.getD 14 0) 63 40)
def ihTtab (h : List W64) : Nat × Nat := (fld (h.getD 15 0) 39 0, fld (h.getD 15 0) 63 40)
def ihRegs (h : List W64) : List W64 := (h.drop 16).take 16

/-- The number of blocks of a grid. -/
def ihBlocks (h : List W64) : Nat := (ihExtents h).foldl (· * ·) 1

/-- The width of a gang of the grid's blocks (R376). -/
def ihWidth (h : List W64) : Nat := if ihProt h then 16 else 32

/-- Coordinates of a linear block index (R284). -/
def ihCoords (h : List W64) (i : Nat) : List Nat :=
  let gx := (ihExtents h).getD 0 1
  let gy := (ihExtents h).getD 1 1
  [i % gx, i / gx % gy, i / (gx * gy)]

/-- The gangs of a block that are started: those with a lane that is no helper lane (R16). -/
def ihStarted (h : List W64) (i : Nat) : List Nat :=
  (List.range (ihGangs h)).filter fun g =>
    decide (ihWidth h * g < ihBlanes h) && decide (i * ihBlanes h + ihWidth h * g < (ihGlanes h).toNat)

/-- What a block of the grid needs (R283). -/
def ihNeed (h : List W64) (i : Nat) : Need :=
  ⟨(ihStarted h i).map fun g => (g, fpRows (ihFoot h)), List.replicate 4 (fpPool (ihFoot h)), fpTiles (ihFoot h), fpSpb (ihFoot h), false⟩

/-- The code of a halt reason (R286). -/
def HaltReason.num : HaltReason → Nat
  | .none => 0 | .halt => 1 | .nested => 2 | .debug => 3 | .killed => 4

/-- The register entries of a record: the field as the instruction encodes it, and the value of each lane (R287). -/
abbrev RegEntry := Nat × (Nat → W64)

/-- Two coordinates in one register (R233). -/
def coordWord (c : List Int) (i : Nat) : W64 := word (wrapTo 32 (c.getD i 0) + 2 ^ 32 * wrapTo 32 (c.getD (i + 1) 0))

/-- The source registers that an instruction's accesses still need, in the order a, b, d (R287). -/
def sourceEntries (i : Instr) (acc : Nat → Option Access) : List RegEntry :=
  let get (f : Access → W64) (l : Nat) : W64 := (acc l).elim 0 f
  let ptr := get Access.ptr
  let v0 := get Access.v0
  let v1 := get Access.v1
  let co (k : Nat) := get fun a => coordWord (a.coords.getD []) k
  let wide := laneNumbers.any fun l => v1 l != 0
  match i with
  | .ld _ a _ _ _ => [(a.toNat, ptr)]
  | .lds _ a _ _ _ => [(a.toNat, ptr)]
  | .redpoll _ a _ => [(a.toNat, ptr)]
  | .st d a _ _ w => [(a.toNat, ptr), (d.toNat, v0)] ++ if w = 4 then [(d.toNat + 1, v1)] else []
  | .sts d a _ _ w => [(a.toNat, ptr), (d.toNat, v0)] ++ if w = 4 then [(d.toNat + 1, v1)] else []
  | .ldc _ a b x => [(a.toNat, ptr), (b.toNat, co 0)] ++ if x = 0 then [(b.toNat + 1, co 2)] else []
  | .stc d a b x => [(a.toNat, ptr), (b.toNat, co 0)] ++ (if x = 0 then [(b.toNat + 1, co 2)] else []) ++
      [(d.toNat, v0)] ++ if wide then [(d.toNat + 1, v1)] else []
  | .atom d a p _ _ => [(a.toNat, ptr), (d.toNat, v0)] ++ if p = 1 then [(d.toNat + 1, v1)] else []
  | .atoms d a p _ _ => [(a.toNat, ptr), (d.toNat, v0)] ++ if p = 1 then [(d.toNat + 1, v1)] else []
  | .red d a p _ _ => [(a.toNat, ptr), (d.toNat, v0)] ++ if p = 1 then [(d.toNat + 1, v1)] else []
  | .redc d a p _ _ => [(a.toNat, ptr), (d.toNat, v0)] ++ if p = 1 then [(d.toNat + 1, v1)] else []
  | _ => []

/-- The bytes of a register entry (R287). -/
def entryBytes (e : RegEntry) : List Byte :=
  w64Bytes (word (e.1 + if 112 ≤ e.1 then 128 else 0)) ++
    if 112 ≤ e.1 then w64Bytes (firstSome (fun l => if e.2 l = 0 then none else some (e.2 l)) laneNumbers |>.getD 0) ++ List.replicate 248 0
    else laneNumbers.flatMap fun l => w64Bytes (e.2 l)

/-- A record: its ticket, kind, lanes, instruction and PC, register entries, and tail (R287). -/
structure Flight where
  ticket : Nat
  kind : Nat
  lanes : Mask
  iword : W32
  ctl : Byte
  pc : W64
  regs : List RegEntry
  tail : List Byte

/-- The bytes of a record. -/
def Flight.bytes (f : Flight) : List Byte :=
  let body := f.regs.flatMap entryBytes ++ f.tail
  wordsBytes [word (f.lanes.toNat * 2 ^ 32 + f.regs.length * 2 ^ 8 + f.kind), word (f.ctl.toNat * 2 ^ 32 + f.iword.toNat), f.pc,
    word (32 + body.length)] ++ body

/-- A record with its register entries, at most four to a record (R287). DESIGN CHOICE (log 68): the fifth register of a 16-byte STC stands
in a record of its own that follows. -/
def fourRegs (f : Flight) : List Flight :=
  { f with regs := f.regs.take 4 } :: if 4 < f.regs.length then [{ f with regs := f.regs.drop 4, tail := [] }] else []

/-- The records of lane accesses of one instruction. -/
def accessFlight (g : Gang) (kind ticket : Nat) (accs : List Access) : List Flight :=
  match accs with
  | [] => []
  | a :: _ =>
    let at_ (l : Nat) : Option Access := accs.find? fun x => (g.copyLanes x.lane).contains l
    let regs := match decode a.iword with
      | .ok i => sourceEntries i at_
      | .error _ => []
    fourRegs ⟨ticket, kind, g.copyMask (accs.map Access.lane), a.iword, a.ctl, a.pc, regs, []⟩

/-- The source registers of an instruction whose access is made once for the gang, in the order a, b, d (R287, R372). -/
def onceSources (i : Instr) : List Nat :=
  match i with
  | .bbc d _ => [d.toNat]
  | .ckpt a _ => [a.toNat]
  | .dtload _ a _ => [a.toNat]
  | .cbload a _ => [a.toNat]
  | .mstore _ a _ => [a.toNat]
  | .redset d a b x => if x = 0 then [a.toNat, b.toNat, d.toNat] else [a.toNat]
  | .sample a _ => [a.toNat]
  | .exit a _ => [a.toNat]
  | .acpt d a b _ => [a.toNat, b.toNat, b.toNat + 1, d.toNat]
  | _ => []

/-- An access made once for its gang, held at its instruction: the lanes of its strand, and its source registers (R287, R372). -/
def onceFlight (g : Gang) (a : Access) : Flight :=
  let regs := match decode a.iword with
    | .ok i => (onceSources i).map fun f => ((f, fun l => g.read f l) : RegEntry)
    | .error _ => []
  ⟨a.ticket, 1, g.strandOf a.lane, a.iword, a.ctl, a.pc, regs, []⟩

/-- The fields a, b and d of a copy instruction. -/
def copyFields (w : W32) : Nat × Nat × Nat :=
  match decode w with
  | .ok (.acp d a b) => (a.toNat, b.toNat, d.toNat)
  | .ok (.acps d a b _) => (a.toNat, b.toNat, d.toNat)
  | .ok (.acpt d a b _) => (a.toNat, b.toNat, d.toNat)
  | _ => (0, 0, 0)

/-- The k-th of a lane's ranges that a copy has not yet written (R239). -/
def copyRange (op : CopyOp) (k l : Nat) : Option CopyLane := (op.lanes.filter fun c => c.lane == l)[k]?

/-- The record of the k-th ranges of a per-lane copy. The first names the copy's registers. -/
def laneFlight (g : Gang) (op : CopyOp) (k : Nat) : Flight :=
  let f := copyFields op.iword
  let lanes := g.copyMask ((op.lanes.map CopyLane.lane).filter fun l => (copyRange op k l).isSome)
  let owner (l : Nat) : Nat := if g.prot then l / 2 * 2 else l
  let val (h : CopyLane → W64) (l : Nat) : W64 := (copyRange op k (owner l)).elim 0 h
  let adv (p : W64) (scratch : Bool) (n : Nat) : W64 := if scratch then word (fld p 31 0 + n) else withOff p (ptrOff p + n)
  ⟨op.ticket, 2, lanes, op.iword, op.ctl, op.pc,
    if k = 0 then [(f.1, val fun c => c.src), (f.2.1, val fun c => word (c.pos + c.len - 1)), (f.2.2, val fun c => c.dst)] else [],
    (lanesOf lanes).flatMap fun l => wordsBytes [val (fun c => adv c.dst c.dstScratch c.pos) l,
      val (fun c => adv c.src c.srcScratch c.pos) l, val (fun c => word c.len) l]⟩

/-- The parts of a box that a range of elements covers, from the first to the last: first row and column, rows, columns. -/
def boxParts (cols a z : Nat) : List (Nat × Nat × Nat × Nat) :=
  if a / cols = z / cols then [(a / cols, a % cols, 1, z - a + 1)]
  else
    let first := (a + cols - 1) / cols
    let full := (z + 1) / cols - first
    (if a % cols = 0 then [] else [(a / cols, a % cols, 1, cols - a % cols)]) ++ (if full = 0 then [] else [(first, 0, full, cols)]) ++
      if (z + 1) % cols = 0 then [] else [(z / cols, 0, 1, z % cols + 1)]

/-- The tail of a part of a box: a box of its own (R238, R287). -/
def partTail (b : CopyBox) (x : Nat × Nat × Nat × Nat) : List Byte :=
  let move (o : W64) (hi lo n : Nat) : Nat := wrapTo 32 (signedOf 32 (fld o hi lo) + ((n : Nat) : Int))
  wordsBytes [b.ptr,
    word ((fld b.desc 31 0 + b.esize * (x.1 * b.cols + x.2.1)) % 2 ^ 32 + (x.2.2.2 - 1) * 2 ^ 32 + (x.2.2.1 - 1) * 2 ^ 44),
    word (move b.org0 31 0 x.2.1 + move b.org0 63 32 x.1 * 2 ^ 32), b.org1, 0]

/-- The records of a box: its rows already written where a whole number of rows at its end remains, else one for each part that remains, of
which the first names the box's registers. An element written in part is copied again. -/
def boxFlights (g : Gang) (op : CopyOp) (b : CopyBox) : List Flight :=
  let f := copyFields op.iword
  let row := b.esize * b.cols
  let lane0 (v : W64) (_ : Nat) : W64 := v
  let regs : List RegEntry := [(f.1, lane0 b.ptr), (f.2.1, lane0 b.org0), (f.2.1 + 1, lane0 b.org1), (f.2.2, lane0 b.desc)]
  let tails : List (List Byte) := match op.lanes with
    | [c] => if c.pos % row = 0 && c.pos + c.len = b.bytes then [wordsBytes [b.ptr, b.desc, b.org0, b.org1, word (c.pos / row % 4096)]]
      else (boxParts b.cols (c.pos / b.esize) ((c.pos + c.len - 1) / b.esize)).map (partTail b)
    | cs => cs.flatMap fun (c : CopyLane) => (boxParts b.cols (c.pos / b.esize) ((c.pos + c.len - 1) / b.esize)).map (partTail b)
  (tails.zip (List.range tails.length)).map fun x =>
    ⟨op.ticket, 2, g.copyMask [0], op.iword, op.ctl, op.pc, if x.2 = 0 then regs else [], x.1⟩

/-- The records of a copy (R239, R287). DESIGN CHOICE (log 69): where more ranges of a lane, or more parts of a box, remain than one tail
holds, further records without registers follow the first and go on with it. -/
def copyFlights (g : Gang) (op : CopyOp) : List Flight :=
  match op.box with
  | some b => boxFlights g op b
  | none =>
    let n := (op.lanes.map fun c => (op.lanes.filter fun x => x.lane == c.lane).length).foldl max 0
    (List.range n).map (laneFlight g op)

/-- A waiting access as its instruction made it: the upper half of one performed in halves is part of it (R219, R225). -/
def Waiting.whole (x : Waiting) : Access :=
  if x.upper then { x.acc with ptr := x.acc.ptr - 8, v0 := x.acc.v1, v1 := x.acc.v0 } else x.acc

/-- The accesses of a gang that are held, and those that local order keeps from being performed before them. -/
def unperformed (s : State) (id : Nat) (g : Gang) : List Access :=
  ((heldAt s g.cuKey).filter fun h => h.gang == id).map Held.acc ++ (g.accesses.filter fun x => !x.held).map Waiting.whole

/-- Their records by instruction; a REDC's join its contributions (R243), and lanes of a remote write those that await an answer
(R230). -/
def heldFlights (s : State) (id : Nat) (g : Gang) : List Flight :=
  let all := (unperformed s id g).filter fun a => !g.remotes.any fun r => r.ticket == a.ticket
  ((all.map Access.ticket).eraseDups).flatMap fun t =>
    match all.filter fun a => a.ticket == t with
    | [] => []
    | a :: as =>
      if a.kind = .once then [onceFlight g a]
      else if a.kind = .redc then []
      else accessFlight g 1 t (a :: as)

/-- The contributions of a gang's REDCs not yet performed, held ones among them. -/
def contribFlights (s : State) (id : Nat) (g : Gang) : List Flight :=
  let held := ((heldAt s g.cuKey).filter fun h => h.gang == id && h.acc.kind == .redc).map Held.acc
  let ts := ((g.contribs.map Contribution.ticket) ++ held.map Access.ticket).eraseDups
  ts.flatMap fun t => accessFlight g 4 t (((g.contribs.filter fun c => c.ticket == t).flatMap Contribution.accs) ++
    held.filter fun a => a.ticket == t)

/-- The in-flight records of a gang in issue order (R287). -/
def flightsOf (s : State) (id : Nat) (g : Gang) : List Flight :=
  let all := heldFlights s id g ++ g.copies.flatMap (copyFlights g) ++
    (g.remotes.flatMap fun r => accessFlight g 3 r.ticket (r.accs ++ (unperformed s id g).filter fun a => a.ticket == r.ticket)) ++ contribFlights s id g
  let ts := (all.map Flight.ticket).foldl (fun m t => put m t ()) []
  ts.flatMap fun t => all.filter fun f => f.ticket == t.1

/-- Numbers of a few bits packed, the first lowest. -/
def packBits (w : Nat) (xs : List Nat) : Nat := packNat w xs

/-- The code of a register's state (R286). -/
def Reg.code (r : Reg) : Nat := match r.st with
  | .full => 0 | .empty _ => 1 | .dead => 2

/-- A gang record (R286), its in-flight list given by offset and count. -/
def gangRecord (g : Gang) (off count : Nat) : List Byte :=
  let reason (l : Nat) := getAt HaltReason.none g.haltReason l
  let halted := maskOf fun l => lane g.halted l || reason l == .debug
  let cont (l : Nat) : W64 := match g.parkOf l with
    | .yieldw _ _ c => c
    | _ => 0
  laneNumbers.flatMap (fun l => w64Bytes (g.pcOf l)) ++
  natBytes 4 g.exited.toNat ++ natBytes 4 halted.toNat ++
  natBytes 16 (packBits 4 (laneNumbers.map fun l => (reason l).num)) ++
  laneNumbers.flatMap (fun l => w64Bytes (cont l)) ++
  (List.range 8).flatMap (fun i => natBytes 4 (getAt 0 g.cb i).toNat) ++
  natBytes 4 g.mode.toNat ++ natBytes 4 g.gstat.toNat ++
  w64Bytes (word (g.wb + g.lrow * 2 ^ 16 + g.nrows * 2 ^ 32 + g.wsize * 2 ^ 40 + g.special.role * 2 ^ 48 + g.prio * 2 ^ 52 +
    g.special.gangId * 2 ^ 56)) ++
  (List.range 4).flatMap (fun k => natBytes 2 (getAt 0 g.kc k).toNat) ++
  natBytes 4 g.tcause.toNat ++ natBytes 4 g.tlanes.toNat ++ natBytes 4 g.tmask.toNat ++ natBytes 4 0 ++ w64Bytes g.tpc ++
  (List.range 16).flatMap (fun i => w64Bytes (g.reg (112 + i) 0).val) ++
  natBytes 8 (packBits 2 ((List.range 16).map fun i => (g.reg (112 + i) 0).code)) ++
  (List.range 24).flatMap (fun i => natBytes 4 (getAt 0 g.p i).toNat) ++
  (List.range 32).flatMap (fun i => natBytes 2 (getAt 0 g.books i).toNat) ++
  (List.range 128).flatMap (fun i => natBytes 1 (getAt 0 g.harp i).toNat) ++
  w64Bytes g.spill ++ natBytes 8 (off % 2 ^ 32 + count % 2 ^ 16 * 2 ^ 32) ++
  (rowRange g.lrow (g.lrow + g.nrows)).flatMap (rowBytes g)

/-- An image under construction: its bytes so far, and how many of them each CU contributes, in order. -/
structure Build where
  bytes : List Byte
  shares : List (Nat × Nat)

/-- Bytes added at the next multiple of 8, with the CU that contributes them; and their offset. -/
def Build.add (b : Build) (cu : Nat) (bs : List Byte) : Nat × Build :=
  let pad := (8 - b.bytes.length % 8) % 8
  (b.bytes.length + pad, ⟨b.bytes ++ List.replicate pad 0 ++ bs, b.shares ++ [(cu, pad + bs.length)]⟩)

/-- Quarters of a block's CU, its first quarter first (R285). -/
def quarterOrder (q0 : Nat) : List Nat := (List.range 4).map fun i => (q0 + i) % 4

/-- The accumulator image of a block (R285). -/
def accImage (x : Block) : List Byte :=
  (quarterOrder x.q0).flatMap fun q => (List.range (1024 * x.tiles)).flatMap fun i => natBytes 4 (getAt 0 x.acc (16384 * q + i)).toNat

/-- The Harp table image of a block (R285, R308). -/
def harpImage (x : Block) : List Byte :=
  (quarterOrder x.q0).flatMap fun q =>
    let t (c : Nat) : HarpTable := (find x.harp (4 * q + c)).getD ⟨[], [], false⟩
    (List.range 4).flatMap (fun c => (List.range 8192).flatMap fun i => natBytes 2 (getAt 0 (t c).trans i).toNat) ++
    (List.range 4).flatMap fun c => wordsBytes ((List.range 4).map fun i =>
      ((t c).desc.getD i 0) ||| if i = 0 && (t c).valid then BitVec.twoPow 64 16 else 0)

/-- The cluster arrivals captured for a block: those of its cluster's words, held with the cluster's first block that is live (R285). -/
def arrivalWords (s : State) (x : Block) : List W64 :=
  if s.blocks.any fun b => b.2.cluster == x.cluster && decide (b.2.crank < x.crank) then []
  else match find s.clusters x.cluster with
    | none => []
    | some c => (c.words.filter fun w => barArr w.2 != 0 || barPhase w.2).map fun w =>
        word (w.1 % 32 + barArr w.2 * 2 ^ 16 + bitNat (barPhase w.2) * 2 ^ 32)

/-- A block added to an image; answers the offset of its block record (R285). The lane count of a task stands in bits [28:24] of the
second word. -/
def addBlock (s : State) (x : Block) (b0 : Build) : Nat × Build :=
  let cu := 48 * x.die + x.cu
  let gs := x.gangs.filterMap fun n => (s.gang? n).map fun g => (n, g)
  let one (a : List Nat × Build) (n : Nat × Gang) : List Nat × Build :=
    let fs := flightsOf s n.1 n.2
    let f := a.2.add cu (fs.flatMap Flight.bytes)
    let r := f.2.add cu (gangRecord n.2 f.1 fs.length)
    (a.1 ++ [r.1], r.2)
  let gangs := gs.foldl one ([], b0)
  let sp := gangs.2.add cu ((List.range x.spb).map fun i => getAt 0 x.spad i)
  let ac := sp.2.add cu (accImage x)
  let hp := ac.2.add cu (harpImage x)
  let pa := hp.2.add cu (wordsBytes (arrivalWords s x))
  let lanes := if x.task then (gs.head?.map fun n => n.2.special.blanes - 1).getD 0 else 0
  let rec_ := wordsBytes [word x.index, word (x.q0 + x.crank * 2 ^ 8 + gs.length * 2 ^ 16 + lanes * 2 ^ 24 + x.spb * 2 ^ 32), word sp.1,
      word ac.1, word hp.1, word (pa.1 % 2 ^ 32 + (arrivalWords s x).length * 2 ^ 32),
      word (packBits 16 ((quarterOrder x.q0).map fun q => getAt 0 x.pool q)), 0] ++
    (List.range 32).flatMap (fun w => natBytes 4 (getAt 0 x.bars w).toNat) ++
    wordsBytes ((List.range 32).map fun i => word (gangs.1.getD i 0))
  pa.2.add cu rec_

/-- The ranges of consecutive numbers in a rising list, as first and count. -/
def rangesOf : List Nat → List (Nat × Nat)
  | [] => []
  | i :: rest => match rangesOf rest with
    | (f, n) :: more => if f = i + 1 then (i, n + 1) :: more else (i, 1) :: (f, n) :: more
    | [] => [(i, 1)]

/-- A header word that a saved image keeps, without its zero bits, which the K4 ignores (R6, R283). -/
def headerBits (i : Nat) (w : W64) : W64 :=
  match i with
  | 5 => w &&& 0xFFFFFFFF
  | 9 => w &&& 0xFFFFFF1FFFFFFFFF
  | 10 => w &&& 0x3033F
  | 12 => w &&& 0xFFFFFFFF
  | _ => w

/-- A saved image of some blocks of a grid: its bytes up to and with the segment CRC table, and the CU shares (R283, R284, R378).
`unstarted` lists the blocks to be started after restore; every other index is given as ended. -/
def savedImage (s : State) (x : Grid) (blocks : List (Nat × Block)) (unstarted : List Nat) (tasks : List W64) : Build :=
  let b0 : Build := ⟨List.replicate 256 0, [((blocks.head?.map fun b => 48 * b.2.die + b.2.cu).getD 0, 256)]⟩
  let cu0 := (b0.shares.head?.map Prod.fst).getD 0
  let recs := blocks.foldl (fun (a : List W64 × Build) b =>
    let r := addBlock s b.2 a.2
    (a.1 ++ [word ((if b.2.task then 3 else 1) * 2 ^ 62 + b.2.index % 2 ^ 32), word r.1], r.2)) ([], b0)
  let live := blocks.filterMap fun b => if b.2.task then none else some b.2.index
  let total := ihBlocks x.header
  let ended := (List.range total).filter fun i => !live.contains i && !unstarted.contains i
  let entries (k : Nat) (r : Nat × Nat) : List W64 := [word (k * 2 ^ 62 + r.2 % 2 ^ 30 * 2 ^ 32 + r.1 % 2 ^ 32), 0]
  let table := (rangesOf unstarted).flatMap (entries 0) ++ recs.1 ++ (rangesOf ended).flatMap (entries 2)
  let bt := recs.2.add cu0 (wordsBytes table)
  let tt := bt.2.add cu0 (wordsBytes tasks)
  let size := tt.2.bytes.length
  let sys := match s.ctx? x.ctx with
    | some c => c.system
    | none => false
  let h := fun i => headerBits i (x.header.getD i 0)
  let head := wordsBytes ([word (0x4B49 * 2 ^ 48 + 2 ^ 40 + 2 ^ 32 + ihGen x.header), h 1,
      word (fld (h 2) 63 56 * 2 ^ 56 + bitNat sys * 4 + fld (h 2) 1 0)] ++ (List.range 10).map (fun i => h (3 + i)) ++
    [word ((size + 7) / 8 * 8 + 2 ^ 40), word (bt.1 + table.length / 2 * 2 ^ 40), word (tt.1 + tasks.length * 2 ^ 40)] ++ ihRegs x.header)
  let data := head ++ tt.2.bytes.drop 256
  (Build.mk data tt.2.shares).add cu0 (wordsBytes [0, word (size + crc32c data * 2 ^ 32)]) |>.2

end Sys2Proof.Machine
end

