-- ==== Sys2Proof/Machine/Restore.lean ====
section
/-! DEFINITION. Context images read back: block, gang and in-flight records, and a gang restored from them (R284 to R287, R373). -/

namespace Sys2Proof.Machine

/-- Why an image is not taken: its packet waits for memory, or the handler code and detail of a queue fault (R279). -/
inductive Refuse where
  | wait
  | code (c detail : Nat)
  /-- An uncorrectable error in a record or entry, first met here: MEMFLT with OBJUE, and a rebuild begins (R198). -/
  | damaged (ctx obj : Nat) (tile : Option Nat)
  deriving DecidableEq, Repr

/-- Handler codes of R279. -/
def hcPktbad : Nat := 1
def hcRingerr : Nat := 2
def hcPriv : Nat := 3
def hcImgbad : Nat := 4
def hcCoopfit : Nat := 5
def hcRolebad : Nat := 6
def hcFootprint : Nat := 7
def hcMemflt : Nat := 8
def hcQtue : Nat := 9

/-- A miss of an access through a pointer of a context, as a queue fault (R279). -/
def Miss.refuse (ctx : Nat) (p : W64) : Miss → Refuse
  | .fault c _ => .code hcMemflt c.num
  | .damaged t => .damaged ctx (ptrObj p) t
  | .notres _ _ => .wait
  | .hold _ => .wait

/-- The handler code and detail of a queue fault. -/
def Refuse.codes : Refuse → Nat × Nat
  | .wait => (0, 0)
  | .code c d => (c, d)
  | .damaged _ _ _ => (hcMemflt, Code.num .objue)

/-- An uncorrectable error that a front end has met is marked (R198). -/
def Refuse.mark (s : State) : Refuse → State
  | .damaged ctx obj t => markDamaged s ctx obj t
  | _ => s

/-- The CU in whose name the queue cores and the front ends translate: they have no caches of their own. -/
def frontEnd : Nat := 1000

/-- Bytes of an object of a context as the queue cores or a front end read them. -/
def frontRead (s : State) (ctx : Nat) (p : W64) (n : Nat) : Except Refuse (List Byte) :=
  if n = 0 then .ok []
  else match translate s frontEnd ctx p .read false false n with
    | .error m => .error (m.refuse ctx p)
    | .ok ps => if ps.any (placePoisoned s) then .error (.code hcMemflt (Code.num .memue)) else .ok (ps.map (byteNow s))

/-- Bytes of an image from an offset on; an offset that no pointer can hold lies outside the object. -/
def imageRead (s : State) (ctx : Nat) (p : W64) (off n : Nat) : Except Refuse (List Byte) :=
  if 2 ^ 36 < off + n then .error (.code hcMemflt (Code.num .oos)) else frontRead s ctx (withOff p off) n

/-- A little-endian number of n bytes of a record. -/
def natAt (bs : List Byte) (off n : Nat) : Nat := bytesNat ((bs.drop off).take n)

/-- A word of a record. -/
def wordAt (bs : List Byte) (off : Nat) : W64 := word (natAt bs off 8)

/-- An in-flight record read back: each register entry is its field and the values of the lanes (R287). -/
structure FlightImage where
  kind : Nat
  lanes : Mask
  iword : W32
  ctl : Byte
  pc : W64
  regs : List (Nat × List W64)
  tail : List Byte
  deriving DecidableEq, Repr

/-- The tail's length that an in-flight record's kind and instruction ask for; none for a copy record that names no copy (R287). -/
def tailLength (kind : Nat) (lanes : Mask) (w : W32) : Option Nat :=
  if kind != 2 then some 0
  else match decode w with
    | .ok (.acp _ _ _) => some (24 * (lanesOf lanes).length)
    | .ok (.acps _ _ _ _) => some (24 * (lanesOf lanes).length)
    | .ok (.acpt _ _ _ _) => some 40
    | _ => none

/-- A register entry is well formed: its zero field, and for an s register the values beyond the first (R287). -/
def entryOk (e : List Byte) : Bool :=
  fld (wordAt e 0) 63 8 == 0 && (wordAt e 0).getLsbD 7 == decide (112 ≤ fld (wordAt e 0) 6 0) &&
    (!(wordAt e 0).getLsbD 7 || (e.drop 16).all (· == 0))

/-- A copy's tail is well formed. -/
def tailOk (w : W32) (t : List Byte) : Bool :=
  match decode w with
  | .ok (.acpt _ _ _ _) => t.isEmpty || fld (wordAt t 32) 63 12 == 0
  | _ => (List.range (t.length / 24)).all fun i => fld (wordAt t (24 * i + 16)) 63 32 == 0

/-- An in-flight record of its bytes; none makes the image bad (R287). -/
def parseFlight (bs : List Byte) : Option FlightImage :=
  let w0 := wordAt bs 0
  let w1 := wordAt bs 8
  let nreg := fld w0 15 8
  let kind := fld w0 3 0
  let iw := word32 (fld w1 31 0)
  let lanes : Mask := word32 (fld w0 63 32)
  match tailLength kind lanes iw with
  | none => none
  | some n =>
    let entries := (List.range nreg).map fun i => (bs.drop (32 + 264 * i)).take 264
    let tail := bs.drop (32 + 264 * nreg)
    if fld w0 31 16 != 0 || fld w0 7 4 != 0 || kind = 0 || 4 < kind || 4 < nreg || fld w1 63 40 != 0 || fld (wordAt bs 24) 63 32 != 0 ||
        bs.length != 32 + 264 * nreg + n || !entries.all entryOk || (kind = 2 && !tailOk iw tail) then none
    else some ⟨kind, lanes, iw, BitVec.ofNat 8 (fld w1 39 32), wordAt bs 16,
      entries.map fun e => (fld (wordAt e 0) 6 0, bytesWords 32 (e.drop 8)), tail⟩

/-- A bad image (R283). -/
def imgBad {α : Type} : Except Refuse α := .error (.code hcImgbad 0)

/-- The in-flight records of a gang. -/
def readFlights (rd : Nat → Nat → Except Refuse (List Byte)) : Nat → Nat → Except Refuse (List FlightImage)
  | _, 0 => .ok []
  | off, n + 1 => do
    let head ← rd off 32
    let len := fld (wordAt head 24) 31 0
    if len < 32 then imgBad
    else
      let bs ← rd off len
      match parseFlight bs with
      | none => imgBad
      | some f =>
        let rest ← readFlights rd ((off + len + 7) / 8 * 8) n
        .ok (f :: rest)

/-- A record holds only the fifth source register of the record before it, a 16-byte STC (log 68). -/
def FlightImage.fifthOf (f prev : FlightImage) : Bool :=
  f.kind == 1 && prev.kind == 1 && f.iword == prev.iword && f.pc == prev.pc && f.lanes == prev.lanes && prev.regs.length == 4 &&
    match decode f.iword with
    | .ok (.stc d _ _ _) => decide (f.regs.map Prod.fst = [d.toNat + 1])
    | _ => false

/-- The records of a gang, each with all its registers. -/
def joinRegs : List FlightImage → List FlightImage
  | a :: b :: rest => if b.fifthOf a then { a with regs := a.regs ++ b.regs } :: joinRegs rest else a :: joinRegs (b :: rest)
  | fs => fs

/-- A gang record with its in-flight records. -/
structure GangImage where
  bytes : List Byte
  flights : List FlightImage
  deriving DecidableEq, Repr

/-- Fields of a gang record (R286). -/
def GangImage.n (g : GangImage) (off k : Nat) : Nat := natAt g.bytes off k
def GangImage.rows (g : GangImage) : Nat := g.n 580 1
def GangImage.id (g : GangImage) : Nat := bits (g.n 576 8) 60 56

/-- A gang record read back. -/
def readGang (rd : Nat → Nat → Except Refuse (List Byte)) (off : Nat) : Except Refuse GangImage := do
  let head ← rd off 1056
  let rows ← rd (off + 1056) (264 * natAt head 580 1)
  let fs ← readFlights rd (natAt head 1048 4) (natAt head 1052 2)
  .ok ⟨head ++ rows, joinRegs fs⟩

/-- A block record with everything it names (R285). -/
structure BlockImage where
  bytes : List Byte
  tiles : Nat
  spad : List Byte
  acc : List Byte
  harp : List Byte
  arrivals : List W64
  gangs : List GangImage
  deriving DecidableEq, Repr

/-- Fields of a block record. -/
def BlockImage.index (b : BlockImage) : Nat := natAt b.bytes 0 8
def BlockImage.crank (b : BlockImage) : Nat := bits (natAt b.bytes 8 8) 9 8
def BlockImage.taskLanes (b : BlockImage) : Nat := bits (natAt b.bytes 8 8) 28 24 + 1
def BlockImage.spb (b : BlockImage) : Nat := bits (natAt b.bytes 8 8) 63 32
def BlockImage.pool (b : BlockImage) (i : Nat) : Nat := natAt b.bytes (48 + 2 * i) 2

/-- The bytes of the Harp tables of a block. -/
def harpBytes : Nat := 4 * (4 * 16384 + 4 * 32)

/-- A block record read back. The tiles of a task follow from the length of its accumulator image. -/
def readBlock (rd : Nat → Nat → Except Refuse (List Byte)) (tiles : Nat) (task : Bool) (off : Nat) : Except Refuse BlockImage := do
  let bs ← rd off 448
  let t := if task then (natAt bs 32 8 - natAt bs 24 8) / 16384 else tiles
  let spad ← rd (natAt bs 16 8) (bits (natAt bs 8 8) 63 32)
  let acc ← rd (natAt bs 24 8) (16384 * t)
  let harp ← rd (natAt bs 32 8) harpBytes
  let arr ← rd (natAt bs 40 4) (8 * natAt bs 44 2)
  let gs ← ((List.range (bits (natAt bs 8 8) 21 16)).map fun i => natAt bs (192 + 8 * i) 8).mapM (readGang rd)
  .ok ⟨bs, t, spad, acc, harp, bytesWords (natAt bs 44 2) arr, gs⟩

/-- What a saved block asks of a CU. -/
def BlockImage.need (b : BlockImage) (task : Bool) : Need :=
  ⟨b.gangs.map fun g => (g.id, g.rows), (List.range 4).map b.pool, b.tiles, b.spb, task⟩

/-- A register of its value and its state's code (R286); an empty one waits for what is given. -/
def regOf (v : W64) (code : Nat) (ticket : Nat) : Reg :=
  ⟨v, match code with
    | 1 => .empty ticket
    | 2 => .dead
    | _ => .full⟩

/-- A halt reason of its code (R286). -/
def haltOf (n : Nat) : HaltReason := match n with
  | 1 => .halt | 2 => .nested | 3 => .debug | 4 => .killed
  | _ => .none

/-- The registers and masks of a gang record entered in a gang that has just started; zero bits are ignored (R6, R286, R330). `none_` is the ticket of registers
that no record will fill. -/
def enterGang (g : Gang) (x : GangImage) (mir : Bool) (none_ : Nat) : Gang :=
  let n := x.n
  let place := n 576 8
  let l0 := bits place 31 16
  let reasons := laneNumbers.map fun l => (l, haltOf (bits (n 264 16) (4 * l + 3) (4 * l)))
  let killed := reasons.any fun r => r.2 == .killed
  let debug := reasons.any fun r => r.2 == .debug
  { g with
    pc := laneNumbers.foldl (fun m l => setAt 0 m l (word (n (8 * l) 8))) []
    exited := word32 (n 256 4)
    halted := (word32 (n 260 4)) &&& ~~~(maskOf fun l => (getAt .none reasons l) == .debug)
    haltReason := reasons.foldl (fun m r => setAt .none m r.1 r.2) []
    debugStop := debug
    killed := killed
    cb := (List.range 8).foldl (fun m i => setAt 0 m i (word32 (n (536 + 4 * i) 4))) []
    mode := modeBits (word32 (n 568 4))
    gstat := setBit (gstatBits (word32 (n 572 4))) 5 mir
    wb := bits place 15 0
    lrow := l0
    nrows := bits place 39 32
    wsize := bits place 47 40
    prio := bits place 53 52
    special := { g.special with role := bits place 50 48, gangId := bits place 60 56 }
    kc := (List.range 4).foldl (fun m k => setAt 0 m k (BitVec.ofNat 16 (n (584 + 2 * k) 2))) []
    tcause := causeBits (word32 (n 592 4))
    tlanes := word32 (n 596 4)
    tmask := (word32 (n 600 4)) &&& 1
    tpc := word (n 608 8)
    sreg := (List.range 16).foldl (fun m i =>
      setAt Reg.zero m i (regOf (word (n (616 + 8 * i) 8)) (bits (n 744 8) (2 * i + 1) (2 * i)) none_)) []
    p := (List.range 24).foldl (fun m i => setAt 0 m i (word32 (n (752 + 4 * i) 4))) []
    books := (List.range 32).foldl (fun m i => setAt 0 m i (BitVec.ofNat 16 (n (848 + 2 * i) 2))) []
    harp := (List.range 128).foldl (fun m i => setAt 0 m i (BitVec.ofNat 5 (n (912 + i) 1))) []
    spill := word (n 1040 8)
    v := (List.range (bits place 39 32)).foldl (fun m i => laneNumbers.foldl (fun m l =>
      setAt Reg.zero m (32 * (l0 + i) + l) (regOf (word (n (1056 + 264 * i + 8 * l) 8))
        (bits (n (1056 + 264 * i + 256) 8) (2 * l + 1) (2 * l)) none_)) m) [] }

/-- Lanes of a YIELDW are parked again, or go on where its condition holds by now (R286, R151). -/
def enterYields (s : State) (g : Gang) (x : GangImage) : Gang :=
  laneNumbers.foldl (fun g l =>
    let c := word (x.n (280 + 8 * l) 8)
    if c = 0 then g
    else match yieldwAt s g (g.pcOf l) with
      | some (k, t) => if g.kcOf k ≤ t then g.setPcs (oneLane l) fun _ => c else g.setPark (oneLane l) (.yieldw k t c)
      | none => g) g

/-- The strand that a record's lanes would be if its instruction issued now, with the record's source registers. -/
def flightEnv (s : State) (id : Nat) (g : Gang) (f : FlightImage) : Env :=
  let g1 := f.regs.foldl (fun (g : Gang) e =>
    if e.1 < 112 then laneNumbers.foldl (fun g l => g.setReg e.1 l ⟨e.2.getD l 0, .full⟩) g
    else g.setReg e.1 0 ⟨e.2.getD 0 0, .full⟩) { g with mode := setFld g.mode 5 0 0x1F }
  ⟨id, ⟨id, f.lanes, f.pc, f.ctl, f.iword⟩, g1, tilesFor s g, systemContext s g⟩

/-- The lane accesses of a record (R287); none for an instruction whose access is made once for the gang. -/
def flightAccesses (s : State) (id : Nat) (g : Gang) (f : FlightImage) (t : Nat) : List Access :=
  let e := flightEnv s id g f
  let all (acc : Env → Nat → Nat → Access) : List Access := (performers e).map (acc e t)
  match decode f.iword with
  | .ok (.ld d a sf r w) => all (loadAccess false d a sf r w)
  | .ok (.lds d a sf r w) => all (loadAccess true d a sf r w)
  | .ok (.st d a sf r w) => all (storeAccess false d a sf r w)
  | .ok (.sts d a sf r w) => all (storeAccess true d a sf r w)
  | .ok (.ldc d a b x) => all (ldcAccess s d a b x)
  | .ok (.stc d a b x) => all (stcAccess (f.regs.any fun y => y.1 == d.toNat + 1) d a b x)
  | .ok (.redpoll d a x) => all (pollAccess d a x)
  | .ok (.atom d a p sf r) => all (atomAccess .atom false [d.toNat] d a p sf r)
  | .ok (.atoms d a p sf r) => all (atomAccess .atom true [d.toNat] d a p sf r)
  | .ok (.red d a p sf r) => all (atomAccess .red false [] d a p sf r)
  | .ok (.redc d a p sf r) => all (atomAccess .redc false [] d a p sf r)
  | _ => []

/-- The ranges of a per-lane copy that a record's tail names. -/
def laneRanges (g : Gang) (f : FlightImage) (dstS srcS : Bool) : List CopyLane :=
  let w (i k : Nat) := wordAt f.tail (24 * i + 8 * k)
  let ls := lanesOf f.lanes
  (((List.range ls.length).zip ls).filter fun x => !g.prot || x.2 % 2 == 0).map fun x =>
    ⟨x.2, w x.1 0, dstS, w x.1 1, srcS, 0, fld (w x.1 2) 31 0⟩

/-- The box of an ACPT record: that of its source registers, else that of its tail. -/
def flightBox (s : State) (g : Gang) (f : FlightImage) (x : BitVec 2) : CopyBox :=
  let reg (i : Nat) : W64 := match f.regs[i]? with
    | some e => e.2.getD 0 0
    | none => wordAt f.tail (8 * [0, 2, 3, 1].getD i 0)
  ⟨reg 0, reg 3, reg 1, reg 2, x != 0, if isRemote s (reg 0) then remoteElem s (reg 0) else (elemSize s g.cuKey g.ctx (reg 0)).getD 1⟩

/-- The ranges of a box that an ACPT record's tail names: a box in it, without the rows already written. -/
def boxRanges (b : CopyBox) (x : BitVec 2) (tail : List Byte) : List CopyLane :=
  let d := wordAt tail 8
  let cols := fld d 43 32 + 1
  let rows := fld d 55 44 + 1
  let done := fld (wordAt tail 32) 11 0
  let pos := (fld d 31 0 + 2 ^ 32 - fld b.desc 31 0) % 2 ^ 32
  let off : W64 := word (fld b.desc 31 0)
  let row (r n : Nat) : CopyLane := ⟨0, off, x == 0, off, x != 0, pos + b.esize * b.cols * r, n⟩
  if cols = b.cols then [row done (b.esize * cols * (rows - done))]
  else ((List.range rows).drop done).map fun r => row r (b.esize * cols)

/-- A copy as its record gives it (R287). -/
def flightCopy (s : State) (g : Gang) (f : FlightImage) (t : Nat) : CopyOp :=
  let op (ls : List CopyLane) (b : Option CopyBox) : CopyOp :=
    let rest := ls.filter fun c => c.len != 0
    ⟨t, rest, rest, b, [], none, f.iword, f.ctl, f.pc⟩
  match decode f.iword with
  | .ok (.acp _ _ _) => op (laneRanges g f false false) none
  | .ok (.acps _ _ _ x) => op (laneRanges g f (x == 0) (x != 0)) none
  | .ok (.acpt _ _ _ x) =>
    let b := flightBox s g f x
    op (boxRanges b x f.tail) (some b)
  | _ => op [] none

/-- A record without registers goes on with the copy before it (log 69). -/
def continues (g : Gang) (f : FlightImage) : Option CopyOp :=
  match g.copies.getLast? with
  | some c => if f.regs.isEmpty && c.iword = f.iword && c.pc = f.pc then some c else none
  | none => none

/-- The ranges of a further record join their copy. -/
def goOn (s : State) (g : Gang) (c : CopyOp) (f : FlightImage) : Gang :=
  let more := match c.box, decode f.iword with
    | some b, .ok (.acpt _ _ _ x) => (boxRanges b x f.tail).filter fun c => c.len != 0
    | _, _ => (flightCopy s g f c.ticket).lanes
  { g with copies := g.copies.map fun y => if y.ticket = c.ticket then { y with lanes := y.lanes ++ more, whole := y.whole ++ more } else y }

/-- An in-flight record entered in its gang, and the accesses of kind 1 that are to be performed. -/
def enterFlight (s : State) (id : Nat) (a : Gang × List (FlightImage × List Access)) (x : Nat × FlightImage) :
    Gang × List (FlightImage × List Access) :=
  let g := a.1
  let f := x.2
  match f.kind with
  | 1 =>
    let accs := flightAccesses s id g f x.1
    let mark (m : SMap Reg) (k : Nat) : SMap Reg :=
      let r := getAt Reg.zero m k
      if r.isEmpty then setAt Reg.zero m k ⟨r.val, .empty x.1⟩ else m
    let far := accs.any fun a => !a.scratch && isRemote s a.ptr && a.dests.isEmpty
    ({ g with
      v := (accs.flatMap Access.dests).foldl mark g.v
      counted := if far then g.counted ++ [⟨2, x.1, false⟩] else g.counted }, a.2 ++ [(f, accs)])
  | 2 =>
    match continues g f with
    | some c => (goOn s g c f, a.2)
    | none =>
      let op := flightCopy s g f x.1
      ({ g with
        copies := if op.lanes.isEmpty then g.copies else g.copies ++ [op]
        counted := g.counted ++ [⟨0, x.1, op.lanes.isEmpty⟩] }, a.2)
  | 3 =>
    ({ g with remotes := g.remotes ++ [⟨x.1, flightAccesses s id g f x.1, allLanes⟩], counted := g.counted ++ [⟨2, x.1, false⟩] }, a.2)
  | _ =>
    let accs := flightAccesses s id g f x.1
    ({ g with
      contribs := if accs.isEmpty then g.contribs else g.contribs ++ [⟨x.1, accs⟩]
      counted := g.counted ++ [⟨3, x.1, accs.isEmpty⟩] }, a.2)

/-- Operations that a counter still counts beyond the records are complete, behind an older one of their class (R332). -/
def fillCounted (g : Gang) (t : Nat) : Gang :=
  { g with counted := (List.range 4).foldl (fun l k =>
      l ++ List.replicate (g.kcOf k - (g.counted.filter fun c => c.cls == k).length) ⟨k, t, true⟩) g.counted }

/-- Rows of a compatibility kernel's window beyond its N rows, which a save leaves in the spill object (R76). Rows that cannot be read
hold any values. -/
def enterExtra (s : State) (g : Gang) : Gang × State :=
  if !g.c16 then (g, s)
  else (rowRange (g.lrow + g.nrows) (g.wb + g.wsize)).foldl (fun a r =>
    match readObject a.2 g.cuKey g.ctx (g.spill + word (264 * r)) 264 with
    | .ok bs => ({ a.1 with v := laneNumbers.foldl (fun m l => setAt Reg.zero m (32 * r + l)
        (regOf (wordAt bs (8 * l)) (bits (natAt bs 256 8) (2 * l + 1) (2 * l)) 0)) a.1.v }, a.2)
    | .error _ =>
      let t := a.2.tick
      ({ a.1 with v := laneNumbers.foldl (fun m l => setAt Reg.zero m (32 * r + l) ⟨Config.freeWord (t + l), .full⟩) a.1.v },
        { a.2 with tick := t + 32 })) (g, s)

/-- The instruction that stands at a PC. -/
def instrAt (s : State) (g : Gang) (pc : W64) : Option Instr :=
  match fetchPacket s g pc with
  | .error _ => none
  | .ok bs => match decode (slotOfPacket bs pc).2 with
    | .ok i => some i
    | .error _ => none

/-- The barrier word, and whether it is a cluster's, at which a gang stands as a whole, with predicate field d. -/
def standsAt (s : State) (g : Gang) : Option (Bool × Nat × Nat) :=
  let l := lowestLane g.liveLanes
  if g.liveLanes = 0 || (lanesOf g.liveLanes).any (fun m => g.pcOf m != g.pcOf l) then none
  else match instrAt s g (g.pcOf l) with
    | some (.bar d _ _ _ b) => some (false, b.toNat, d.toNat)
    | some (.cbar d _ _ _ b) => some (true, b.toNat, d.toNat)
    | _ => none

/-- A gang that had arrived at a word and waits there. -/
def parkArrived (g : Gang) (cluster : Bool) (w : Nat) (phase : Bool) (d : Nat) : Gang :=
  let g1 := g.setPark g.liveLanes (if cluster then .cbar w phase d else .bar w phase d)
  if cluster then { g1 with arrivedCbars := w :: g1.arrivedCbars } else { g1 with arrivedBars := w :: g1.arrivedBars }

/-- What the machine noted of a saved gang, entered again. Without a note the strands that hold a lane of TLANES are those in the
handler. -/
def enterNote (g : Gang) (note : Option SaveNote) : Gang :=
  match note with
  | some n =>
    let g1 : Gang := { g with arrivedBars := n.bars, arrivedCbars := n.cbars, handlerLanes := n.handler }
    match n.park with
    | some p => if g.killed then g1 else g1.setPark g1.liveLanes p
    | none => g1
  | none =>
    if g.tmask.getLsbD 0 then
      { g with handlerLanes := maskOf fun l => lane g.liveLanes l && (lanesOf g.tlanes).any fun m => lane (g.strandOf m) l }
    else g

end Sys2Proof.Machine
end

