-- ==== Sys2Proof/Machine/Place.lean ====
section
/-! DEFINITION. Placing blocks, clusters, cooperative grids and saved blocks on CUs (R14, R16, R25, R81, R285, R291, R292, R373). -/

namespace Sys2Proof.Machine

/-- What is to be placed: a block that starts, or a saved one with its image. -/
inductive ToPlace where
  | start (index : Nat)
  | saved (b : SavedBlock) (image : BlockImage)
  deriving DecidableEq, Repr

/-- The version entry an image starts in; none while it cannot be read. -/
def startEntry (s : State) (x : Grid) : Option (List W64) :=
  match versionEntry s frontEnd x.ctx x.vtab x.ver with
  | .ok e => e
  | .error _ => none

/-- What a block asks of a CU. -/
def ToPlace.need (x : Grid) : ToPlace → Need
  | .start i => ihNeed x.header i
  | .saved b bi => bi.need b.task

/-- The linear index, or the tag of a task. -/
def ToPlace.index : ToPlace → Nat
  | .start i => i
  | .saved b _ => b.index

/-- The cluster rank of a block (R86). -/
def ToPlace.crank (x : Grid) : ToPlace → Nat
  | .start i => i % ihCluster x.header
  | .saved _ bi => bi.crank

/-- The special values of a gang of a block (R86, R283). -/
def gangSpecial (x : Grid) (index gid : Nat) : Special :=
  let h := x.header
  let c := ihCoords h index
  ⟨gid, c, [c.getD 0 0 / ihCluster h, c.getD 1 0, c.getD 2 0], ihExtents h, ihBlockExt h, ihRole h gid, x.rank, ihGlanes h, ihBlanes h⟩

/-- The special values of a saved task's gang (R289). -/
def savedTaskSpecial (x : Grid) (b : SavedBlock) (bi : BlockImage) : Special :=
  let n := bi.taskLanes
  ⟨0, [b.index, 0, 0], [0, 0, 0], [1, 1, 1], [n, 1, 1], 0, x.rank, word n, n⟩

/-- What the gangs of a grid's blocks start with (R71, R283). -/
def launchOf (name : Nat) (x : Grid) (e : List W64) : Launch :=
  ⟨x.ctx, name, ihPrio x.header, entryPc (verCode e), fpRows (ihFoot x.header), fpWindow (ihFoot x.header), x.ver, khC16 e, ihProt x.header, x.vtab,
    ihRegs x.header⟩

/-- The note of a saved gang. -/
def noteOf (x : Grid) (task : Bool) (index gang : Nat) : Option SaveNote :=
  x.notes.find? fun n => n.task == task && n.index == index && n.gang == gang

/-- The note of a saved block. -/
def givenOf (x : Grid) (task : Bool) (index : Nat) : Option GivenNote := x.givens.find? fun n => n.task == task && n.index == index

/-- The Harp tables of a block's image (R285, R308). -/
def harpOfImage (q0 : Nat) (bs : List Byte) : List (Nat × HarpTable) :=
  (List.range 16).foldl (fun m k =>
    let i := k / 4
    let c := k % 4
    let base := i * (4 * 16384 + 4 * 32)
    let d := (List.range 4).map fun w => wordAt bs (base + 4 * 16384 + 32 * c + 8 * w)
    let t : HarpTable := ⟨match d with
      | w :: ws => (w &&& ~~~BitVec.twoPow 64 16) :: ws
      | [] => [], (List.range 8192).foldl (fun m j => setAt 0 m j (BitVec.ofNat 16 (natAt bs (base + 16384 * c + 2 * j) 2))) [],
      (d.getD 0 0).getLsbD 16⟩
    if !t.valid && t.trans.isEmpty && t.desc.all (· == 0) then m else put m (4 * ((q0 + i) % 4) + c) t) []

/-- The block that is placed, its gangs given by name. -/
def blockOf (name : Nat) (x : Grid) (b : ToPlace) (cluster cu q0 : Nat) (gangs : List Nat) (mir : Bool) : Block :=
  let n := b.need x
  match b with
  | .start i => ⟨name, x.ctx, i, cluster, b.crank x, cu / 48, cu % 48, q0, gangs, n.spb, n.tiles, [], [], [], [],
      (List.range 4).foldl (fun m q => setAt 0 m q (n.pool q0 q)) [], [], [], [], mir, false⟩
  | .saved sb bi => ⟨name, x.ctx, sb.index, cluster, b.crank x, cu / 48, cu % 48, q0, gangs, n.spb, n.tiles,
      (List.range n.spb).foldl (fun m i => setAt 0 m i (bi.spad.getD i 0)) [], [],
      (List.range 32).foldl (fun m i => setAt 0 m i (word32 (natAt bi.bytes (64 + 4 * i) 4))) [],
      ((givenOf x sb.task sb.index).map GivenNote.given).getD [],
      (List.range 4).foldl (fun m q => setAt 0 m q (n.pool q0 q)) [], [],
      (List.range 4).foldl (fun m i => (List.range (1024 * n.tiles)).foldl (fun m j =>
        setAt 0 m (16384 * ((q0 + i) % 4) + j) (word32 (natAt bi.acc (4 * (1024 * n.tiles * i + j)) 4))) m) [],
      harpOfImage q0 bi.harp, mir, sb.task⟩

/-- A gang of a block that is placed: its launch values, or its record. -/
def placedGang (s : State) (name : Nat) (x : Grid) (e : List W64) (b : ToPlace) (block cu q0 : Nat) (k gid slot : Nat) (mir : Bool) : Gang :=
  let q := (q0 + gid) % 4
  match b with
  | .start i => startGang s (launchOf name x e) (gangSpecial x i gid) block cu q slot mir
  | .saved sb bi =>
    let sp := if sb.task then savedTaskSpecial x sb bi else gangSpecial x sb.index gid
    let g := startGang s (launchOf name x e) sp block cu q slot mir
    match bi.gangs[k]? with
    | some gi => enterGang g gi mir s.fresh
    | none => g

/-- The resident slots free on a quarter. -/
def freeSlots (s : State) (q : Nat) : List Nat := (List.range 16).filter fun n => !(slotsUsed s q).contains n

/-- The lowest free slots for gangs, each on its quarter, in gang order. -/
def lowestSlots (s : State) (cu q0 : Nat) (gangs : List (Nat × Nat)) : List Nat :=
  (gangs.foldl (fun (a : List Nat × List (Nat × Nat)) g =>
    let q := (q0 + g.1) % 4
    let n := ((freeSlots s (4 * cu + q)).find? fun n => !a.2.contains (q, n)).getD 16
    (a.1 ++ [n], (q, n) :: a.2)) ([], [])).1

/-- Slots for the gangs of a block: one each, free, below 16, and no two on a quarter the same. -/
def slotsGood (s : State) (cu q0 : Nat) (gangs : List (Nat × Nat)) (slots : List Nat) : Bool :=
  decide (slots.length = gangs.length) &&
  (gangs.zip slots).all (fun x => (freeSlots s (4 * cu + (q0 + x.1.1) % 4)).contains x.2) &&
  distinct ((gangs.zip slots).map fun x => 16 * ((q0 + x.1.1) % 4) + x.2)

/-- The CUs of a vat of a die (R292). -/
def vatCus (die vat : Nat) : List Nat := (List.range 4).map fun i => 48 * die + 4 * vat + i

/-- One block placed on a CU, mirrored where its kernel permits it and the mirror rows are there; none where it does not fit, or where
another CU of the vat has room for the mirror rows and this one has not (R14, R81). A block that starts leaves the unstarted blocks, and a saved one the saved blocks, of its grid. -/
def placeBlock (s : State) (name : Nat) (e : List W64) (cluster cu q0 : Nat) (slots : List Nat) (b : ToPlace) : Option State :=
  match s.grid? name with
  | none => none
  | some x =>
    let n := b.need x
    let mir := khMir e && fits s cu q0 n true
    let better := khMir e && (vatCus (cu / 48) (cu % 48 / 4)).any fun c => (List.range 4).any fun q => fits s c q n true
    if 192 ≤ cu || 4 ≤ q0 || !fits s cu q0 n false || !slotsGood s cu q0 n.gangs slots || (better && !mir) then none
    else
      let blk := s.fresh
      let ids := (List.range n.gangs.length).map (blk + 1 + ·)
      let s1 := { s with fresh := blk + 1 + n.gangs.length }
      let gs := ((List.range n.gangs.length).zip (n.gangs.zip slots)).map fun y =>
        (blk + 1 + y.1, placedGang s1 name x e b blk cu q0 y.1 y.2.1.1 y.2.2 mir)
      let c := (find s.clusters cluster).getD ⟨name, [], [], []⟩
      some { s1 with
        gangs := gs.foldl (fun m g => put m g.1 g.2) s1.gangs
        blocks := put s1.blocks blk (blockOf name x b cluster cu q0 ids mir)
        clusters := put s1.clusters cluster { c with blocks := c.blocks ++ [blk] }
        grids := put s1.grids name (match b with
          | .start i => { x with unstarted := x.unstarted.erase i, live := x.live + 1 }
          | .saved sb _ =>
            let y := { x with saved := x.saved.erase sb }
            if sb.task then y else { y with live := y.live + 1 }) }

/-- The blocks of a list placed one after another on given CUs, first quarters and slots. -/
def placeAll (name : Nat) (e : List W64) (cluster : ToPlace → Nat) :
    List ToPlace → List Nat → List Nat → List Nat → State → Option State
  | [], [], [], [], s => some s
  | b :: bs, cu :: cus, q0 :: q0s, slots, s =>
    let k := match s.grid? name with
      | some x => (b.need x).gangs.length
      | none => 0
    match placeBlock s name e (cluster b) cu q0 (slots.take k) b with
    | some t => placeAll name e cluster bs cus q0s (slots.drop k) t
    | none => none
  | _, _, _, _, _ => none

/-- Some way to place blocks on CUs of a list: CU, first quarter and slots for each. -/
def findPlaces (name : Nat) (e : List W64) (cluster : ToPlace → Nat) (cus : List Nat) :
    List ToPlace → State → Option (List Nat × List Nat × List Nat)
  | [], _ => some ([], [], [])
  | b :: bs, s =>
    let slots (cu q0 : Nat) := match s.grid? name with
      | some x => lowestSlots s cu q0 (b.need x).gangs
      | none => []
    let tryAt (mir : Bool) := firstSome (fun (p : Nat × Nat) =>
      if mir && !(match s.grid? name with
          | some x => khMir e && fits s p.1 p.2 (b.need x) true
          | none => false) then none
      else match placeBlock s name e (cluster b) p.1 p.2 (slots p.1 p.2) b with
        | none => none
        | some t => (findPlaces name e cluster cus bs t).map fun r => (p.1 :: r.1, p.2 :: r.2.1, slots p.1 p.2 ++ r.2.2))
      (cus.flatMap fun c => (List.range 4).map fun q => (c, q))
    (tryAt true).or (tryAt false)

/-- A vat of a die. -/
def vatAt (s : State) (die vat : Nat) : Vat := (s.die die).vats.getD vat Vat.reset

/-- A vat in the eligible set and free of a droop ban (R292). -/
def Vat.usable (v : Vat) : Bool := v.eligible && v.droopBan == 0

/-- The dies of a grid's share (R313). -/
def gridDies (x : Grid) : List Nat := (List.range 4).filter fun d => x.dies / 2 ^ d % 2 == 1

/-- Blocks can be placed on a vat. -/
def vatFits (s : State) (name : Nat) (e : List W64) (cluster : ToPlace → Nat) (bs : List ToPlace) (v : Nat × Nat) : Bool :=
  (findPlaces name e cluster (vatCus v.1 v.2) bs s).isSome

/-- The vats of some dies. -/
def vatsOf (dies : List Nat) : List (Nat × Nat) := dies.flatMap fun d => (List.range 12).map fun v => (d, v)

/-- A block or cluster may go to a vat (R292): the coolest eligible vat of the die that fits it; or, when no vat of the device is
eligible, the coolest that fits. -/
def vatAllowed (s : State) (x : Grid) (fit : Nat × Nat → Bool) (v : Nat × Nat) : Bool :=
  let temp (w : Nat × Nat) := (vatAt s w.1 w.2).celsius
  let coolest (ws : List (Nat × Nat)) : Bool := ws.contains v && ws.all fun w => decide (temp v ≤ temp w)
  (gridDies x).contains v.1 &&
    if (vatAt s v.1 v.2).usable then coolest ((vatsOf [v.1]).filter fun w => (vatAt s w.1 w.2).usable && fit w)
    else (vatsOf [0, 1, 2, 3]).all (fun w => !(vatAt s w.1 w.2).usable) && coolest ((vatsOf (gridDies x)).filter fit)

/-- No CU still holds a share of a context's save in its emergency area (R379). -/
def copiedOut (s : State) (ctx : Nat) : Bool := s.cus.all fun c => match c.2.emergency with
  | some e => e.1 != ctx
  | none => true

/-- The saved block as it is read from its image; none while the image is not there. -/
def readSaved (s : State) (x : Grid) (b : SavedBlock) : Option ToPlace :=
  if !copiedOut s x.ctx then none
  else match readBlock (imageRead s x.ctx b.image) (fpTiles (ihFoot x.header)) b.task b.off with
    | .ok bi => some (.saved b bi)
    | .error _ => none

/-- The blocks that are placed together with a number (R25): the cluster it lies in, or the whole of a cooperative grid; a number beyond
the grid's blocks names a saved task. None while a saved one cannot be read. -/
def together (s : State) (x : Grid) (index : Nat) : Option (List ToPlace) :=
  let n := ihBlocks x.header
  let c := ihCluster x.header
  if n ≤ index then
    (match (x.saved.filter SavedBlock.task)[index - n]? with
      | some b => if b.wait.isSome then none else (readSaved s x b).map fun t => [t]
      | none => none)
  else
    let mine (i : Nat) : Bool := x.coop || i / c == index / c
    let saved := x.saved.filter fun b => !b.task && mine b.index
    if saved.any fun b => b.wait.isSome then none
    else (saved.mapM (readSaved s x)).map fun bs => ((x.unstarted.filter mine).map .start) ++ bs

/-- The names of the clusters that blocks placed together belong to: one for each cluster of the grid, and one for a task. -/
def clusterName (fresh : Nat) (x : Grid) (b : ToPlace) : Nat :=
  match b with
  | .saved sb _ => if sb.task then fresh else fresh + 1 + sb.index / ihCluster x.header
  | .start i => fresh + 1 + i / ihCluster x.header

/-- Cluster barrier words of saved blocks (R249, R285): what the machine noted, or the captured arrivals with the gangs that count
now. -/
def enterCluster (s : State) (x : Grid) (c : Nat) (bs : List ToPlace) : State :=
  let notes := bs.filterMap fun b => match b with
    | .saved sb _ => givenOf x sb.task sb.index
    | _ => none
  let arr := bs.flatMap fun b => match b with
    | .saved _ bi => bi.arrivals
    | _ => []
  let gs := clusterGangs s c
  let ab := gs.any fun id => match s.gang? id with
    | some g => g.killed
    | none => false
  let words := arr.foldl (fun m w => setAt 0 m (fld w 4 0) (barWord (w.getLsbD 32) ab
    (if fld w 31 16 = 0 then 0 else countOf s gs) (fld w 31 16))) []
  { s with clusters := change s.clusters c fun y => match notes with
      | n :: _ => { y with words := n.words, given := n.cgiven }
      | [] => { y with words := words } }

/-- Gangs of a block without a note that stand at a barrier word, as many of them as have arrived there by its count, wait at it. -/
def parkStanding (noted : Nat → Bool) (b : Nat) (s : State) : State :=
  let waiting (cluster : Bool) (w : Nat) : Nat := ((barGangs s cluster b).filter fun id => match s.gang? id with
    | some g => hasArrived g cluster w
    | none => false).length
  (blockGangs s b).foldl (fun s id =>
    match s.gang? id with
    | none => s
    | some g =>
      if noted id || g.killed then s
      else match standsAt s g with
        | some (cl, w, d) =>
          let v := barGet s cl b w
          if g.counts && waiting cl w < barArr v then s.setGang id (parkArrived g cl w (barPhase v) d) else s
        | none => s) s

/-- The strands of a gang that stand at a CLAIM wait for the pool (R154). -/
def queueClaims (s : State) (id : Nat) : State :=
  match s.gang? id with
  | none => s
  | some g =>
    if g.killed then s
    else ((lanesOf g.liveLanes).filter fun l => lowestLane (g.strandOf l) == l).foldl (fun s l =>
      match instrAt s g (g.pcOf l) with
      | some (.claim im) => (s.onGang id fun g => g.setPark (g.strandOf l) .claim).onBlock g.block fun b =>
          { b with claims := b.claims ++ [(g.quarter, id, g.strandOf l, im.toNat)] }
      | _ => s) s

/-- A reissued access misses on a given sub-tile of its object. -/
def missesOn (s : State) (g : Gang) (sub : Nat × Nat × Nat) (a : Access) : Bool := ptrObj a.ptr == sub.1 && match checkAccess s g a with
  | .error (.notres j k) => j == sub.2.1 && k == sub.2.2
  | _ => false

/-- The accesses of a record are held, each in its place of local order, and taken at once with fresh translation; those that miss on a
sub-tile which the fault service declined raise NOTRES (R266, R287, R372, R373). Other lanes of the instruction that are active performed
theirs. `idle`: they only stay held. -/
def resumeAccesses (id cu : Nat) (idle : Bool) (declined : Option (Nat × Nat × Nat)) (s : State) (f : FlightImage × List Access) : State :=
  match s.gang? id, f.2 with
  | some g, a :: _ =>
    let mask := g.copyMask (f.2.map Access.lane)
    let others := g.strandOf a.lane &&& g.guardMask &&& ~~~g.helpers &&& ~~~mask != 0
    let hs := f.2.map fun a => (⟨id, a, g.ctx, ptrObj a.ptr, 0, 0, true, true, false, others, []⟩ : Held)
    let t := hs.foldl (keepPlace allLanes) s
    let bad : List Held := match declined with
      | some d => hs.filter fun (h : Held) => missesOn s g d h.acc
      | none => []
    if idle then hs.foldl (fun s h => holdAccess s cu h) t
    else if bad.isEmpty then reissueGroup t cu hs
    else declineGroup (reissueGroup t cu (hs.filter fun h => !bad.contains h)) cu bad
  | _, _ => s

/-- A record of an access made once for the gang names an object among its registers (R252, R287). -/
def FlightImage.names (f : FlightImage) (obj : Nat) : Bool := f.regs.any fun r => match decode f.iword with
  | .ok (.ckpt _ _) => fld (r.2.getD 0 0) 50 32 == obj
  | _ => ptrObj (r.2.getD 0 0) == obj

/-- A copy has a byte left that misses on a given sub-tile. -/
def copyMissesOn (s : State) (g : Gang) (d : Nat × Nat × Nat) (op : CopyOp) : Bool :=
  let on (q : W64) (r : Except Miss (List Place)) : Bool := ptrObj q == d.1 && match r with
    | .error (.notres j k) => j == d.2.1 && k == d.2.2
    | _ => false
  op.lanes.any fun c => c.positions.any fun p =>
    let rs := piecePlaces s g op c [p]
    on ((op.box.map CopyBox.ptr).getD c.src) rs.1 || on ((op.box.map CopyBox.ptr).getD c.dst) rs.2

/-- A restored gang whose access for the whole gang, fetch or copy piece meets a sub-tile that the fault service declined: NOTRES at its
instruction, or a kill (R235, R372, R373). -/
def declineRest (id : Nat) (once : List FlightImage) (d : Nat × Nat × Nat) (s : State) : State :=
  match s.gang? id with
  | none => s
  | some g =>
    let taken := (once.filter fun f => f.names d.1).foldl (fun s f =>
      let m := g.strandOf (lowestLane f.lanes)
      if g.pcOf (lowestLane f.lanes) = f.pc then takeTrap s id m f.pc .notres 0 m else s) s
    let fetched := laneNumbers.foldl (declineFetch .ready d.1 d.2.1 d.2.2 id) taken
    match g.copies.find? (copyMissesOn fetched g d) with
    | some c => killGang fetched id .notres 0 false c.pc (g.copyMask (c.lanes.map CopyLane.lane))
    | none => fetched

/-- A restored gang's records, parked conditions and held accesses (R286, R287, R373). -/
def finishGang (x : Grid) (sb : SavedBlock) (gi : GangImage) (id : Nat) (s : State) : State × List (FlightImage × List Access) :=
  match s.gang? id with
  | none => (s, [])
  | some g =>
    let t0 := s.fresh
    let n := gi.flights.length
    let r := enterExtra { s with fresh := t0 + n + 1 } g
    let y := ((List.range n).map (t0 + ·)).zip gi.flights |>.foldl (enterFlight r.2 id) (r.1, [])
    let g1 := enterYields r.2 (fillCounted y.1 (t0 + n)) gi
    (r.2.setGang id (enterNote g1 (noteOf x sb.task sb.index g.special.gangId)), y.2)

/-- What restored blocks need once all of them are placed; no older values remain in the L1s of their CUs (R266). -/
def finishPlaced (name : Nat) (bs : List ToPlace) (first : Nat) (idle : Bool) (s : State) : State :=
  match s.grid? name with
  | none => s
  | some x =>
    let mine := s.blocks.filter fun b => decide (first ≤ b.1)
    let saved := bs.filterMap fun b => match b with
      | .saved sb bi => (mine.find? fun y => y.2.index == sb.index && y.2.task == sb.task).map fun y => (y, sb, bi)
      | _ => none
    if saved.isEmpty then s
    else
      let clusters := (saved.map fun y => y.1.2.cluster).eraseDups
      let s1 := clusters.foldl (fun s c => enterCluster s x c bs) s
      let gangs := saved.flatMap fun y => (y.1.2.gangs.zip y.2.2.gangs).map fun z => (z.1, y.2.1, z.2)
      let r := gangs.foldl (fun (a : State × List (Nat × Option (Nat × Nat × Nat) × List (FlightImage × List Access))) z =>
        let f := finishGang x z.2.1 z.2.2 z.1 a.1
        (f.1, a.2 ++ [(z.1, z.2.1.declined, f.2)])) (s1, [])
      let noted (id : Nat) : Bool := gangs.any fun z => z.1 == id && match s.gang? id with
        | some g => (noteOf x z.2.1.task z.2.1.index g.special.gangId).isSome
        | none => false
      let s2 := saved.foldl (fun s y => parkStanding noted y.1.1 s) r.1
      let s3 := gangs.foldl (fun s z => queueClaims s z.1) s2
      let s4 := saved.foldl (fun s y => invalidateL1 s (48 * y.1.2.die + y.1.2.cu)) s3
      r.2.foldl (fun s z => match s.gang? z.1 with
        | some g =>
          let t := z.2.2.foldl (resumeAccesses z.1 g.cuKey idle z.2.1) s
          match z.2.1 with
          | some d => if idle then t else declineRest z.1 ((z.2.2.filter fun y => y.2.isEmpty).map Prod.fst) d t
          | none => t
        | none => s) s4

/-- Blocks of one cluster go to CUs of one vat (R25). -/
def vatsWhole (cl : ToPlace → Nat) (bs : List ToPlace) (cus : List Nat) : Bool :=
  (bs.zip cus).all fun a => (bs.zip cus).all fun b => cl a.1 != cl b.1 || a.2 / 4 == b.2 / 4

/-- The blocks that go together to the CUs of one vat: a cluster each. -/
def clusterGroups (cl : ToPlace → Nat) (bs : List ToPlace) : List (List ToPlace) :=
  ((bs.map cl).eraseDups).map fun c => bs.filter fun b => cl b == c

/-- Clusters placed one after another, each on the vat that R292 gives it; none where one does not fit. -/
def placeGroups (name : Nat) (x : Grid) (e : List W64) (cl : ToPlace → Nat) :
    List (List ToPlace) → List Nat → List Nat → List Nat → State → Option State
  | [], [], [], [], s => some s
  | bs :: rest, cus, q0s, slots, s =>
    let n := bs.length
    let k := (bs.map fun b => (b.need x).gangs.length).foldl (· + ·) 0
    let vat : Nat × Nat := ((cus.headD 0) / 48, (cus.headD 0) % 48 / 4)
    if !vatAllowed s x (vatFits s name e cl bs) vat then none
    else match placeAll name e cl bs (cus.take n) (q0s.take n) (slots.take k) s with
      | some t => placeGroups name x e cl rest (cus.drop n) (q0s.drop n) (slots.drop k) t
      | none => none
  | _, _, _, _, _ => none

/-- The tile of 8 × 8 blocks that a block lies in, in the order of placement: z, tile row, tile column (R291). -/
def tileKey (h : List W64) (i : Nat) : Nat :=
  let gx := (ihExtents h).getD 0 1
  let gy := (ihExtents h).getD 1 1
  (i / (gx * gy) * ((gy + 7) / 8) + i / gx % gy / 8) * ((gx + 7) / 8) + i % gx / 8

/-- A signed four-bit step of a curve table (R291). -/
def curveStep (n : Nat) : Int := if n < 8 then n else (n : Int) - 16

/-- The positions of a curve table, from (0, 0) on (R291). -/
def curvePositions : List Byte → Int × Int → List (Int × Int)
  | [], _ => []
  | b :: bs, p =>
    let q := (p.1 + curveStep (b.toNat % 16), p.2 + curveStep (b.toNat / 16))
    q :: curvePositions bs q

/-- A block's place on a curve within its tile (R291). -/
def curveKey (h : List W64) (curve : List Byte) (i : Nat) : Nat :=
  let gx := (ihExtents h).getD 0 1
  let gy := (ihExtents h).getD 1 1
  (curvePositions curve (0, 0)).findIdx fun p => decide (p = (((i % gx % 8 : Nat) : Int), ((i / gx % gy % 8 : Nat) : Int)))

/-- The tile that a die's front end takes blocks from: the one it has, while blocks of it are unstarted, else the first that no other die
has (R291). -/
def frontTile (x : Grid) (die : Nat) : Option Nat :=
  let left (t : Nat) : Bool := x.unstarted.any fun i => tileKey x.header i == t
  let mine := getAt 0 x.fronts die
  if mine != 0 && left (mine - 1) then some (mine - 1)
  else leastBy id ((x.unstarted.map (tileKey x.header)).filter fun t => !x.fronts.any fun f => f.1 != die && f.2 == t + 1)

/-- The block that a die's front end takes next (R291). -/
def frontNext (s : State) (x : Grid) (die : Nat) : Option Nat :=
  (frontTile x die).bind fun t => leastBy (curveKey x.header (s.die die).curve) (x.unstarted.filter fun i => tileKey x.header i == t)

/-- Blocks that are to be placed together come next in the order of a die: one of them does; saved blocks, and a cooperative grid, which
is placed whole, have no order (R25, R291). -/
def inOrder (s : State) (x : Grid) (die : Nat) (bs : List ToPlace) : Bool :=
  x.coop || (bs.all fun b => match b with
    | .saved _ _ => true
    | .start _ => false) || match frontNext s x die with
      | some i => bs.any fun b => match b with
        | .start j => i == j
        | .saved _ _ => false
      | none => false

/-- A context has work that waits for CUs: blocks that could be placed, or tasks (R293). -/
def wantsCus (s : State) (ctx : Nat) : Bool :=
  (copiedOut s ctx && s.grids.any fun g => g.2.ctx == ctx && !g.2.away &&
    (!g.2.unstarted.isEmpty || g.2.saved.any fun b => b.wait.isNone)) ||
  s.cus.any (fun c => c.2.tasks.any fun t => t.ctx == ctx) || match s.ctx? ctx with
    | some x => !x.taskSpilled.isEmpty
    | none => false

/-- CUs go to contexts by priority and then round robin: none that wants CUs comes before this one (R293). -/
def ctxTurn (s : State) (ctx : Nat) : Bool :=
  match s.ctx? ctx with
  | none => false
  | some x =>
    let place (c : Nat) := roundFrom (getAt 0 s.ctxRr x.prio) (2 ^ 20) c
    s.contexts.all fun y => y.1 == ctx || !wantsCus s y.1 ||
      decide (y.2.prio < x.prio) || (y.2.prio == x.prio && decide (place ctx ≤ place y.1))

/-- The tile of a block that has been placed is its die's. -/
def takeTile (die index : Nat) (x : Grid) : Grid :=
  if index < ihBlocks x.header then { x with fronts := setAt 0 x.fronts die (tileKey x.header index + 1) } else x

/-- BLOCK_PLACE (R25, R291 to R293): a block, a cluster or a whole cooperative grid is placed on CUs of the grid's dies with given first
quarters and slots, when its turn has come and if they fit there. Nothing changes where they do not. -/
def execBlockPlace (grid index : Nat) (cus q0s slots : List Nat) (s : State) : Out :=
  .next (match s.grid? grid with
    | none => s
    | some x => match together s x index, startEntry s x with
      | some (b :: bs), some e =>
        let cl := clusterName s.fresh x
        let die := (cus.headD 0) / 48
        if x.away || !vatsWhole cl (clusterGroups cl (b :: bs)).flatten cus || !inOrder s x die (b :: bs) || !ctxTurn s x.ctx then s
        else match placeGroups grid x e cl (clusterGroups cl (b :: bs)) cus q0s slots { s with fresh := s.fresh + 2 + ihBlocks x.header } with
          | some t =>
            let u := finishPlaced grid (b :: bs) s.fresh false t
            { u with grids := change u.grids grid fun y => if x.unstarted.contains index && !x.coop then takeTile die index y else y }
          | none => s
      | _, _ => s)

end Sys2Proof.Machine
end

