-- ==== Sys2Proof/Machine/Save.lean ====
section
/-! DEFINITION. Pre-emption: what a save waits for, the image written into the save area or the emergency areas, the CUs freed, and
blocks switched out on a NOTRES (R293, R373, R378, R379). -/

namespace Sys2Proof.Machine

/-- The gangs of a context. -/
def ctxGangs (s : State) (ctx : Nat) : List Nat := (s.gangs.filter fun g => g.2.ctx == ctx).map Prod.fst

/-- Every matrix queue of the quarters that hold some gangs runs empty (R183, R378). -/
def drainQuarters (s : State) (ids : List Nat) : State :=
  let qs := (ids.filterMap fun id => (s.gang? id).map Gang.qKey).eraseDups
  qs.foldl (fun s q => (s.quarter q).matrix.foldl (fun s _ => matrixStep s q) s) s

/-- Held lanes of a strand that stalled at an instruction: their last-use hints act, and the strand will go on past it (R51, R287). -/
def passHeld (s : State) (id : Nat) : State :=
  match s.gang? id with
  | none => s
  | some g =>
    ((heldAt s g.cuKey).filter fun h => h.gang == id && !h.passed && decide (h.acc.kind ≠ .once)).foldl (fun s h =>
      (passLanes s id g.cuKey h.acc.ticket).onGang id fun g =>
        if g.pcOf h.acc.lane = h.acc.pc then g.advance (g.strandOf h.acc.lane) else g) s

/-- Registers of spilled rows that were empty when they were spilled and have been filled since go to the spill object, as far as it can be
written (R74, R286). -/
def saveSpilled (s : State) (id : Nat) : State :=
  match s.gang? id with
  | none => s
  | some g =>
    let rows := ((g.v.filter fun x => decide (x.1 < 32 * g.lrow) && !x.2.isEmpty).map fun x => x.1 / 32).eraseDups
    rows.foldl (fun s r =>
      match readObject s g.cuKey g.ctx (g.spill + word (264 * r)) 264 with
      | .error _ => s
      | .ok bs => (writeObject s g.cuKey g.ctx (g.spill + word (264 * r)) (rowBytes (refillRows g [(r, bs)]) r)).getD s) s

/-- Rows of a compatibility kernel's window beyond its N rows go to the spill object, as far as it can be written (R76). -/
def saveExtra (s : State) (id : Nat) : State :=
  match s.gang? id with
  | none => s
  | some g =>
    if !g.c16 then s
    else (rowRange (g.lrow + g.nrows) (g.wb + g.wsize)).foldl (fun s r =>
      (writeObject s g.cuKey g.ctx (g.spill + word (264 * r)) (rowBytes g r)).getD s) s

/-- The samples of a gang that is saved: one still in flight is cut short, and their records are written (R344). -/
def saveSamples (s : State) (id : Nat) : State :=
  match s.gang? id with
  | none => s
  | some g =>
    let t := (g.sampled.filter fun x => x.finished.isNone).foldl (fun s x =>
      let r := s.draw
      finishSample r.2 id x (r.1.toNat % 10) true) s
    match t.gang? id with
    | some h => h.sampled.foldl (fun s x => writeSample s id x) t
    | none => t

/-- Step 1 of a save for one gang (R378): a transfer whose sequencer runs is completed (R305), its accesses are performed, its results
return, a checkpoint commits, completed operations leave their counters, combined block counts are performed, and sampled accesses are
cut short. -/
def settleGang (s : State) (id : Nat) : State :=
  match s.gang? id with
  | none => s
  | some g0 =>
    if g0.killed then s
    else
      let s0 := if g0.sequencing then transferSequence s id else s
      let s1 := ckptCommit id (drain s0 id)
      let pend := match s1.gang? id with
        | some g => g.pending.map Pending.ticket
        | none => []
      let s2 := pend.foldl (fun s t => resultReturn s id t) s1
      let s3 := s2.onGang id fun g => (List.range 4).foldl (fun g k => g.counted.foldl (fun g _ => reportOp g k) g) g
      let s4 := saveSamples (writeOutBbc s3 id) id
      saveSpilled (saveExtra (passHeld (stopRuns (s4.onGang id fun g => { g with rendezvous := none }) id) id) id) id

/-- The destination field of a memory instruction that fills registers. -/
def fillField (i : Instr) : Option Nat :=
  match i with
  | .ld d _ _ _ _ => some d.toNat
  | .lds d _ _ _ _ => some d.toNat
  | .ldc d _ _ _ => some d.toNat
  | .redpoll d _ _ => some d.toNat
  | .atom d _ _ _ _ => some d.toNat
  | .atoms d _ _ _ _ => some d.toNat
  | _ => none

/-- A held access fills registers that its instruction no longer names, the window having moved since: its record could not say which. -/
def frameMoved (s : State) (id : Nat) (g : Gang) : Bool :=
  hasHeld s id g.cuKey fun h => match decode h.acc.iword with
    | .ok i => match fillField i with
      | some d => h.acc.dests.any fun k => k / 32 != g.wb + d && k / 32 != g.wb + d + 1
      | none => false
    | .error _ => false

/-- What a save of a gang still waits for (R305, R378): a checkpoint, the transfer sequencer, combined counts whose tile is moving or not
resident, or a held access that a record could not describe. -/
def saveWaits (s : State) (id : Nat) : Bool := match s.gang? id with
  | some g => !g.killed && (g.checkpoint.isSome || g.sequencing || bbcOwed s id g.cuKey || frameMoved s id g)
  | none => false

/-- Everything a save of some gangs waits for is done; none while it cannot be (R378). -/
def settleAll (s : State) (ids : List Nat) : Option State :=
  let t := ids.foldl settleGang (drainQuarters s ids)
  if ids.any (saveWaits t) then none else some t

/-- Pieces of at most 256 bytes, from an offset on. -/
def piecesOf : Nat → Nat → List Byte → List (Nat × List Byte)
  | 0, _, _ => []
  | n + 1, off, bs => if bs.isEmpty then [] else (off, bs.take 256) :: piecesOf n (off + 256) (bs.drop 256)

/-- The pieces of an image, each with the CU that writes it. -/
def sharePieces : List (Nat × Nat) → Nat → List Byte → List (Nat × Nat × List Byte)
  | [], _, _ => []
  | (cu, n) :: rest, off, bs =>
    ((piecesOf (n + 1) off (bs.take n)).map fun p => (cu, p.1, p.2)) ++ sharePieces rest (off + n) (bs.drop n)

/-- The save area cannot take a piece: the context is held (R379). -/
def holdContext (s : State) (ctx : Nat) (code : Nat) : State := s.onCtx ctx fun x => { x with held := some code }

/-- One piece of a save, a request of BUD6, written into its object, or from the first fault on into the CU's emergency area (R340,
R379). -/
def savePiece (ctx : Nat) (area : W64) (limit : Nat) (s : State) (x : Nat × Nat × List Byte) : State :=
  let c := s.cu x.1
  let p := withOff area x.2.1
  let s := chargeBudget s (x.1 / 48 % 4) 6 1
  let away (s : State) : State := s.setCu x.1 { s.cu x.1 with emergency := some (ctx, ((c.emergency.map Prod.snd).getD []) ++ [(p, x.2.2)]) }
  if c.emergency.isSome then away s
  else if limit < x.2.1 + x.2.2.length then holdContext (away s) ctx (Code.num .oos)
  else match translate s frontEnd ctx p .write false false x.2.2.length with
    | .ok ps => performBytes s (x.1 / 48 % 4) none (ps.zip x.2.2)
    | .error (.notres _ _) => away s
    | .error (.hold _) => away s
    | .error (.damaged t) => holdContext (away (markDamaged s ctx (ptrObj area) t)) ctx (Code.num .objue)
    | .error (.fault k _) => holdContext (away s) ctx k.num

/-- The bytes of an image object that an image may take: all but the last 256 (R283). -/
def imageRoom (s : State) (ctx : Nat) (area : W64) : Nat := imageSize s frontEnd ctx (ptrObj area) - 256

/-- An image written into a save object: its shares, then zeros up to the last 256 bytes (R283, R378). -/
def writeImage (s : State) (ctx : Nat) (area : W64) (b : Build) : State :=
  let room := imageRoom s ctx area
  let cu0 := (b.shares.head?.map Prod.fst).getD frontEnd
  let fill := List.replicate (room - b.bytes.length) (0 : Byte)
  let pieces := sharePieces b.shares 0 b.bytes ++ sharePieces [(cu0, fill.length)] b.bytes.length fill
  pieces.foldl (savePiece ctx area room) s

/-- Blocks leave their CUs with everything of their gangs (R378). -/
def evict (s : State) (names : List Nat) : State :=
  let ids := names.flatMap (blockGangs s)
  let blocks := s.blocks.filter fun b => !names.contains b.1
  let s1 := ids.foldl stopRuns s
  { s1 with
    cur := none
    gangs := s1.gangs.filter fun g => !ids.contains g.1
    blocks := blocks
    clusters := s1.clusters.filter fun c => c.2.blocks.any fun k => (find blocks k).isSome
    cus := (s1.cus.filter fun c => decide (c.1 < 192)).map fun c => (c.1, { c.2 with
      replay := c.2.replay.filter fun h => !ids.contains h.gang
      replayWait := c.2.replayWait.filter fun h => !ids.contains h.gang }) }

/-- What the machine keeps of saved gangs that the image does not hold. -/
def saveNotes (s : State) (blocks : List (Nat × Block)) : List SaveNote :=
  blocks.flatMap fun b => b.2.gangs.filterMap fun id => (s.gang? id).map fun g =>
    let park := g.parkOf (lowestLane g.liveLanes)
    ⟨b.2.task, b.2.index, g.special.gangId, g.arrivedBars, g.arrivedCbars,
      (match park with
        | .bar _ _ _ => some park
        | .cbar _ _ _ => some park
        | _ => none), g.handlerLanes⟩

/-- What the machine keeps of saved blocks. -/
def saveGivens (s : State) (blocks : List (Nat × Block)) : List GivenNote :=
  blocks.map fun b =>
    let c := (find s.clusters b.2.cluster).getD ⟨0, [], [], []⟩
    ⟨b.2.task, b.2.index, b.2.given, c.words, c.given⟩

/-- Notes renewed for blocks saved now. -/
def renewNotes (s : State) (blocks : List (Nat × Block)) (x : Grid) : Grid :=
  let mine (task : Bool) (i : Nat) : Bool := blocks.any fun b => b.2.task == task && b.2.index == i
  { x with
    notes := (x.notes.filter fun n => !mine n.task n.index) ++ saveNotes s blocks
    givens := (x.givens.filter fun n => !mine n.task n.index) ++ saveGivens s blocks }

/-- Pointers to the save objects of a context: the save area and the objects numbered after it. One is taken that holds no image still
needed. -/
def saveObject (s : State) (ctx : Nat) : W64 :=
  let area := match s.ctx? ctx with
    | some x => x.saveArea
    | none => 0
  let mine := s.grids.filter fun g => g.2.ctx == ctx
  let used := (mine.filterMap fun g => if g.2.away then some (ptrObj g.2.image) else none) ++
    mine.flatMap fun g => g.2.saved.map fun b => ptrObj b.image
  let k := (firstFrom (fun k => !used.contains (ptrObj area + k)) (used.length + 1) 0).getD 0
  area + word (k * 2 ^ 36)

/-- Saved blocks of a grid that have not been placed again join the blocks to be saved: they stand, idle, on no CU of the package. None
while their images cannot be read. -/
def bringSaved (s : State) (name : Nat) : Option State :=
  match s.grid? name with
  | none => some s
  | some x =>
    match x.saved.mapM (readSaved s x) with
    | none => none
    | some bs =>
      let first := s.fresh
      let cl := clusterName s.fresh x
      let e := (startEntry s x).getD []
      let place (s : State) (y : Nat × ToPlace) : State :=
        let cu := 192 + y.1
        let n := y.2.need x
        let blk := s.fresh
        let ids := (List.range n.gangs.length).map (blk + 1 + ·)
        let s1 := { s with fresh := blk + 1 + n.gangs.length }
        let gs := ((List.range n.gangs.length).zip n.gangs).map fun z =>
          (blk + 1 + z.1, placedGang s1 name x e y.2 blk cu 0 z.1 z.2.1 0 false)
        let c := (find s.clusters (cl y.2)).getD ⟨name, [], [], []⟩
        { s1 with
          gangs := gs.foldl (fun m g => put m g.1 g.2) s1.gangs
          blocks := put s1.blocks blk (blockOf name x y.2 (cl y.2) cu 0 ids false)
          clusters := put s1.clusters (cl y.2) { c with blocks := c.blocks ++ [blk] } }
      let s0 := { s with fresh := first + 2 + ihBlocks x.header, grids := put s.grids name { x with saved := [] } }
      some (finishPlaced name bs first true (((List.range bs.length).zip bs).foldl place s0))

/-- Tasks of a grid that wait: those in CU queues, in shadow slots, and spilled (R284, R293). -/
def waitingTasks (s : State) (name : Nat) : List W64 :=
  (s.cus.flatMap fun c => ((c.2.tasks ++ c.2.shadows.map Shadow.task).filter fun t => t.grid == name).map Task.ptr) ++
    s.contexts.flatMap fun x => (x.2.taskSpilled.filter fun t => t.grid == name).map Task.ptr

/-- The waiting tasks of a grid leave the queues; a shadow slot's reservation is freed (R293). -/
def dropWaiting (s : State) (name : Nat) : State :=
  { s with
    cus := s.cus.map fun c => (c.1, { c.2 with
      tasks := c.2.tasks.filter fun t => t.grid != name
      shadows := c.2.shadows.filter fun x => x.task.grid != name })
    contexts := s.contexts.map fun x => (x.1, { x.2 with taskSpilled := x.2.taskSpilled.filter fun t => t.grid != name }) }

/-- A grid whose gangs are settled is saved whole: its image is written and its CUs are freed (R378). -/
def saveGrid (s : State) (name : Nat) : State :=
  match s.grid? name with
  | none => s
  | some x =>
    let blocks := s.blocks.filter fun b => b.2.grid == name
    let area := saveObject s x.ctx
    let y := renewNotes s blocks x
    let b := savedImage s x blocks x.unstarted (waitingTasks s name)
    let s1 := dropWaiting (evict (writeImage s x.ctx area b) (blocks.map Prod.fst)) name
    { s1 with
      grids := put s1.grids name { y with unstarted := [], saved := [], live := 0, tasks := 0, away := true, image := area }
      contexts := change s1.contexts x.ctx fun c => { c with savedImage := true } }

/-- A CU of some gangs whose emergency area still holds another save (R379). -/
def areaBusy (s : State) (ids : List Nat) : Bool :=
  ids.any fun id => match s.gang? id with
    | some g => (s.cu g.cuKey).emergency.isSome
    | none => false

/-- STOP_REQUEST (R378): the grids of a context are saved, once everything the save waits for can be done. -/
def stopContext (s : State) (ctx : Nat) : State :=
  let names := (s.grids.filter fun g => g.2.ctx == ctx && !g.2.away).map Prod.fst
  let ids := ctxGangs s ctx
  if names.isEmpty || areaBusy s ids then s
  else match settleAll s ids with
    | none => s
    | some t => match names.foldl (fun (a : Option State) n => a.bind fun s => bringSaved s n) (some t) with
      | none => s
      | some u => names.foldl saveGrid u

/-- STOP_REQUEST (R378). -/
def execStopRequest (ctx : Nat) (s : State) : Out := .next (stopContext s ctx)

/-- SLICE_END (R293): the slice pays off what its context owes, and the context is stopped when another of equal or higher priority waits
for its CUs; by how much the save overruns the slice is free. The next turn of its priority is the next context's. -/
def execSliceEnd (ctx : Nat) (s : State) : Out :=
  .next (match s.ctx? ctx with
    | none => s
    | some x =>
      let owed := x.overrun - min x.overrun x.slice
      let turn (s : State) : State := { s with ctxRr := setAt 0 s.ctxRr x.prio (ctx + 1) }
      if s.contexts.any fun y => y.1 != ctx && decide (x.prio ≤ y.2.prio) && wantsCus s y.1 then
        let t := stopContext s ctx
        if (ctxGangs t ctx).isEmpty then
          let r := t.draw
          turn (r.2.onCtx ctx fun x => { x with overrun := owed + fld r.1 31 0 })
        else t
      else turn (s.onCtx ctx fun x => { x with overrun := owed }))

/-- One piece of a share copied out of an emergency area. -/
def copyOutPiece (cu ctx : Nat) (a : State × List (W64 × List Byte)) (x : W64 × List Byte) : State × List (W64 × List Byte) :=
  let room := imageRoom a.1 ctx x.1
  if room < ptrOff x.1 + x.2.length then (a.1, a.2 ++ [x])
  else match translate a.1 frontEnd ctx x.1 .write false false x.2.length with
    | .ok ps => (performBytes (chargeBudget a.1 (cu / 48) 6 1) (cu / 48) none (ps.zip x.2), a.2)
    | .error _ => (a.1, a.2 ++ [x])

/-- EMERGENCY_COPY_OUT (R379): what the save area now takes is copied out. Once every share of the context is out, the save area has
been repaired and the context is held no longer. -/
def execEmergencyCopyOut (cu : Nat) (s : State) : Out :=
  .next (match (s.cu cu).emergency with
    | none => s
    | some e =>
      let r := e.2.foldl (copyOutPiece cu e.1) (s, [])
      let s1 := r.1.setCu cu { r.1.cu cu with emergency := if r.2.isEmpty then none else some (e.1, r.2) }
      if copiedOut s1 e.1 then s1.onCtx e.1 fun x => { x with held := none } else s1)

/-- A block to be switched out: a gang of it, and the object, tile and sub-tile on which an access, a fetch or a copy piece of it met
NOTRES in switch-out mode (R373). -/
def switchOuts (s : State) : List (Nat × Nat × Nat × Nat) :=
  (s.cus.flatMap fun c => ((c.2.replay ++ c.2.replayWait).filter Held.out).map fun h => (h.gang, h.obj, h.tile, h.sub)) ++
  s.gangs.flatMap fun g =>
    (g.2.park.filterMap fun p => match p.2 with
      | .fetchOut o t k => some (g.1, o, t, k)
      | _ => none) ++ g.2.copies.filterMap fun c => c.out.map fun o => (g.1, o)

/-- SWITCH_OUT_SAVE (R373): the block or cluster of a gang that met NOTRES in switch-out mode is saved, and waits for the sub-tile. -/
def switchOut (s : State) (w : Nat × Nat × Nat × Nat) : Option State :=
  match s.gang? w.1 with
  | none => none
  | some g =>
    let c := clusterOf s g.block
    let blocks := s.blocks.filter fun b => b.2.cluster == c
    let ids := blocks.flatMap fun b => b.2.gangs
    if g.killed || areaBusy s ids then none
    else (settleAll s ids).bind fun t => (t.grid? g.grid).map fun x =>
      let bs := t.blocks.filter fun b => b.2.cluster == c
      let area := saveObject t x.ctx
      let y := renewNotes t bs x
      let recs := bs.foldl (fun (a : List SavedBlock × Build) b =>
        let r := addBlock t b.2 a.2
        (a.1 ++ [⟨b.2.index, b.2.task, area, r.1, some w.2, none⟩], r.2))
        ([], ⟨List.replicate 256 0, [(((bs.head?.map fun b => 48 * b.2.die + b.2.cu).getD 0), 256)]⟩)
      let img := savedImage t x bs [] []
      let u := evict (writeImage t x.ctx area img) (bs.map Prod.fst)
      let lost := (bs.filter fun b => !b.2.task).length
      { u with grids := put u.grids g.grid { y with saved := y.saved ++ recs.1, live := y.live - lost } }

/-- The first block that is to be switched out, and the machine after its save. -/
def switchOutNext (s : State) : Option State := firstSome (switchOut s) (switchOuts s)

end Sys2Proof.Machine
end

