-- ==== Sys2Proof/Machine/Queues.lean ====
section
/-! DEFINITION. Command queues: the ring, queue faults, and every packet but RESUME (R274 to R281, R393). -/

namespace Sys2Proof.Machine

/-- The queue under its number. -/
def State.queue? (s : State) (q : Nat) : Option Queue := find s.queues q

/-- A queue changed by a function, where it exists. -/
def State.onQueue (s : State) (q : Nat) (f : Queue → Queue) : State := { s with queues := change s.queues q f }

/-- The address of a queue's wake word (R273). -/
def wakeKey (q : Nat) : Key := flagBase + 0x80000 + 8 * q

/-- A queue's wake word. -/
def wakeWord (s : State) (q : Nat) : W64 := coherentW64 s (wakeKey q)

/-- The number of packets a wake value makes pending (R275). -/
def ringPending (x : Queue) (w : W64) : Nat := ((w.setWidth 32 : W32) - x.rd).toNat

/-- A wake value out of range (R275). -/
def wakeBad (x : Queue) (w : W64) : Bool := fld w 63 32 != 0 || decide (2 ^ x.k < ringPending x w)

/-- A queue is eligible (R276). One with a bad wake value is looked at too, to be halted. -/
def queueEligible (s : State) (q : Nat) (x : Queue) : Bool :=
  x.state == 1 && x.waitGrid.isNone && (!x.handlers.isEmpty || wakeBad x (wakeWord s q) || ringPending x (wakeWord s q) != 0)

/-- The queue the cores serve next (R276); none while a die reset is recovered from (R383). -/
def servedQueue (s : State) : Option Nat :=
  let es := if !s.recoveries.isEmpty then [] else s.queues.filter fun q => queueEligible s q.1 q.2
  let top := es.foldl (fun n q => max n q.2.prio) 0
  (leastBy (fun (q : Nat × Queue) => roundFrom (getAt 0 s.queueRr top) 4096 q.1) (es.filter fun q => q.2.prio == top)).map Prod.fst

/-- A queue has been served: its priority's round robin begins after it (R276). -/
def noteServed (s : State) (q : Nat) : State :=
  match s.queue? q with
  | some x => { s with queueRr := setAt 0 s.queueRr x.prio ((q + 1) % 4096) }
  | none => s

/-- A queue halts (R279). -/
def haltQueue (s : State) (q : Nat) : State := s.onQueue q fun x => { x with state := 3 }

/-- The context's lost count of handler packets rises, word 5 of its trap-log head (R279, R294). -/
def countLost (s : State) (ctx : Nat) : State :=
  match s.ctx? ctx with
  | none => s
  | some x => match readObject s frontEnd ctx (x.tlog + 40) 8 with
    | .ok bs => (writeObject s frontEnd ctx (x.tlog + 40) (w64Bytes (bytesW64 bs + 1))).getD s
    | .error _ => s

/-- A handler packet of R280. -/
def handlerPacket (q : Nat) (x : Queue) (code detail : Nat) (w0 : W64) : List W64 :=
  [word (7 + code * 256), word (q + x.rd.toNat * 2 ^ 32), word detail, w0, word x.ctx, 0, 0, 0]

/-- A handler packet appended to the list of a queue's sibling, or counted as lost (R279). -/
def reportHandler (s : State) (x : Queue) (p : List W64) : State :=
  match if x.hasSib then s.queue? x.sib else none with
  | some y =>
    if y.state = 0 then countLost s x.ctx
    else if y.handlers.length < 4 then s.onQueue x.sib fun y => { y with handlers := y.handlers ++ [p] }
    else s.onQueue x.sib fun y => { y with lost := y.lost + 1 }
  | none => countLost s x.ctx

/-- A queue fault (R279): the queue halts with rd where it is, and its sibling is told. -/
def queueFault (s : State) (q code detail : Nat) (w0 : W64) : State :=
  match s.queue? q with
  | none => s
  | some x => reportHandler (haltQueue (noteServed s q) q) x (handlerPacket q x code detail w0)

/-- What a refused access of a queue core does: nothing while it waits, else a queue fault (R278, R279). -/
def refuseFault (s : State) (q : Nat) (e : Refuse) (w0 : W64) : State :=
  if e = .wait then s else queueFault (e.mark s) q e.codes.1 e.codes.2 w0

/-- The packet is complete: rd advances past it (R278). -/
def completePacket (s : State) (q : Nat) : State :=
  (noteServed s q).onQueue q fun x => { x with rd := x.rd + 1, state := if x.state = 2 then 1 else x.state, waitGrid := none }

/-- The grid that a queue's RESUME waits for has ended. The RESUME is complete; a halted queue keeps rd where it is until it is resumed
(R278, R279). -/
def completeResume (s : State) (q : Nat) : State :=
  match s.queue? q with
  | some x => if x.state = 3 then s else completePacket s q
  | none => s

/-- A halted queue resumed; where the grid that its RESUME waited for has ended meanwhile, that packet is complete (R278, R279). -/
def resumeQueue (s : State) (q : Nat) : State :=
  match s.queue? q with
  | none => s
  | some x =>
    if x.state != 3 then s
    else
      let t := s.onQueue q fun x => { x with state := 1 }
      match x.waitGrid with
      | some g => if (s.grid? g).isNone && s.recoveries.isEmpty then completePacket t q else t
      | none => t

/-- The eight words of the packet at rd (R275). An uncorrectable error in the ring is QTUE. -/
def ringPacket (s : State) (x : Queue) : Except Refuse (List W64) :=
  match frontRead s x.ctx (x.ring + word (64 * (x.rd.toNat % 2 ^ x.k))) 64 with
  | .ok bs => .ok (bytesWords 8 bs)
  | .error e => if e = .code hcMemflt (Code.num .memue) then .error (.code hcQtue 0) else .error e

/-- The type of a packet. -/
def pkType (ws : List W64) : Nat := fld (ws.getD 0 0) 7 0

/-- Words from an index on that must be zero; the first that is not. -/
def firstNonzero (ws : List W64) (i : Nat) : Option Nat := (List.range 8).find? fun j => decide (i ≤ j) && ws.getD j 0 != 0

/-- The first bad word of a packet (R277); none for a packet that is well formed. -/
def packetBad (ws : List W64) : Option Nat :=
  let w (i : Nat) := ws.getD i 0
  let t := pkType ws
  let fl := fld (w 0) 15 8
  let flags := match t with
    | 1 => fl < 2
    | 2 => fl % 4 < 2 && (2 ≤ fl / 4 && fl / 4 ≤ 5)
    | 3 => fl < 3
    | 4 => fl < 4
    | _ => fl == 0
  let off (p : W64) := ptrOff p
  let bad (i : Nat) (b : Bool) (rest : Option Nat) : Option Nat := if b then some i else rest
  if fld (w 0) 63 16 != 0 || 6 < t || !flags then some 0
  else match t with
    | 1 => bad 1 (off (w 1) % 256 != 0) (bad 2 (off (w 2) % 8 != 0) (firstNonzero ws 4))
    | 2 => bad 1 (off (w 1) % 8 != 0) (firstNonzero ws 3)
    | 3 => bad 1 (off (w 1) % 8 != 0) (firstNonzero ws 3)
    | 4 => bad 1 (off (w 1) % 2 ^ fl != 0) (bad 3 (off (w 3) % 8 != 0) (firstNonzero ws 5))
    | 5 => bad 2 (w 1 == 0 && w 2 != 0) (bad 3 (off (w 3) % 8 != 0) (firstNonzero ws 5))
    | 6 => bad 1 (off (w 1) % 4096 != 0) (firstNonzero ws 2)
    | _ => firstNonzero ws 1

/-- What a queue core does with the packet at rd of the queue it serves; handler entries come first, and a bad wake value halts the
queue (R275, R276). -/
def withPacket (q : Nat) (s : State) (f : Queue → List W64 → State) : State :=
  match s.queue? q with
  | none => s
  | some x =>
    if servedQueue s != some q || !x.handlers.isEmpty then s
    else if wakeBad x (wakeWord s q) then queueFault s q hcRingerr 0 0
    else match ringPacket s x with
      | .error e => refuseFault s q e 0
      | .ok ws => f x ws

/-- A well-formed packet of a type. -/
def withType (q t : Nat) (s : State) (f : Queue → List W64 → State) : State :=
  withPacket q s fun x ws => if pkType ws = t && (packetBad ws).isNone then f x ws else s

/-- PKTBAD (R277): its detail is the index of the bad word. -/
def execPktbad (q : Nat) (s : State) : Out :=
  .next (withPacket q s fun _ ws => match packetBad ws with
    | some i => queueFault s q hcPktbad i (ws.getD 0 0)
    | none => s)

/-- NOP (R278). -/
def execQueueNop (q : Nat) (s : State) : Out := .next (withType q 0 s fun _ _ => completePacket s q)

/-- WAKE_WORD (R275): a writer's store of a queue's wake word; a bad value halts the queue. -/
def execWakeWord (q : Nat) (v : W64) (s : State) : Out :=
  .next (if 4096 ≤ q || !s.powered then s
    else
      let s1 := ((List.range 8).zip (w64Bytes v)).foldl (fun s b => performByte s 0 none true (wakeKey q + b.1) b.2) s
      match s1.queue? q with
      | some x => if (x.state = 1 || x.state = 2) && wakeBad x v then queueFault s1 q hcRingerr 0 0 else s1
      | none => s1)

/-- A write of a queue core in a queue's context, with a release at a scope (R278). -/
def frontWrite (s : State) (ctx : Nat) (p : W64) (sc : Nat) (bs : List Byte) : Except Refuse State :=
  match translate s frontEnd ctx p .write (sc == 5) (decide (bs.length ≤ 8)) bs.length with
  | .error m => .error (m.refuse ctx p)
  | .ok ps =>
    let s1 := performBytes s 0 none ((ps.zip bs).filter fun b => !decide (b.1 = .zero))
    .ok (if sc = 5 then drainRind s1 else s1)

/-- A signal word set, or added to (R278). -/
def frontSignal (s : State) (ctx : Nat) (p : W64) (add : Bool) (sc : Nat) (v : W64) : Except Refuse State :=
  if !add then frontWrite s ctx p sc (w64Bytes v)
  else match translate s frontEnd ctx p .write (sc == 5) true 8 with
    | .error m => .error (m.refuse ctx p)
    | .ok ps =>
      let s1 := (rmwPlaces s 0 none (lineOf s frontEnd ctx p) ps fun old => old + v.toNat).1
      .ok (if sc = 5 then drainRind s1 else s1)

/-- A packet's step: done, waiting with nothing changed, or a queue fault. -/
def settlePacket (s : State) (q : Nat) (ws : List W64) : Except Refuse State → State
  | .ok t => completePacket t q
  | .error e => refuseFault s q e (ws.getD 0 0)

/-- SIGNAL (R278). -/
def execSignal (q : Nat) (s : State) : Out :=
  .next (withType q 2 s fun x ws =>
    settlePacket s q ws (frontSignal s x.ctx (ws.getD 1 0) (fld (ws.getD 0 0) 9 8 == 1) (fld (ws.getD 0 0) 12 10) (ws.getD 2 0)))

/-- The signal that a WRITEV or FLUSHC adds, once its first step is done: the step stands where the signal faults, and waits with the
signal where that is not resident (R278). -/
def thenSignal (s : State) (q : Nat) (x : Queue) (ws : List W64) (first : Except Refuse State) : State :=
  match first with
  | .error _ => settlePacket s q ws first
  | .ok t =>
    if ws.getD 3 0 = 0 then completePacket t q
    else match frontWrite t x.ctx (ws.getD 3 0) 4 (w64Bytes (ws.getD 4 0)) with
      | .error e => if e = .wait then s else refuseFault t q e (ws.getD 0 0)
      | .ok u => completePacket u q

/-- WRITEV (R278). -/
def execWritev (q : Nat) (s : State) : Out :=
  .next (withType q 4 s fun x ws =>
    thenSignal s q x ws (frontWrite s x.ctx (ws.getD 1 0) 4 ((w64Bytes (ws.getD 2 0)).take (2 ^ fld (ws.getD 0 0) 10 8))))

/-- FLUSHC (R251, R278). -/
def execFlushc (q : Nat) (s : State) : Out :=
  .next (withType q 5 s fun x ws =>
    let p := ws.getD 1 0
    let r : Except Refuse State := if p = 0 then .ok (flushContext s frontEnd x.ctx)
      else match invalidObject s frontEnd x.ctx p with
        | some _ => .error (.code hcMemflt (Code.num .objinv))
        | none => .ok (flushRange s frontEnd x.ctx p (ws.getD 2 0).toNat)
    thenSignal s q x ws r)

/-- The condition of a WAITV (R278). -/
def waitHolds (ws : List W64) (v : W64) : Bool :=
  match fld (ws.getD 0 0) 9 8 with
  | 0 => decide ((ws.getD 2 0).toNat ≤ v.toNat)
  | 1 => v == ws.getD 2 0
  | _ => v != ws.getD 2 0

/-- A WAITV looks at its signal word (R278). -/
def lookAt (s : State) (q : Nat) (x : Queue) (ws : List W64) : State :=
  match frontRead s x.ctx (ws.getD 1 0) 8 with
  | .error e => settlePacket s q ws (.error e)
  | .ok bs =>
    if waitHolds ws (bytesW64 bs) then completePacket s q
    else (noteServed s q).onQueue q fun x => { x with state := 2 }

/-- WAITV (R278). -/
def execWaitv (q : Nat) (s : State) : Out := .next (withType q 3 s fun x ws => lookAt s q x ws)

/-- A waiting WAITV looks again (R278). -/
def lookAgain (q : Nat) (s : State) : State :=
  match s.queue? q with
  | none => s
  | some x =>
    if x.state != 2 then s
    else match ringPacket s x with
      | .error e => refuseFault s q e 0
      | .ok ws => match frontRead s x.ctx (ws.getD 1 0) 8 with
        | .error e => settlePacket s q ws (.error e)
        | .ok bs => if waitHolds ws (bytesW64 bs) then completePacket s q else s

/-- WAITV_RECHECK (R278). -/
def execWaitvRecheck (q : Nat) (s : State) : Out := .next (lookAgain q s)

/-- WAITV_POLL_TIMER (R278): the re-read of a signal word in a system-memory object. -/
def execWaitvPollTimer (q : Nat) (s : State) : Out := .next (lookAgain q s)

/-- The attestation quote (R393). -/
def quote (seq : W64) (nonce digest : List Byte) : List Byte :=
  let body := w64Bytes 0x4B345155_4F544531 ++ w64Bytes seq ++ (List.range 64).map (fun i => nonce.getD i 0) ++
    (List.range 4).flatMap (fun n => (List.range 64).map (Config.measurement n)) ++
    (List.range 64).map (fun i => digest.getD i 0) ++ (List.range 64).map Config.deviceKeyDigest
  body ++ (List.range 132).map (Config.signature (sha512 body)) ++ List.replicate 236 0

/-- One bit for each queue that satisfies a test (R281). -/
def queueMap (s : State) (p : Queue → Bool) : List Byte :=
  (List.range 512).map fun i => BitVec.ofNat 8 (packNat 1 ((List.range 8).map fun j => match s.queue? (8 * i + j) with
    | some x => bitNat (p x)
    | none => 0))

/-- A context entry of the summary (R281). -/
def contextEntry (s : State) (slot : Nat) : List W64 :=
  match s.contexts.find? fun x => x.2.slot == slot with
  | none => [0, 0, 0]
  | some (n, x) =>
    let ckps := (List.range 4).map fun i => getAt 0 x.ckp i
    let valid := ckps.filter fun c => c.getLsbD 63
    let halted := s.gangs.any fun g => g.2.ctx == n && g.2.halted &&& g.2.liveLanes != 0
    let st := if halted then 3 else if x.savedImage then 2 else 1
    let imgs := (s.grids.filter fun g => g.2.ctx == n).length
    [word (n * 2 ^ 32 + imgs % 256 * 2 ^ 24 + packNat 1 (ckps.map fun c => bitNat (c.getLsbD 63)) * 2 ^ 20 + st * 2 ^ 16),
      word (valid.foldl (fun m c => max m (fld c 31 0)) 0), word (x.overrun % 2 ^ 32 * 2 ^ 32 + x.drain)]

/-- A budget register: its limit in force and the requests withheld in the last period (R340). -/
def budgetWord (s : State) (n : Nat) : W64 :=
  word (getAt 0 s.budgets n + 2 ^ 32 * min 65535 ((s.dies.map fun d => getAt 0 d.2.withheld n).foldl (· + ·) 0))

/-- The summary that RESYNC writes (R281). -/
def resyncSummary (s : State) : List Byte :=
  let seq := s.resyncSeq + 1
  let head := w64Bytes 0x4B345359_4E430001 ++ w64Bytes Config.firmwareVersion ++ w64Bytes seq ++
    natBytes 8 (packNat 8 ((List.range 4).map fun d => (s.die d).resets)) ++ List.replicate 32 0 ++
    queueMap s (fun x => x.state != 0) ++ queueMap s (fun x => x.state == 3) ++ queueMap s (fun x => x.state == 2) ++
    (List.range 64).flatMap (fun i => wordsBytes (contextEntry s i)) ++ (List.range 8).flatMap (fun n => w64Bytes (budgetWord s n)) ++
    (List.range 8).flatMap fun i => w64Bytes (getAt 0 s.errors i)
  head ++ quote seq [] (sha512 head)

/-- RESYNC (R279, R281). -/
def execResync (q : Nat) (s : State) : Out :=
  .next (withType q 6 s fun x ws =>
    let privileged := match s.ctx? x.ctx with
      | some c => c.system
      | none => false
    if !privileged then queueFault s q hcPriv 0 (ws.getD 0 0)
    else match frontWrite s x.ctx (ws.getD 1 0) 0 (resyncSummary s) with
      | .error e => settlePacket s q ws (.error e)
      | .ok t => completePacket { t with resyncSeq := t.resyncSeq + 1 } q)

/-- The write of a handler packet to hrec: NOTRES halts the queue as any fault of R191 does, and only a tile that is moving, or a record
under rebuild, is waited for (R195, R198, R280). -/
def recordWrite (s : State) (x : Queue) (h : List W64) : Except Refuse State :=
  match translate s frontEnd x.ctx x.hrec .write false false 64 with
  | .error (.notres _ _) => .error (.code hcMemflt (Code.num .notres))
  | _ => frontWrite s x.ctx x.hrec 4 (wordsBytes (h.take 7 ++ [x.delivered + 1]))

/-- HANDLER (R280): the first entry of the served queue's handler list is written to its handler record, the count last. -/
def deliver (q : Nat) (s : State) : State :=
  match s.queue? q with
  | none => s
  | some x =>
    if servedQueue s != some q then s
    else match x.handlers with
      | [] => s
      | h :: rest => match recordWrite s x h with
        | .ok t => (noteServed t q).onQueue q fun x => { x with handlers := rest, delivered := x.delivered + 1 }
        | .error e => refuseFault s q e (h.getD 0 0)

/-- HANDLER (R280). -/
def execHandler (q : Nat) (s : State) : Out := .next (deliver q s)

end Sys2Proof.Machine
end

