-- ==== Sys2Proof/Machine/Resume.lean ====
section
/-! DEFINITION. RESUME and the end of a grid: the checks of an image, process-group tables, cooperative fit, the hand-over, and the
completion write (R25, R27, R278, R283, R284, R313, R314, R352, R411). -/

namespace Sys2Proof.Machine

/-- A check of RESUME: the handler code where it fails. -/
def ensure (c : Nat) (b : Bool) : Except Refuse Unit := if b then .ok () else .error (.code c 0)

/-- Ranges of numbers, as first and count, that cover the numbers below n exactly once. -/
def coverOnce (n : Nat) (rs : List (Nat × Nat)) : Bool :=
  let live := rs.filter fun r => r.2 != 0
  let rec apart : List (Nat × Nat) → Bool
    | [] => true
    | r :: rest => rest.all (fun q => decide (r.1 + r.2 ≤ q.1) || decide (q.1 + q.2 ≤ r.1)) && apart rest
  apart live && live.all (fun r => decide (r.1 + r.2 ≤ n)) && (live.map Prod.snd).foldl (· + ·) 0 == n

/-- A segment CRC table entry: offset, length, CRC-32C (R283). -/
structure Segment where
  off : Nat
  len : Nat
  crc : Nat
  deriving DecidableEq, Repr

/-- The segments of an image. -/
def segmentsOf (bs : List Byte) : Nat → List Segment
  | 0 => []
  | n + 1 => ⟨natAt bs 0 5, natAt bs 8 4, natAt bs 12 4⟩ :: segmentsOf (bs.drop 16) n

/-- Two ranges of bytes have none in common. -/
def apartBytes (a n b m : Nat) : Bool := n == 0 || m == 0 || decide (a + n ≤ b) || decide (b + m ≤ a)

/-- No two segments overlap (R283). -/
def segmentsApart : List Segment → Bool
  | [] => true
  | x :: rest => (rest.all fun y => apartBytes x.off x.len y.off y.len) && segmentsApart rest

/-- An entry of a block table: kind, index or first index, count, and record offset (R284). -/
structure TableEntry where
  kind : Nat
  first : Nat
  count : Nat
  off : Nat
  deriving DecidableEq, Repr

/-- The entries of a block table. -/
def tableOf (bs : List Byte) : Nat → List TableEntry
  | 0 => []
  | n + 1 =>
    let w := wordAt bs 0
    ⟨fld w 63 62, fld w 31 0, fld w 61 32, natAt bs 8 8⟩ :: tableOf (bs.drop 16) n

/-- What a checked image hands over. -/
structure Handover where
  header : List W64
  table : List TableEntry
  tasks : List W64
  rank : Nat
  dies : Nat
  first : Nat
  count : Nat
  deriving DecidableEq, Repr

/-- The size of an image object in canonical bytes, where its record can be read. -/
def imageBytes (s : State) (ctx obj : Nat) : Except Refuse Nat :=
  match findRecord s frontEnd ctx 511 obj with
  | .ok r => .ok r.size
  | .error m => .error (m.refuse ctx (ownPtr obj))

/-- The header checks of R283 that the header alone decides. -/
def headerGood (h : List W64) (size : Nat) : Bool :=
  let e := ihExtents h
  let b := ihBlockExt h
  fld (h.getD 0 0) 63 48 == 0x4B49 && fld (h.getD 0 0) 47 40 == 1 && decide (ihKind h ≤ 2) &&
  decide (1 ≤ ihGangs h) && decide (ihGangs h ≤ 32) && decide (1 ≤ ihBlanes h) && decide (ihBlanes h ≤ 1024) &&
  decide (ihBlanes h ≤ 32 * ihGangs h) && (e ++ b).all (fun n => n != 0) && e.getD 0 0 % ihCluster h == 0 &&
  decide ((ihBtab h).1 + 16 * (ihBtab h).2 ≤ size) && decide ((ihSeg h).1 + 16 * (ihSeg h).2 ≤ size)

/-- The segments lie apart, and clear of the segment table and the last 256 bytes (R283). -/
def segmentsGood (h : List W64) (segs : List Segment) (size : Nat) : Bool :=
  segmentsApart segs && segs.all fun x =>
    apartBytes x.off x.len (ihSeg h).1 (16 * (ihSeg h).2) && (x.len == 0 || decide (x.off + x.len ≤ size - 256))

/-- A byte that no segment, the segment table and the last 256 bytes leave out (R283). -/
def strayByte (h : List W64) (segs : List Segment) (size i : Nat) : Bool :=
  decide (i < size - 256) && apartBytes i 1 (ihSeg h).1 (16 * (ihSeg h).2) && segs.all fun x => apartBytes i 1 x.off x.len

/-- The rank, dies and share of this device in a process-group table (R313, R314): IMGBAD where the table is not good. -/
def shareOf (s : State) (ctx : Nat) (pgt : W64) (total : Nat) : Except Refuse (Nat × Nat × Nat × Nat) :=
  if pgt = 0 then .ok (0, 15, 0, total)
  else do
    let h ← frontRead s ctx pgt 64
    let hw := bytesWords 8 h
    let n := fld (hw.getD 0 0) 8 0
    ensure hcImgbad (fld (hw.getD 0 0) 63 48 == 0x4B47 && fld (hw.getD 0 0) 47 9 == 0 && decide (1 ≤ n) && decide (n ≤ 384) &&
      (hw.drop 1).all fun w => w == 0)
    let bs ← frontRead s ctx (pgt + 64) (32 * n)
    let w (r i : Nat) : W64 := wordAt bs (32 * r + 8 * i)
    let ranks := List.range n
    let nodes := ranks.map fun r => fld (w r 0) 8 0
    let zeros := ranks.all fun r => fld (w r 0) 63 52 == 0 && fld (w r 0) 31 20 == 0 && fld (w r 0) 15 9 == 0 &&
      fld (w r 2) 63 54 == 0 && w r 3 == 0
    let nbs := ranks.all fun r => (List.range 6).all fun k =>
      decide (fld (w r 2) (9 * k + 8) (9 * k) < n) || fld (w r 2) (9 * k + 8) (9 * k) == 511
    ensure hcImgbad (zeros && nbs && distinct nodes && coverOnce total (ranks.map fun r => (fld (w r 1) 31 0, fld (w r 1) 63 32)))
    match ranks.find? fun r => fld (w r 0) 8 0 == s.node.toNat with
    | none => imgBad
    | some r =>
      let dies := fld (w r 0) 19 16
      .ok (r, if dies = 0 then 15 else dies, fld (w r 1) 31 0, fld (w r 1) 63 32)

/-- A role of a started gang lies at or above the kernel's role count (R27). -/
def rolesGood (h e : List W64) : Bool :=
  (List.range (ihGangs h)).all fun g => decide (ihRole h g < khRoles e)

/-- Roles below the kernel's role count in the gang records of started blocks and running tasks, and in the launch blocks of pending tasks
(R27, R351). -/
def recordRoles (e : List W64) (imgs : List BlockImage) (launches : List (List W64)) : Bool :=
  (imgs.all fun b => b.gangs.all fun g => decide (bits (g.n 576 8) 50 48 < khRoles e)) && launches.all fun b => decide (lbRole b < khRoles e)

/-- The footprint of a block can be held by one CU (R14, R72, R205, R283, R351). -/
def footGood (h e : List W64) : Bool :=
  let f := ihFoot h
  let gs := (List.range (ihGangs h)).filter fun g => decide (ihWidth h * g < ihBlanes h)
  rowsOk (fpRows f) (fpWindow f) && fpPool f % 8 == 0 && decide (fpTiles f ≤ 16) && decide (spadPart [fpSpb f] ≤ 458752) &&
  decide ((gs.length + 3) / 4 * fpRows f + fpPool f ≤ 512) && decide (khWneed e ≤ fpWindow f) && decide (khTneed e ≤ fpTiles f)

/-- How many blocks of k gangs an otherwise empty CU holds beside one block of j gangs, all of one footprint; quarters share the gangs
as evenly as first quarters allow (R14, R72, R82, R205). -/
def cuHolds (h : List W64) (k j n : Nat) : Bool :=
  let f := ihFoot h
  let b := n + if j = 0 then 0 else 1
  let gangs := n * (k / 4) + j / 4 + (n * (k % 4) + j % 4 + 3) / 4
  decide (spadPart (List.replicate b (fpSpb f)) ≤ 458752) && decide (b * fpTiles f ≤ 16) &&
    decide (gangs * fpRows f + b * fpPool f ≤ 512) && decide (gangs ≤ 16)

/-- The most blocks of k gangs a CU holds beside one of j gangs: a block has at least one gang, so at most 64. -/
def cuCapacity (h : List W64) (k j : Nat) : Nat := ((List.range 65).filter (cuHolds h k j)).foldl max 0

/-- A vat with room for f blocks takes a more, the first such vat of a list. -/
def takeRoom (f a : Nat) : List Nat → List Nat
  | [] => []
  | x :: xs => if x = f then (x - a) :: xs else x :: takeRoom f a xs

/-- Clusters of the sizes given, and then a number of whole clusters of c blocks, each on one vat, fit on vats with room for the numbers
of blocks given (R25). -/
def packs (c full : Nat) : List Nat → List Nat → Bool
  | [], rooms => decide (full ≤ (rooms.map (· / c)).foldl (· + ·) 0)
  | a :: smalls, rooms => rooms.eraseDups.any fun f => decide (a ≤ f) && packs c full smalls (takeRoom f a rooms)

/-- Clusters of c blocks and smaller ones fit on v vats of K blocks each; the vat that takes the first of the small ones holds K' (R25). -/
def clustersFit (c v K K' full : Nat) (smalls : List Nat) : Bool :=
  match smalls with
  | [] => packs c full [] (List.replicate v K)
  | a :: rest => decide (1 ≤ v) && decide (a ≤ K') && packs c full rest ((K' - a) :: List.replicate (v - 1) K)

/-- A cooperative grid's blocks can all be resident at once on the CUs of some dies (R25). -/
def coopFits (h : List W64) (dies : Nat) (blocks : List Nat) : Bool :=
  let c := ihCluster h
  let v := 12 * ((List.range 4).filter fun d => dies / 2 ^ d % 2 == 1).length
  let gangs := fun i => (ihStarted h i).length
  let k := blocks.foldl (fun m i => max m (gangs i)) 1
  let last := blocks.find? fun i => gangs i != k
  let sizes := (blocks.map (· / c)).eraseDups.map fun n => (n, (blocks.filter fun i => i / c == n).length)
  let special := fun (n : Nat × Nat) => last.any fun i => i / c == n.1
  let smalls := (sizes.filter special ++ sizes.filter fun n => !special n && n.2 != c).map Prod.snd
  let full := (sizes.filter fun n => !special n && n.2 == c).length
  let K := 4 * cuCapacity h k 0
  let K' := match last with
    | some i => if cuHolds h k (gangs i) 0 then 3 * cuCapacity h k 0 + cuCapacity h k (gangs i) + 1 else K
    | none => K
  clustersFit c v K K' full smalls

/-- Blocks of a table that the device runs: those of its share that are not started, without blocks all of whose lanes are helpers
(R16, R314). -/
def unstartedOf (x : Handover) : List Nat :=
  (x.table.flatMap fun e => if e.kind = 0 then (List.range e.count).map (e.first + ·) else []).filter fun i =>
    decide (x.first ≤ i) && decide (i < x.first + x.count) && !(ihStarted x.header i).isEmpty

/-- Started blocks and running tasks of a table. -/
def savedOf (x : Handover) (image : W64) : List SavedBlock :=
  x.table.filterMap fun e =>
    if e.kind = 3 || (e.kind = 1 && decide (x.first ≤ e.first) && decide (e.first < x.first + x.count)) then
      some ⟨e.first, e.kind == 3, image, e.off, none, none⟩
    else none

/-- RESUME's checks of an image, in order: memory faults where they are met, IMGBAD, ROLEBAD, FOOTPRINT, COOPFIT (R25, R27, R283, R284,
R287, R314, R352). -/
def checkImage (s : State) (ctx : Nat) (p : W64) : Except Refuse Handover := do
  ensure hcImgbad (ptrOff p == 0)
  let size ← imageBytes s ctx (ptrObj p)
  ensure hcImgbad (decide (512 ≤ size))
  let h := bytesWords 32 (← imageRead s ctx p 0 256)
  ensure hcImgbad (headerGood h size)
  let segs := segmentsOf (← imageRead s ctx p (ihSeg h).1 (16 * (ihSeg h).2)) (ihSeg h).2
  let table := tableOf (← imageRead s ctx p (ihBtab h).1 (16 * (ihBtab h).2)) (ihBtab h).2
  let tasks := bytesWords (ihTtab h).2 (← imageRead s ctx p (ihTtab h).1 (8 * (ihTtab h).2))
  ensure hcImgbad (segmentsGood h segs size)
  if ihKind h != 0 then
    let sys := match s.ctx? ctx with
      | some x => x.system
      | none => false
    ensure hcImgbad (ihSys h == sys)
    let bs ← imageRead s ctx p 0 size
    ensure hcImgbad (segs.all fun x => crc32c ((bs.drop x.off).take x.len) == x.crc)
    ensure hcImgbad (((List.range size).zip bs).all fun b => b.2 == 0 || !strayByte h segs size b.1)
  ensure hcImgbad (coverOnce (ihBlocks h) ((table.filter fun e => e.kind != 3).map fun e => (e.first, if e.kind = 1 then 1 else e.count)))
  let imgs ← (table.filter fun e => e.kind % 2 == 1).mapM fun e => readBlock (imageRead s ctx p) (fpTiles (ihFoot h)) (e.kind == 3) e.off
  let vt ← frontRead s ctx (ihVtab h) 64
  ensure hcImgbad (fld (wordAt vt 0) 63 48 == 0x4B56 && decide (ihVer h < fld (wordAt vt 0) 8 0))
  let e := bytesWords 8 (← frontRead s ctx (ihVtab h + word (64 + 64 * ihVer h)) 64)
  ensure hcImgbad (verValid e && !(khC16 e && khProt e) && ihProt h == khProt e)
  let share ← shareOf s ctx (ihPgt h) (ihBlocks h)
  let launches ← tasks.mapM fun t => frontRead s ctx t 128
  ensure hcRolebad (rolesGood h e && recordRoles e imgs (launches.map (bytesWords 16)))
  ensure hcFootprint (footGood h e)
  let x : Handover := ⟨h, table, tasks, share.1, share.2.1, share.2.2.1, share.2.2.2⟩
  ensure hcCoopfit (!ihCoop h || coopFits h share.2.1 (unstartedOf x ++ (savedOf x p).filterMap fun b => if b.task then none else some b.index))
  .ok x

/-- A checked image becomes a grid, or goes on as the grid it was saved from (R278, R378). Its pending tasks are queued again. Answers
the grid's name. -/
def handOver (s : State) (ctx : Nat) (p : W64) (x : Handover) (c : Completion) : Nat × State :=
  let saved := savedOf x p
  let old := s.grids.find? fun g => g.2.ctx == ctx && g.2.away && ptrObj g.2.image == ptrObj p
  let name := match old with
    | some g => g.1
    | none => s.fresh
  let running := (saved.filter SavedBlock.task).length
  let g : Grid := ⟨ctx, p, ihVtab x.header, ihVer x.header, x.header, c :: (old.map fun g => g.2.completions).getD [], x.rank, x.dies,
    unstartedOf x, saved, (old.map fun g => g.2.notes).getD [], (old.map fun g => g.2.givens).getD [], 0, running + x.tasks.length,
    ihCoop x.header, false, s.gridOrder, []⟩
  let grids := put s.grids name g
  let still := grids.any fun g => g.2.ctx == ctx && g.2.away
  let t : State := { s with
    fresh := s.fresh + 1
    gridOrder := s.gridOrder + 1
    grids := grids
    contexts := change s.contexts ctx fun y => { y with savedImage := still } }
  (name, x.tasks.foldl (fun t p => spillTask t frontEnd ⟨p, ctx, name, ihVtab x.header, ihVer x.header, 0, 0, none⟩) t)

/-- Nothing of a grid is left to run (R278, R411). -/
def gridOver (x : Grid) : Bool := x.unstarted.isEmpty && x.saved.isEmpty && x.live == 0 && x.tasks == 0 && !x.away

/-- A RESUME whose queue waited for its grid has failed: the queue halts with rd at that RESUME (R279, R383). -/
def faultResume (s : State) (q code detail : Nat) (async : Bool) : State :=
  (queueFault s q code detail (word (1 + 256 * bitNat async))).onQueue q fun x => { x with waitGrid := none }

/-- A completion owed at a grid's end (R278): the value is written with a release at scope SYS, and a RESUME without ASYNC is complete.
None while the word is not resident. -/
def payCompletion (ctx : Nat) (s : State) (c : Completion) : Option State :=
  let done (s : State) : State := if c.async then s else completeResume s c.queue
  if c.signal = 0 then some (done s)
  else match frontWrite s ctx c.signal 4 (w64Bytes c.value) with
    | .ok t => some (done t)
    | .error e => if e = .wait then none else some (faultResume (e.mark s) c.queue e.codes.1 e.codes.2 c.async)

/-- A grid that is over ends (R278). -/
def endGrid (s : State) (name : Nat) : State :=
  match s.grid? name with
  | none => s
  | some x =>
    if !gridOver x then s
    else match x.completions.foldl (fun (a : Option State) c => a.bind fun s => payCompletion x.ctx s c) (some s) with
      | none => s
      | some t => { t with grids := drop t.grids name }

/-- GRID_END (R278). -/
def execGridEnd (grid : Nat) (s : State) : Out := .next (endGrid s grid)

/-- A RESUME that may be taken now: a context held for its save area refuses (R379), and a share still in an emergency area is waited
for. -/
def resumable (s : State) (ctx : Nat) (p : W64) : Except Refuse Unit :=
  match s.ctx? ctx with
  | none => .error (.code hcMemflt (Code.num .objinv))
  | some x =>
    match x.held with
    | some c => .error (.code hcMemflt c)
    | none =>
      let mine := s.cus.any fun c => match c.2.emergency with
        | some e => e.1 == ctx && e.2.any fun b => ptrObj b.1 == ptrObj p
        | none => false
      if mine then .error .wait else .ok ()

/-- Bytes of an object as they stand in HBM (R217). -/
def hbmRead (s : State) (ctx : Nat) (p : W64) (n : Nat) : Except Refuse (List Byte) :=
  if n = 0 then .ok []
  else match translate s frontEnd ctx p .read false false n with
    | .error m => .error (m.refuse ctx p)
    | .ok ps =>
      if ps.any (placePoisoned s) then .error (.code hcMemflt (Code.num .memue))
      else .ok (ps.map fun q => match q.key with
        | some k => memRead s k.1
        | none => 0)

/-- A recovery point is intact (R217). -/
def pointGood (s : State) (ctx : Nat) (c : W64) : Except Refuse Unit := do
  let p := ownPtr (fld c 50 32)
  let size ← imageBytes s ctx (fld c 50 32)
  ensure hcImgbad (decide (512 ≤ size))
  let r ← hbmRead s ctx (withOff p (size - 256)) 256
  ensure hcImgbad (wordAt r 0 == 0x4B345249_4E44434D && wordAt r 8 == word (fld c 31 0 * 2 ^ 32 + fld c 50 32) &&
    fld (wordAt r 16) 19 0 == ctx && natAt r 248 4 == crc32c (r.take 248))
  let h := bytesWords 32 (← hbmRead s ctx p 256)
  ensure hcImgbad (decide ((ihSeg h).1 + 16 * (ihSeg h).2 ≤ size))
  let t ← hbmRead s ctx (withOff p (ihSeg h).1) (16 * (ihSeg h).2)
  ensure hcImgbad (decide ((r.drop 24).take 64 = sha512 t))
  let _ ← (segmentsOf t (ihSeg h).2).mapM fun x => do
    ensure hcImgbad (decide (x.off + x.len ≤ size))
    let bs ← hbmRead s ctx (withOff p x.off) x.len
    ensure hcImgbad (crc32c bs == x.crc)
  .ok ()

/-- The recovery points of a context checked: V is cleared in each that is not intact (R217, R395). None while one is not resident. -/
def checkPoints (s : State) (ctx : Nat) : Option State :=
  match s.ctx? ctx with
  | none => some s
  | some x =>
    ((List.range 4).foldl (fun (a : Option (SMap W64)) n => a.bind fun m =>
      let c := getAt 0 m n
      if !c.getLsbD 63 then some m
      else match pointGood s ctx c with
        | .ok _ => some m
        | .error .wait => none
        | .error _ => some (setAt 0 m n (word (fld c 62 0)))) (some x.ckp)).map fun m => s.onCtx ctx fun x => { x with ckp := m }

/-- RESUME (R278). -/
def execResume (q : Nat) (s : State) : Out :=
  .next (withType q 1 s fun x ws =>
    let p := ws.getD 1 0
    match checkPoints s x.ctx with
    | none => s
    | some s => match (do resumable s x.ctx p; checkImage s x.ctx p) with
    | .error e => settlePacket s q ws (.error e)
    | .ok h =>
      let async := (ws.getD 0 0).getLsbD 8
      let r := handOver s x.ctx p h ⟨q, async, ws.getD 2 0, ws.getD 3 0⟩
      let t := if async then completePacket r.2 q else (noteServed r.2 q).onQueue q fun x => { x with waitGrid := some r.1 }
      endGrid t r.1)

end Sys2Proof.Machine
end

