-- ==== Sys2Proof/Machine/Services.lean ====
section
/-! DEFINITION. The firmware's services (R392): objects, Rind ranges, exports, queues, contexts, transfer requests, curves, budgets,
sampling, the fabric and attestation. A service acts once the firmware complex serves the mailbox (STATUS.rdy). -/

namespace Sys2Proof.Machine

/-- A service's effect, where the mailbox is served (R386, R392). -/
def served (s : State) (t : State) : State := if s.rdy then t else s

/-- An answer for the host: a service's result, or the bytes of a read. -/
def answer (s : State) (bs : List Byte) : State := { s with answers := bs :: s.answers }

/-- Every mapped entry of an object lies on a frame that its durability allows (R214). -/
def framesGood (s : State) (r : Record) : Bool :=
  r.sysm || (List.range r.tmlen).all fun j =>
    let e := entryNow s r j
    entState false e == 0 || frameAllowed s r.du (entFrame e)

/-- An entry that the object service may write: unmapped or mapped, its generation the K4's (R189, R200). -/
def serviceEntry (s : State) (r : Record) (x : Nat × W64) : Option (Nat × W64) :=
  let st := entState r.sysm x.2
  let e := makeEntry r.sysm st (entGen r.sysm (entryNow s r x.1)) (entryFrame r.sysm x.2) (fld x.2 15 0)
  if decide (x.1 < r.tmlen) && st ≤ 1 && !entDamaged r.sysm e then some (x.1, e) else none

/-- A change of an entry that reaches gangs without a shootdown: present bits set, or unmapped to mapped (R190). -/
def quietChange (sysm : Bool) (old new : W64) : Bool :=
  entState sysm old == 0 || (!sysm && entState sysm new == 1 && old &&& ~~~new == 0 && (old ^^^ new).toNat < 2 ^ 16)

/-- The record that a write of the object service leaves: a new object's rgen rises by 1 (R186, R199). None where it is refused. -/
def newRecord (old : Record) (words : List W64) : Option Record :=
  let r : Record := words
  let gen := if old.state = 0 || old.state = 4 then old.rgen + 1 else old.rgen
  if words.isEmpty then (if old.state = 1 then some old else none)
  else if words.length = 16 && r.state == 1 && (old.state = 0 || old.state = 1 || old.state = 4) then
    some (word (gen % 2 ^ 32 * 2 ^ 32 + fld (r.w 0) 31 0) :: r.drop 1)
  else none

/-- The CRC of every Rind block that holds a listed byte, of its bytes (R215). -/
def sealAll (s : State) : State :=
  let blocks := ((s.mem.map fun c => c.1 / 256).eraseDups).filter fun b => hasCrc s (256 * b)
  { s with crcs := blocks.foldl (fun m b => setAt blankCrc m b (blockCrc s.mem b)) [] }

/-- Bytes of HBM from a location on become 0, with their copies; no L2 and no Rennet keeps one. -/
def blankSpan (s : State) (a n : Nat) : State :=
  let mine := keySpan a n
  let copy (k : Key) : Bool := (originOf s.rind k).any mine
  let t := forgetL1 { s with
    mem := s.mem.filter fun c => !mine c.1 && !copy c.1
    poison := s.poison.filter fun p => !mine (128 * p) || !mine (128 * p + 127)
    dies := s.dies.map fun d => (d.1, { d.2 with
      l2 := d.2.l2.filter fun e => !mine e.1
      rennet := d.2.rennet.filter fun e => !mine e.1
      overflow := d.2.overflow.filter fun e => !mine e.1 }) } mine
  if s.rind.isEmpty then t else sealAll t

/-- The tile map of a new object is unmapped, but that of a shared object which another context's record already names (R184, R186). -/
def newMap (s : State) (ctx obj : Nat) (old r : Record) : State :=
  let known := r.shared && s.contexts.any fun x => (List.range x.2.otLen).any fun o =>
    (x.1 != ctx || o != obj) && sameShared r (recordNow s x.2 o)
  if (old.state = 0 || old.state = 4) && !known then blankSpan s r.tmap (8 * r.tmlen) else s

/-- Writes of the object service (R184, R190, R214): a record, entries, or both, whose frames the object's durability allows. Until the
shootdown of a change that needs one, copies of what was there before may stay in use. -/
def writeObjectRecord (s : State) (ctx obj : Nat) (record : List W64) (entries : List (Nat × W64)) : State :=
  match s.ctx? ctx with
  | none => s
  | some x =>
    let old := recordNow s x obj
    let busy := s.publishing.contains (ctx, obj) || (s.moves.any fun m => m.ctx == ctx && m.obj == obj) ||
      (s.rebuilds.any fun b => b.ctx == ctx && b.obj == obj) || damagedAt s (recordAt x obj) 128
    match newRecord old record with
    | none => s
    | some r => match entries.mapM (serviceEntry s r) with
      | none => s
      | some es =>
        let s1 := if record.isEmpty then s else newMap (putRecord s x obj r) ctx obj old r
        let t := es.foldl (fun t e => putEntry t r e.1 e.2) s1
        if busy || x.otLen ≤ obj || !framesGood t r then s
        else
          let changed := es.filter fun e => !quietChange r.sysm (entryNow s r e.1) e.2
          let loud := !record.isEmpty || !changed.isEmpty
          let t1 := leaveCopies t ctx obj (if record.isEmpty then none else some old) (es.map fun e => (e.1, entryNow s r e.1)) fun _ => false
          if loud then { t1 with publishing := t1.publishing ++ [(ctx, obj)] } else t1

/-- OBJECT_RECORD_WRITE (R184, R190). -/
def execObjectRecordWrite (ctx obj : Nat) (record : List W64) (entries : List (Nat × W64)) (s : State) : Out :=
  .next (served s (writeObjectRecord s ctx obj record entries))

/-- OBJECT_RETIRE (R197, R199): the state becomes retired, whatever move or rebuild of the object is under way; the shootdown that follows
takes the object's line tiles. -/
def execObjectRetire (ctx obj : Nat) (s : State) : Out :=
  .next (served s (match s.ctx? ctx with
    | none => s
    | some x =>
      let r := recordNow s x obj
      if x.otLen ≤ obj || s.publishing.contains (ctx, obj) || !(decide (1 ≤ r.state) && decide (r.state ≤ 3)) then s
      else
        let t := leaveCopies (putRecord s x obj (r.withState 4)) ctx obj (some r) [] fun _ => false
        { t with publishing := t.publishing ++ [(ctx, obj)] }))

/-- Two ranges of addresses have none in common. -/
def rangesApart (a b : Nat × Nat) : Bool := decide (a.1 + a.2 ≤ b.1) || decide (b.1 + b.2 ≤ a.1)

/-- The ranges that the Rind takes up, mirror ranges among them (R214). -/
def rindRanges (rind : List (Nat × Nat × Option Nat)) : List (Nat × Nat) :=
  rind.flatMap fun r => (r.1, r.2.1) :: (r.2.2.map fun b => (b, r.2.1)).toList

/-- A designation that R214 allows. -/
def rindGood (s : State) (base size : Nat) (mirror : Option Nat) : Bool :=
  let new := (base, size) :: (mirror.map fun b => (b, size)).toList
  let all := rindRanges s.rind ++ new
  let gib := 2 ^ 30
  decide (s.rind.length < 8) && size != 0 && size % gib == 0 && new.all (fun r => r.1 % gib == 0 && decide (r.1 + r.2 ≤ 2 ^ 40)) &&
  decide ((all.map Prod.snd).foldl (· + ·) 0 ≤ 256 * gib) &&
  (new.all fun a => (rindRanges s.rind).all (rangesApart a)) &&
  match mirror with
  | some b => rangesApart (base, size) (b, size)
  | none => true

/-- The used entries of the recovery directory, which the firmware holds after the designation (R394, R395). -/
def readDirectory (s : State) : List (Nat × Nat × SMap W64) :=
  (List.range 64).filterMap fun slot => match directoryAt s slot with
    | none => none
    | some a =>
      let ws := bytesWords 8 ((List.range 64).map fun i => memRead s (a + i))
      if (ws.getD 0 0).getLsbD 63 then
        some (fld (ws.getD 0 0) 19 0, slot, (List.range 4).foldl (fun m i => setAt 0 m i (ws.getD (i + 1) 0)) [])
      else none

/-- RIND_DESIGNATE (R214, R394): during bring-up stage 4. A size of 0 ends the designation; a mirror base outside HBM names none. A range
keeps the bytes it holds, its mirror copy is made of them, and its CRCs are computed (R204). -/
def execRindDesignate (base size mirror : Nat) (s : State) : Out :=
  .next (served s (
    if s.stage != 3 then s
    else if size = 0 then { s with stage := 4, heldContexts := readDirectory s }
    else
      let m := if mirror < 2 ^ 40 then some mirror else none
      if !rindGood s base size m then s
      else
        let t := { s with rind := put s.rind base (size, m) }
        match m with
        | none => sealAll t
        | some b =>
          let cells := t.mem.filter fun c => keySpan base size c.1
          let clear := { t with mem := t.mem.filter fun c => !keySpan b size c.1 }
          sealAll (cells.foldl (fun s c => memWrite s c.1 c.2) clear)))

/-- EXPORT_SET (R388): a length of 0 removes the entry. -/
def execExportSet (slot ctx off len : Nat) (ptr : W64) (s : State) : Out :=
  .next (served s (
    if 64 ≤ slot then s
    else if len = 0 then { s with exports := drop s.exports slot }
    else if off % 65536 != 0 || len % 65536 != 0 || decide (2 ^ 38 < off + len) ||
        (s.exports.any fun e => e.1 != slot && !rangesApart (off, len) (e.2.off, e.2.len)) then s
    else { s with exports := put s.exports slot ⟨off, len, ptr, ctx⟩ }))

/-- A queue of the descriptor that system software gives; none where it is malformed (R274). -/
def queueOf (s : State) (desc : List W64) : Option Queue :=
  let w (i : Nat) : W64 := desc.getD i 0
  let k := fld (w 1) 36 32
  let ctx := fld (w 2) 51 32
  if desc.length = 8 && ptrOff (w 0) % 64 == 0 && fld (w 1) 63 43 == 0 && fld (w 1) 39 37 == 0 && fld (w 1) 31 0 == 0 && 4 ≤ k && k ≤ 16 &&
      fld (w 2) 63 52 == 0 && fld (w 2) 31 13 == 0 && ptrOff (w 3) % 64 == 0 && ((desc.drop 4).all fun x => x == 0) &&
      (s.ctx? ctx).isSome then
    some ⟨w 0, 1, fld (w 1) 42 40, k, 0, ctx, (w 2).getLsbD 12, fld (w 2) 11 0, w 3, 0, [], 0, none⟩
  else none

/-- QUEUE_CREATE (R274). -/
def execQueueCreate (q : Nat) (desc : List W64) (s : State) : Out :=
  .next (served s (
    if 4096 ≤ q || (s.queue? q).isSome then s
    else match queueOf s desc with
      | some x => { s with queues := put s.queues q x }
      | none => s))

/-- QUEUE_DESTROY (R274): the queue is disabled again. -/
def execQueueDestroy (q : Nat) (s : State) : Out := .next (served s { s with queues := drop s.queues q })

/-- QUEUE_RESUME (R279). -/
def execQueueResume (q : Nat) (s : State) : Out :=
  .next (served s (resumeQueue s q))

/-- The attributes that a context is created with, in the order that the model gives the mailbox words (R282): flags with system in
bit 0 and priority in [3:1], slice and drain in µs, save area, trap log, object table base and length, task spill, control store and
spill objects. None where R184 or R282 refuses them. -/
def contextOf (slot : Nat) (attrs : List W64) (ckp : SMap W64) : Option Context :=
  let w (i : Nat) : W64 := attrs.getD i 0
  let slice := (w 1).toNat
  let drain := (w 2).toNat
  let base := (w 5).toNat
  let len := (w 6).toNat
  if attrs.length = 10 && fld (w 0) 63 4 == 0 && 100 ≤ slice && slice ≤ 100000 && 1 ≤ drain && drain ≤ 1000 && 10 * drain ≤ slice &&
      64 ≤ len && len ≤ 524288 && len % 64 == 0 && base % 128 == 0 && decide (base + 128 * len ≤ 2 ^ 40) then
    some ⟨slot, (w 0).getLsbD 0, fld (w 0) 3 1, slice, drain, 0, w 3, w 4, base, len, w 7, [], w 8, w 9, ckp, 0, [], 0, false, none⟩
  else none

/-- Every record of a new object table is invalid (R184). -/
def blankTable (s : State) (x : Context) : State := blankSpan s x.otBase (128 * x.otLen)

/-- A context entered in a free slot; bring-up stage 6 is reached (R282, R394, R395). -/
def enterContext (s : State) (ctx slot : Nat) (attrs : List W64) (ckp : SMap W64) : State :=
  if decide (s.stage < 5) || 2 ^ 20 ≤ ctx || 64 ≤ slot || (s.ctx? ctx).isSome || (s.contexts.any fun x => x.2.slot == slot) then s
  else match contextOf slot attrs ckp with
    | none => s
    | some x =>
      let s1 := { blankTable s x with
        stage := 6
        contexts := put s.contexts ctx x
        heldContexts := s.heldContexts.filter fun h => h.2.1 != slot && h.1 != ctx }
      writeDirectory s1 ctx

/-- CONTEXT_CREATE (R282). -/
def execContextCreate (ctx slot : Nat) (attrs : List W64) (s : State) : Out := .next (served s (enterContext s ctx slot attrs []))

/-- CONTEXT_RECOVER (R395): the context takes the held number, slot and recovery points. -/
def execContextRecover (ctx : Nat) (attrs : List W64) (s : State) : Out :=
  .next (served s (match s.heldContexts.find? fun h => h.1 == ctx with
    | none => s
    | some h => enterContext s ctx h.2.1 attrs h.2.2))

/-- Everything that runs for a context stops and is discarded without a save: gangs, blocks, tasks, held accesses, combined counts, and
shares in emergency areas (R383). -/
def discardRuns (s : State) (ctx : Nat) : State :=
  let ids := (s.gangs.filter fun g => g.2.ctx == ctx).map Prod.fst
  let s1 := ids.foldl stopRuns s
  let blocks := s1.blocks.filter fun b => b.2.ctx != ctx
  { s1 with
    cur := none
    gangs := s1.gangs.filter fun g => g.2.ctx != ctx
    blocks := blocks
    clusters := s1.clusters.filter fun c => c.2.blocks.any fun k => (find blocks k).isSome
    quarters := s1.quarters.map fun q => (q.1, { q.2 with matrix := q.2.matrix.filter fun m => !ids.contains m.gang })
    cus := s1.cus.map fun c => (c.1, { c.2 with
      replay := c.2.replay.filter fun h => !ids.contains h.gang
      replayWait := c.2.replayWait.filter fun h => !ids.contains h.gang
      tasks := c.2.tasks.filter fun t => t.ctx != ctx
      shadows := c.2.shadows.filter fun x => x.task.ctx != ctx
      bbc := c.2.bbc.filter fun b => !ids.contains b.1
      emergency := c.2.emergency.filter fun e => e.1 != ctx })
    contexts := change s1.contexts ctx fun x => { x with taskSpilled := [], savedImage := false, held := none } }

/-- The used flag of a context's entry in the recovery directory is cleared (R395). -/
def clearDirectory (s : State) (slot : Nat) : State :=
  match directoryAt s slot with
  | none => s
  | some a => rindWrite s (a + 7) [memRead s (a + 7) &&& 0x7F]

/-- A context destroyed, with what runs for it, its queues and its grids (R282, R395). -/
def destroyContext (s : State) (ctx : Nat) : State :=
  match s.ctx? ctx with
  | none => s
  | some x =>
    let s1 := clearDirectory (discardRuns s ctx) x.slot
    { s1 with
      contexts := drop s1.contexts ctx
      grids := s1.grids.filter fun g => g.2.ctx != ctx
      queues := s1.queues.filter fun q => q.2.ctx != ctx
      exports := s1.exports.filter fun e => e.2.ctx != ctx
      moves := s1.moves.filter fun m => m.ctx != ctx
      recoveries := s1.recoveries.filter fun r => r.ctx != ctx
      rebuilds := s1.rebuilds.filter fun b => b.ctx != ctx
      publishing := s1.publishing.filter fun p => p.1 != ctx
      cus := s1.cus.map fun c => (c.1, { c.2 with
        orc := c.2.orc.filter fun e => e.1 != ctx
        ttc := c.2.ttc.filter fun e => e.1 != ctx
        micro := c.2.micro.filter fun e => e.1 != ctx })
      dies := s1.dies.map fun d => (d.1, { d.2 with
        dtcRec := d.2.dtcRec.filter fun e => e.1 != ctx
        dtcEnt := d.2.dtcEnt.filter fun e => e.1 != ctx
        counters := d.2.counters.filter fun c => c.ctx != ctx
        flags := d.2.flags.filter fun x => x.1 != ctx }) }

/-- CONTEXT_DESTROY (R282, R395). -/
def execContextDestroy (ctx : Nat) (s : State) : Out := .next (served s (releaseOutside (destroyContext s ctx)))

/-- A gang that a transfer request marks (R405). -/
def xferTakes (ctx : Nat) (vtab : W64) (g : Gang) : Bool := g.ctx == ctx && g.vtab == vtab && !g.xferPend

/-- A transfer pending to a target (R80). -/
def markXfer (target : Nat) (g : Gang) : Gang := { g with gstat := setFld (setBit g.gstat 2 true) 15 8 target }

/-- XFER_REQUEST (R80, R405): the result is the number of gangs marked. -/
def execXferRequest (ctx : Nat) (vtab : W64) (target : Nat) (s : State) : Out :=
  .next (served s (
    if 256 ≤ target then s
    else
      let n := (s.gangs.filter fun g => xferTakes ctx vtab g.2).length
      let mark (g : Nat × Gang) : Nat × Gang := if xferTakes ctx vtab g.2 then (g.1, markXfer target g.2) else g
      answer { s with gangs := s.gangs.map mark } (natBytes 4 n)))

/-- A curve table that the curve service takes (R291). -/
def curveGood (t : List Byte) : Bool :=
  let ps := curvePositions t (0, 0)
  t.length == 64 && t.getD 0 1 == 0 && decide (ps.eraseDups.length = 64) &&
  ps.all fun p => decide (0 ≤ p.1) && decide (p.1 ≤ 7) && decide (0 ≤ p.2) && decide (p.2 ≤ 7)

/-- CURVE_SET (R291): any other table is refused, and the old one stays. -/
def execCurveSet (die : Nat) (table : List Byte) (s : State) : Out :=
  .next (served s (if die < 4 && curveGood table then s.setDie die { s.die die with curve := table } else s))

/-- BUDGET_SET (R340): a new limit is taken up at each die's next period. -/
def execBudgetSet (n lim : Nat) (s : State) : Out :=
  .next (served s (if n < 8 && lim < 65536 then { s with budgets := setAt 0 s.budgets n lim } else s))

/-- SAMPLER_SET (R343): 0 is off. -/
def execSamplerSet (ctx period : Nat) (s : State) : Out :=
  .next (served s (if period = 0 || (1024 ≤ period && period < 2 ^ 24) then s.onCtx ctx fun x => { x with sampler := period } else s))

/-- A topology that the fabric service takes: up to 3 of the 16 ports for each destination (R391). -/
def topologyGood (rs : List (Nat × List Nat)) : Bool :=
  rs.all fun r => decide (r.1 < 384) && decide (r.2.length ≤ 3) && r.2.all fun p => decide (p < 16)

/-- FABRIC_TOPOLOGY (R391, R394): the ports come up with the routing table; a failure sets err = 4. -/
def execFabricTopology (routes : List (Nat × List Nat)) (err : Bool) (s : State) : Out :=
  .next (served s (
    if decide (s.stage < 4) || !topologyGood routes then s
    else if err then { s with bootErr := 4 }
    else { s with
      routes := routes.foldl (fun m r => put m r.1 r.2) []
      ports := (List.range 16).map fun p => (p, { s.port p with up := true, resends := 0 })
      stage := max s.stage 5 }))

/-- ATTESTATION_QUOTE (R393): a quote over the nonce. -/
def execAttestationQuote (nonce : List Byte) (s : State) : Out :=
  .next (served s (answer s (quote s.resyncSeq nonce [])))

end Sys2Proof.Machine
end

