-- ==== Sys2Proof/Machine/Power.lean ====
section
/-! DEFINITION. Periods, sensors and samples, resets of a die and of the device, and power (R292, R340, R343, R381 to R384, R394, R396). -/

namespace Sys2Proof.Machine

/-- A vat at the end of a budget period: more than 3 droop events keep it out for the next 8 periods (R292). -/
def Vat.endPeriod (v : Vat) : Vat := { v with droops := 0, droopBan := if 3 < v.droops then 8 else v.droopBan - 1 }

/-- The requests of each budget class that a new period serves at once: those that waited, within the limit (R340). -/
def servedFirst (waiting limits : SMap Nat) : SMap Nat :=
  (List.range 8).foldl (fun m n => setAt 0 m n
    (if getAt 0 limits n = 0 then getAt 0 waiting n else min (getAt 0 waiting n) (getAt 0 limits n))) []

/-- The finished samples of a die whose records wait for BUD4, each with its gang, in the order of their instructions (R340, R344). -/
def waitingSamples (s : State) (die : Nat) : List (Nat × Sampled) :=
  let all := (s.gangs.filter fun g => g.2.die == die).flatMap fun g => (g.2.sampled.filter fun x => x.finished.isSome).map fun x => (g.1, x)
  let rec insert (x : Nat × Sampled) : List (Nat × Sampled) → List (Nat × Sampled)
    | [] => [x]
    | y :: ys => if x.2.ticket < y.2.ticket then x :: y :: ys else y :: insert x ys
  all.foldr insert []

/-- The requests of each budget class that a limit withheld in the period that ends (R340). Those of object walks and of firmware DMA,
classes 0 and 5, depend on caches and on firmware whose requests no rule gives: under a limit their number is free. -/
def withheldNow (s : State) (x : Die) : SMap Nat :=
  [0, 5].foldl (fun m n => setAt 0 m n (if getAt 0 x.limits n = 0 then 0 else (Config.freeWord (s.tick + n)).toNat)) x.waiting

/-- BUDGET_PERIOD (R292, R340): the die's clock has reached the end of its period; a new limit is taken up, and requests that waited are
served within it, each in its turn. -/
def execBudgetPeriod (die : Nat) (s : State) : Out :=
  .next (if 4 ≤ die then s
    else
      let x := s.die die
      let first := servedFirst x.waiting s.budgets
      let t := State.setDie { s with tick := s.tick + 6 } die { x with
        clock := (x.clock / 4096 + 1) * 4096
        periodCycle := 0
        spent := first
        waiting := (List.range 8).foldl (fun m n => setAt 0 m n (getAt 0 x.waiting n - getAt 0 first n)) []
        withheld := withheldNow s x
        limits := s.budgets
        vats := x.vats.map Vat.endPeriod }
      ((waitingSamples t die).take (getAt 0 first 4)).foldl (fun t y => writeSample t y.1 y.2) t)

/-- A vat of a die changed. -/
def onVat (s : State) (die vat : Nat) (f : Vat → Vat) : State :=
  if 4 ≤ die || 12 ≤ vat then s
  else s.setDie die { s.die die with
    vats := ((List.range 12).zip (s.die die).vats).map fun (v : Nat × Vat) => if v.1 = vat then f v.2 else v.2 }

/-- DROOP_EVENT (R292, R341). -/
def execDroopEvent (die vat : Nat) (s : State) : Out :=
  .next (if 4 ≤ die || 12 ≤ vat then s else countDie (onVat s die vat fun v => { v with droops := v.droops + 1 }) die 41 1)

/-- VAT_THERMAL (R292). -/
def execVatThermal (die vat : Nat) (celsius : Int) (s : State) : Out :=
  .next (onVat s die vat fun v => { v with
    celsius := celsius, eligible := if 95 < celsius then false else if celsius < 88 then true else v.eligible })

/-- What a PC sample says of a gang: cause, PC and mask (R343). -/
def sampleOf (s : State) (q id : Nat) (g : Gang) : Nat × W64 × Mask :=
  let strands := laneNumbers.filter fun l => lane g.liveLanes l && lowestLane (g.strandOf l) == l
  let next (ls : List Nat) : Nat := (chooseStrand g ls).getD 0
  let at_ (c l : Nat) : Nat × W64 × Mask := (c, g.pcOf l, g.strandOf l)
  let parkedAt (p : Park) : List Nat := strands.filter fun l => decide (g.parkOf l = p)
  let runs := match (s.quarter q).run with
    | some r => if r.gang = id then some (lowestLane r.lanes) else none
    | none => none
  match runs with
  | some l => at_ 0 l
  | none =>
    if strands.isEmpty then (2, g.exitPc, 0)
    else if !(eligibleStrands s id g true).isEmpty then at_ 5 (next (eligibleStrands s id g true))
    else if !(parkedAt .fetchWait).isEmpty then at_ 1 (next (parkedAt .fetchWait))
    else if !(parkedAt .regWait).isEmpty then at_ 4 (next (parkedAt .regWait))
    else at_ 3 (strands.headD 0)

/-- PC_SAMPLE (R343): the gangs of the context on the quarter take turns; a sample that finds BUD4 spent is discarded and counted. -/
def execPcSample (ctx q : Nat) (s : State) : Out :=
  .next (match s.ctx? ctx with
    | none => s
    | some x =>
      let gs := (gangsOn s q).filter fun g => g.2.ctx == ctx && !g.2.killed
      match leastBy (fun g => roundFrom (s.quarter q).samplePos 16 g.2.slot) gs with
      | none => s
      | some (id, g) =>
        if x.sampler = 0 then s
        else
          let s1 := s.setQuarter q { s.quarter q with samplePos := (g.slot + 1) % 16 }
          if budgetSpent s1 g.die 4 then countDie s1 g.die 40 1
          else
            let c := readClock (chargeBudget s1 g.die 4 1) g.die
            let r := sampleOf s q id g
            logGang c.2 g 3 r.1 r.2.1 r.2.2 (word c.1))

/-- A location in an object of a context. -/
def ctxHas (s : State) (x : Context) (k : Key) : Bool :=
  (List.range x.otLen).any fun o =>
    let r := recordNow s x o
    (r.state == 1 || r.state == 2) && objectHas s r k

/-- A context is affected by a reset of die d (R382). -/
def affected (s : State) (d : Nat) (c : Nat × Context) : Bool :=
  let here (cu : Nat) : Bool := cu / 48 == d
  (s.gangs.any fun g => g.2.ctx == c.1 && g.2.die == d) || (s.blocks.any fun b => b.2.ctx == c.1 && b.2.die == d) ||
  (s.cus.any fun u => here u.1 && ((u.2.tasks.any fun t => t.ctx == c.1) || u.2.shadows.any fun x => x.task.ctx == c.1)) ||
  (s.grids.any fun g => g.2.ctx == c.1 && g.2.dies / 2 ^ d % 2 == 1) ||
  ((s.die d).counters.any fun y => y.ctx == c.1 && !y.overflow) || (s.die d).rennet.any fun e => ctxHas s c.2 e.1

/-- A CU after a reset of its die, its L1 empty and its epoch 0 (R184, R204); its emergency area is the firmware's and stays (R379). -/
def resetCu (s : State) (c : Cu) : Cu := { Cu.reset with l1Since := s.writes, epoch := s.epoch, emergency := c.emergency }

/-- The die itself after its reset, in switch-out mode while contexts are recovered: it keeps its overflow area, with the counters there and
what their flags still wait for (R218, R338, R383). -/
def resetDieState (s : State) (x : Die) : Die :=
  { Die.reset with
    resets := (x.resets + 1) % 256
    overflow := x.overflow
    counters := x.counters.filter ContribCounter.overflow
    flags := x.flags.filter fun f => x.counters.any fun c => c.overflow && c.ctx == f.1 && c.flag == f.2
    limits := s.budgets
    vats := x.vats.map fun v => { Vat.reset with celsius := v.celsius } }

/-- What a reset of a die leaves of the bytes of affected contexts (R10, R216, R218, R265). In the Rind, a write not yet accepted by a base
die may be in memory or absent, whole: which is free for each 8-byte word. Every other byte that such a context wrote through the die is
unpredictable. Bytes of the other contexts are kept. -/
def loseBytes (s : State) (x : Die) (mine : Key → Bool) : State :=
  let dirty := x.l2.filter fun e => mine e.1 && inRind s e.1
  let words := (dirty.map fun e => e.1 / 8).eraseDups
  let gone := x.wrote.filter fun k => mine k && !inRind s k && (rennetVar s (k / 8 * 8)).isNone
  let free (n : Nat) : W64 := Config.freeWord (s.tick + n)
  let t1 := (x.l2.filter fun e => !mine e.1).foldl (fun t e => memWrite t e.1 e.2) s
  let t2 := dirty.foldl (fun t e => if (free (words.idxOf (e.1 / 8))).getLsbD 0 then memWrite t e.1 e.2 else t) t1
  let t3 := ((List.range gone.length).zip gone).foldl
    (fun t e => performByte t 0 none true e.2 (byteAt (free (words.length + e.1)) 0)) t2
  { t3 with tick := s.tick + words.length + gone.length, writes := t3.writes + 1 }

/-- A die reset (R218, R383): what its L2 and its Rennet held is lost. -/
def resetMemory (s : State) (d : Nat) (mine : Key → Bool) : State :=
  let x := s.die d
  let t := { s with
    cur := none
    focus := if s.focus.any fun q => q / 192 == d then none else s.focus
    quarters := s.quarters.filter fun q => q.1 / 192 != d
    cus := s.cus.map fun c => if c.1 / 48 == d then (c.1, resetCu s c.2) else c
    dies := put s.dies d (resetDieState s x) }
  let u := loseBytes t x mine
  if d = 0 then { u with mem := u.mem.filter fun c => !inFlags c.1, queueRr := [] } else u

/-- Recovery points in order of falling generation. -/
def byGeneration : List W64 → List W64
  | [] => []
  | c :: cs =>
    let rest := byGeneration cs
    (rest.takeWhile fun y => decide (fld c 31 0 < fld y 31 0)) ++ c :: rest.dropWhile fun y => decide (fld c 31 0 < fld y 31 0)

/-- The lost grid in whose place a recovery image is resumed: of those that name its version table, or where none does of all, the one
handed over first (R383). -/
def replacedGrid (lost : List (Nat × Grid)) (vtab : W64) : Option (Nat × Grid) :=
  (leastBy (fun (g : Nat × Grid) => g.2.order) (lost.filter fun g => g.2.vtab == vtab)).or (leastBy (fun (g : Nat × Grid) => g.2.order) lost)

/-- A lost grid ends without its completion write (R383). -/
def endLost (s : State) (g : Nat × Grid) : State :=
  g.2.completions.foldl (fun s c => if c.async then s else faultResume s c.queue hcMemflt 0x3F false) s

/-- A checked recovery image takes the place of a lost grid: its completions, and the queue that waits for it (R383). -/
def resumeLost (s : State) (ctx : Nat) (p : W64) (h : Handover) (g : Nat × Grid) : State :=
  let r := handOver s ctx p h ((g.2.completions.head?).getD ⟨0, true, 0, 0⟩)
  { r.2 with
    grids := change r.2.grids r.1 fun x => { x with completions := g.2.completions }
    queues := r.2.queues.map fun (q : Nat × Queue) => if q.2.waitGrid = some g.1 then (q.1, { q.2 with waitGrid := some r.1 }) else q }

/-- Steps 4 and 5 for one context: the intact points in turn until one resumes. Answers the handler codes of those that failed; none
while an image is not resident (R383). -/
def recoverFrom (ctx : Nat) (lost : List (Nat × Grid)) : List W64 → State → Option (State × List Nat)
  | [], s => some (lost.foldl endLost s, [])
  | c :: cs, s =>
    let p := ownPtr (fld c 50 32)
    match checkImage s ctx p with
    | .error e => if e = .wait then none else (recoverFrom ctx lost cs (e.mark s)).map fun r => (r.1, e.codes.1 :: r.2)
    | .ok h => match replacedGrid lost (ihVtab h.header) with
      | none => some (s, [])
      | some g => some (resumeLost ((lost.filter fun x => x.1 != g.1).foldl endLost s) ctx p h g, [])

/-- The recovery points of a slot as the directory holds them; none where no Rind range is designated (R383, R395). -/
def directoryPoints (s : State) (slot : Nat) : Option (SMap W64) :=
  (directoryAt s slot).map fun a => (List.range 4).foldl (fun m i =>
    setAt 0 m i (bytesW64 ((List.range 8).map fun b => memRead s (a + 8 + 8 * i + b)))) []

/-- An event record whose gang and PC no rule gives: those words are free. -/
def logEvent (s : State) (ctx cause : Nat) : State :=
  let t := { s with tick := s.tick + 3 }
  appendRecord t frontEnd ctx 2 cause (Config.freeWord s.tick) (Config.freeWord (s.tick + 1)) (Config.freeWord (s.tick + 2))

/-- Recovery of one affected context (R383). None while a recovery image is not resident. -/
def recoverContext (s : State) (r : Recovery) : Option State :=
  match s.ctx? r.ctx with
  | none => some s
  | some x =>
    let s1 := s.onCtx r.ctx fun y => { y with ckp := (directoryPoints s x.slot).getD y.ckp }
    (checkPoints s1 r.ctx).bind fun s2 =>
      let points := match s2.ctx? r.ctx with
        | some y => byGeneration ((y.ckp.map Prod.snd).filter fun c => c.getLsbD 63)
        | none => []
      (recoverFrom r.ctx r.grids (if r.grids.isEmpty then [] else points) s2).map fun u =>
        u.2.foldl (fun s k => logEvent s r.ctx (64 + k)) (logEvent u.1 r.ctx 0x3F)

/-- Normal-service mode returns to a die once every context it affected is recovered (R383). -/
def endRecovery (s : State) (d : Nat) : State :=
  if s.recoveries.any fun r => r.die == d then s else s.setDie d { s.die d with normal := true }

/-- The first recovery that can be carried out now, and the machine after it (R383). -/
def recoverNext (s : State) : Option State :=
  firstSome (fun (r : Recovery) =>
    (recoverContext { s with recoveries := s.recoveries.erase r } r).map fun t => endRecovery t r.die) s.recoveries

/-- The reset of a compute die, and the recovery of the contexts it affects as far as their images are resident; a recovery under way
starts again (R382, R383, R384). -/
def resetDie (s : State) (d : Nat) : State :=
  let cs := (s.contexts.filter fun c => affected s d c || s.recoveries.any fun r => r.ctx == c.1 && r.die == d).map Prod.fst
  let lost (c : Nat) : List (Nat × Grid) :=
    (s.recoveries.filter fun r => r.ctx == c).flatMap Recovery.grids ++ s.grids.filter fun g => g.2.ctx == c
  let mine (k : Key) : Bool := cs.any fun c => (s.ctx? c).any fun x => ctxHas s x k
  let t := resetMemory (cs.foldl discardRuns s) d mine
  let u := { t with
    grids := t.grids.filter fun g => !cs.contains g.2.ctx
    recoveries := (t.recoveries.filter fun r => !cs.contains r.ctx) ++ cs.map fun c => ⟨d, c, lost c⟩ }
  cs.foldl (fun s _ => (recoverNext s).getD s) (endRecovery u d)

/-- DIE_RESET (R383, R384). -/
def execDieReset (die : Nat) (s : State) : Out := .next (if die < 4 then resetDie s die else s)

/-- DIE_RESET_REQUEST (R382): the firmware resets the die that system software names. -/
def execDieResetRequest (die : Nat) (s : State) : Out :=
  .next (served s (if die < 4 then resetDie s die else s))

/-- The device after a reset: everything but the host's memory and some bytes of HBM is as at power-on. The model's own counters go on. -/
def restarted (s : State) (keep : Key → Bool) : State :=
  { State.reset with
    tick := s.tick, agenda := s.agenda, fresh := s.fresh, writes := s.writes, gridOrder := s.gridOrder, answers := s.answers
    hostMem := s.hostMem
    mem := s.mem.filter fun c => keep c.1
    poison := s.poison.filter fun p => keep (128 * p)
    mended := s.mended.filter fun w => keep (8 * w) }

/-- Bring-up stages 1 to 3 (R394): an error of 1 or 2 stops the boot in its first stage, 3 in the second. -/
def bringUp (s : State) (err : Nat) : State :=
  match err with
  | 1 => { s with stage := 0, bootErr := 1, rdy := false }
  | 2 => { s with stage := 0, bootErr := 2, rdy := false }
  | 3 => { s with stage := 1, bootErr := 3, rdy := false }
  | _ => { s with stage := 3, bootErr := 0, rdy := true }

/-- A device reset: Rind ranges and their mirrors keep their bytes (R394, R397). -/
def resetDevice (s : State) (err : Nat) : State :=
  if s.powered then bringUp (restarted s fun k => (rindRanges s.rind).any fun r => keySpan r.1 r.2 k) err else s

/-- DEVICE_RESET (R394). -/
def execDeviceReset (err : Nat) (s : State) : Out := .next (resetDevice s err)

/-- Power lost: all of HBM is (R394). -/
def losePower (s : State) : State := { restarted s (fun _ => false) with powered := false }

/-- POWER_LOSS (R394). -/
def execPowerLoss (s : State) : Out := .next (losePower s)

/-- THERMAL_SHUTDOWN (R396): as a power loss. -/
def execThermalShutdown (s : State) : Out := .next (losePower s)

/-- POWER_ON (R394): bring-up from stage 1 of a device without power, or of one that has not begun it. -/
def execPowerOn (s : State) : Out :=
  .next (if !s.powered || s.stage = 0 then bringUp { restarted s (fun _ => false) with powered := true } 0 else s)

/-- FIRMWARE_RESTART (R381): gangs keep running; what the firmware does waits. -/
def execFirmwareRestart (s : State) : Out := .next (countError s 6)

/-- QUEUE_CORE_RESTART (R381): its queues are taken up again, every packet step performed once. -/
def execQueueCoreRestart (s : State) : Out := .next (countError s 6)

/-- What an error that arises does (R81, R215, R221, R279, R375). One in a register without a second copy is found when the register is
read, and kills (GANG_KILL). -/
def applyUpset (u : Upset) (s : State) : State :=
  match u with
  | .scratch blk w => match s.block? blk with
    | some b => if 4 * w < b.spb then countError (s.onBlock blk fun b => { b with spadPoison := w :: b.spadPoison.filter (· != w) }) 1 else s
    | none => s
  | .register id => match s.gang? id with
    | some g => if g.mir then countError s 0 else s
    | none => s
  | .descriptor q => match s.queue? q with
    | some x => if x.state = 0 then s else queueFault s q hcQtue 0 0
    | none => s
  | .silent k b => upsetByte s k b

end Sys2Proof.Machine
end

