-- ==== Sys2Proof/Machine/HostLink.lean ====
section
/-! DEFINITION. What arrives from outside: host writes to BAR0, reads, writes and AtomicOps through BAR2, and transactions of the Zheum
link (R219, R220, R264, R386 to R391). -/

namespace Sys2Proof.Machine

/-- The die reset counts, 8 bits for each die, die 0 lowest (R281, R386). -/
def resetCounts (s : State) : Nat := packNat 8 ((List.range 4).map fun d => (s.die d).resets)

/-- The STATUS register (R386). -/
def statusReg (s : State) : W64 := word (resetCounts s * 2 ^ 32 + s.bootErr % 256 * 2 ^ 8 + bitNat s.rdy * 2 ^ 4 + s.stage % 16)

/-- The DEVID register (R386). -/
def devidWord : W64 := word (0x4B34 * 2 ^ 48 + Config.stepping.toNat)

/-- What the host reads at a BAR0 offset (R386); an offset that holds no item reads 0. -/
def bar0Word (s : State) (off : Nat) : W64 :=
  if off < 2 ^ 20 then bytesW64 (coherentBytes s (flagBase + off) 8)
  else match off with
    | 0x100000 => devidWord
    | 0x100008 => statusReg s
    | 0x100010 => s.node
    | 0x100018 => s.mbxBase
    | 0x100020 => s.mbxWr
    | 0x100028 => s.mbxRd
    | 0x100030 => s.rstkey
    | _ => 0

/-- The key that resets the device (R386). -/
def resetKey : W64 := 0x4B345253

/-- A write to RSTKEY (R386): any value but the key is ignored. -/
def writeRstkey (v : W64) (s : State) : State := if v = resetKey then resetDevice s 0 else s

/-- The host's own accesses, which reach the device in the order in which it made them (R263). -/
def isHost : Instr → Bool
  | .rstkey _ => true
  | .registerWrite _ _ => true
  | .hostFlagWrite _ _ => true
  | .hostBar2Read _ _ => true
  | .hostBar2Write _ _ => true
  | .pcieAtomicop _ _ _ _ _ => true
  | _ => false

/-- An access from outside waits for a publication (R195, R196). -/
def waitOutside (s : State) (i : Instr) : State := { s with outside := s.outside ++ [i] }

/-- An access of the host: behind those that wait, else its effect; nothing without power. -/
def fromHost (s : State) (i : Instr) (t : State) : State :=
  if !s.powered then s else if s.outside.any isHost then waitOutside s i else t

/-- RSTKEY (R386). -/
def execRstkey (v : W64) (s : State) : Out := .next (fromHost s (.rstkey v) (writeRstkey v s))

/-- REGISTER_WRITE (R386): NODE takes a write only while STATUS.stage is 4; DEVID, STATUS, MBXRD and offsets with no item take none. -/
def execRegisterWrite (off : Nat) (v : W64) (s : State) : Out :=
  .next (fromHost s (.registerWrite off v) (match off with
    | 0x100010 => if s.stage = 4 then { s with node := v } else s
    | 0x100018 => { s with mbxBase := v }
    | 0x100020 => { s with mbxWr := v }
    | 0x100030 => writeRstkey v s
    | _ => s))

/-- HOST_FLAG_WRITE (R219, R386). -/
def execHostFlagWrite (off : Nat) (bytes : List Byte) (s : State) : Out :=
  .next (fromHost s (.hostFlagWrite off bytes) (
    if decide (2 ^ 20 < off + bytes.length) then s
    else ((List.range bytes.length).zip bytes).foldl (fun s b => performByte s 0 none true (flagBase + off + b.1) b.2) s))

/-- The export entry that holds a BAR2 access whole (R388). -/
def exportAt (s : State) (off len : Nat) : Option Export :=
  (s.exports.find? fun e => decide (e.2.off ≤ off) && decide (off + len ≤ e.2.off + e.2.len)).map Prod.snd

/-- The places of a BAR2 access to an exported object, translated byte by byte and not replayed (R388). -/
def bar2Places (s : State) (e : Export) (off len : Nat) (k : Kind) : Except Miss (List Place) :=
  match translate s frontEnd e.ctx (e.ptr + word (off - e.off)) k false false len with
  | .ok ps => if ps.any Place.isRemote then .error (.fault .objinv 0) else .ok ps
  | .error m => .error m

/-- A refused or dropped BAR2 access counts as a fabric error (R388). -/
def refuseBar2 (s : State) : State := countError s 7

/-- A BAR2 access: performed at its places; refused where it lies in no entry or a byte of it faults; or held while it meets a move or a
rebuild (R195, R196, R198, R388). -/
def bar2Access (s : State) (i : Instr) (off len : Nat) (k : Kind) (refuse : State → State) (f : Export → List Place → State) : State :=
  fromHost s i (match exportAt s off len with
    | none => refuse (refuseBar2 s)
    | some e => match bar2Places s e off len k with
      | .ok ps => f e ps
      | .error (.hold _) => waitOutside s i
      | .error m => refuse (refuseBar2 (markMiss s e.ctx e.ptr m)))

/-- A byte as a host read finds it: in the Cave or HBM, or in host memory (R220, R263). -/
def hostByte (s : State) (p : Place) : Byte :=
  match p.key with
  | none => 0
  | some (k, _) => memRead s k

/-- HOST_BAR2_READ (R220, R388): a read that is refused answers nothing. -/
def execHostBar2Read (off len : Nat) (s : State) : Out :=
  .next (bar2Access s (.hostBar2Read off len) off len .read (fun t => answer t []) fun _ ps => answer s (ps.map (hostByte s)))

/-- The locations of the line tiles that the bytes of some places from a pointer on lie in (R202). -/
def linesOf (s : State) (ctx : Nat) (p : W64) (ps : List Place) : List Key :=
  ((List.range ps.length).zip ps).foldl (fun ks x => match x.2.key with
    | some k => if ks.contains k.1 then ks else k.1 :: lineOf s frontEnd ctx (p + word x.1) ++ ks
    | none => ks) []

/-- A host write at translated places (R220): the line tiles' dirty bytes are written back, every L2 and Rennet copy goes, and the host's
bytes are applied. -/
def hostWrite (s : State) (line : List Key) (ps : List (Place × Byte)) : State :=
  let keys := ps.filterMap fun p => p.1.key.map Prod.fst
  let t := rennetHome (writeBackL2 s line.contains) line.contains
  let u := ps.foldl (fun t p => match p.1.key with
    | some (k, _) => serviceByte t k p.2
    | none => t) t
  { u with writes := u.writes + 1, poison := if u.poison.isEmpty then [] else poisonAfter u.poison keys }

/-- HOST_BAR2_WRITE (R220, R388). -/
def execHostBar2Write (off : Nat) (bytes : List Byte) (s : State) : Out :=
  .next (bar2Access s (.hostBar2Write off bytes) off bytes.length .write id fun e ps =>
    hostWrite s (linesOf s e.ctx (e.ptr + word (off - e.off)) ps) (ps.zip bytes))

/-- PCIE_ATOMICOP (R387): 0 FetchAdd, 1 Swap, 2 CAS on 4 or 8 aligned bytes, performed where an atomic of the device is; the old value is
the answer. -/
def execPcieAtomicop (off op width : Nat) (v c : W64) (s : State) : Out :=
  .next (if (width != 4 && width != 8) || off % width != 0 || 2 < op then fromHost s (.pcieAtomicop off op width v c) (answer (refuseBar2 s) [])
    else bar2Access s (.pcieAtomicop off op width v c) off width .atomic (fun t => answer t []) fun e ps =>
      let r := rmwPlaces s 0 none (lineOf s frontEnd e.ctx (e.ptr + word (off - e.off))) ps fun old => match op with
        | 0 => old + v.toNat
        | 1 => v.toNat
        | _ => if old = v.toNat % 2 ^ (8 * width) then c.toNat else old
      answer r.1 (natBytes width r.2))

/-- The access of a transaction of another device, as the model numbers its kinds (R185, R264): 0 load, 1 store, 2 REDPOLL, 16 + aop an
atomic, 32 + aop a RED, 48 + aop a REDC; then the size as a power of two, and MODE. -/
def remoteKind (k : Nat) : Kind := if k = 0 || k = 2 then .read else if k < 32 && 16 ≤ k then .atomic else .write

/-- Bytes that a transaction reaches. -/
def remoteSize (kind : Nat) : Nat :=
  match kind % 256 with
  | 0 => 2 ^ (kind / 256 % 4)
  | 1 => 2 ^ (kind / 256 % 4)
  | 2 => 1
  | _ => atomWidth (word32 (kind / 1024))

/-- The places of a transaction of another device (R185, R191): PERM 5 where it names an operation that no system-memory object takes. -/
def servePlaces (s : State) (ctx kind : Nat) (strong : Bool) (p : W64) : Except Miss (List Place) :=
  let k := kind % 256
  let denied := decide (16 ≤ k) && !hostOp (decide (k < 32)) (k % 16) (word32 (kind / 1024)) &&
    match findRecord s frontEnd ctx 511 (ptrObj p) with
    | .ok r => r.sysm
    | .error _ => false
  match translate s frontEnd ctx p (remoteKind k) false (strong || decide (16 ≤ k)) (remoteSize kind) with
  | .error (.fault .align d) => .error (.fault .align d)
  | .error (.fault .perm d) => .error (.fault .perm d)
  | .error (.hold none) => .error (.hold none)
  | .error m => .error (if denied then .fault .perm 5 else m)
  | .ok ps =>
    if denied then .error (.fault .perm 5)
    else if k != 1 && k != 2 && ps.any (placePoisoned s) then .error (.fault .memue 0)
    else .ok ps

/-- A fault that returns to the issuing device: its code and its detail (R185). -/
def answerFault (s : State) (m : Miss) : State :=
  match m.code with
  | some c => answer s (natBytes 4 c.1.num ++ natBytes 8 c.2)
  | none => s

/-- A transaction of another device performed at its places (R185, R264). -/
def remoteEffect (s : State) (ctx kind : Nat) (ptr v c : W64) (ps : List Place) : State :=
  let k := kind % 256
  let mode := word32 (kind / 1024)
  match k with
  | 0 => answer s (ps.map (byteNow s))
  | 1 => performBytes s 0 none (ps.zip (w64Bytes v))
  | 2 => answer s (w64Bytes (counterStatus ((lineBase s frontEnd ctx ptr).bind (counterOf s))))
  | _ =>
    let r := rmwPlaces s 0 none (lineOf s frontEnd ctx ptr) ps fun old => atomNew mode (k % 16) old v.toNat c.toNat
    if k < 32 then answer r.1 (natBytes ps.length r.2)
    else if k < 48 || ps.all fun p => decide (p = .zero) then r.1
    else countAt r.1 (lineBase r.1 frontEnd ctx ptr)

/-- REMOTE_REQUEST (R264): kind 255 is the acknowledgement of a tag. A tag still in the port's deduplication window is a second copy; a
tag above 4,095 names no strong transaction. One that meets a move or a rebuild is held (R195, R196). -/
def execRemoteRequest (port tag ctx kind : Nat) (ptr v c : W64) (s : State) : Out :=
  .next (if !s.powered || 16 ≤ port || !(s.port port).up then s
    else
      let p := s.port port
      let k := kind % 256
      if k = 255 then { s with ports := put s.ports port { p with tags := p.tags.filter (· != tag) } }
      else if p.tags.contains tag || !(k < 3 || (k % 16 < 10 && 16 ≤ k && k < 64)) then s
      else
        let t := { s with ports := put s.ports port { p with resends := 0, tags := if tag < 4096 then tag :: p.tags else p.tags } }
        let q := word (fld ptr 54 0 + 511 * 2 ^ 55)
        match servePlaces t ctx kind (decide (tag < 4096)) q with
        | .ok ps => remoteEffect t ctx kind q v c ps
        | .error (.hold _) => waitOutside s (.remoteRequest port tag ctx kind ptr v c)
        | .error m => answerFault (markMiss t ctx q m) m)

/-- FLIT_RESEND (R390): a flit that fails after 16 resends takes its port down. -/
def execFlitResend (port : Nat) (s : State) : Out :=
  .next (if 16 ≤ port then s
    else
      let p := s.port port
      { s with ports := put s.ports port { p with resends := p.resends + 1, up := p.up && decide (p.resends < 16) } })

/-- PORT_DOWN (R391): its flits take the remaining routes with their original tags. -/
def execPortDown (port : Nat) (s : State) : Out :=
  .next (if 16 ≤ port then s else { s with ports := put s.ports port { s.port port with up := false } })

end Sys2Proof.Machine
end

