-- ==== Sys2Proof/Machine/Dispatch.lean ====
section
/-! DEFINITION. Dispatch: one arm per constructor, each one call of the instruction's meaning. -/

namespace Sys2Proof.Machine

open Sys2Proof

/-- What an instruction, or a step that is no instruction, does. -/
def exec (i : Instr) (s : State) : Host.Outcome State Fault Refusal :=
  match i with
  | .iadd d a b => Sys2Proof.Machine.execIadd d a b s
  | .isub d a b => Sys2Proof.Machine.execIsub d a b s
  | .iadds d a b => Sys2Proof.Machine.execIadds d a b s
  | .isubs d a b => Sys2Proof.Machine.execIsubs d a b s
  | .imul d a b => Sys2Proof.Machine.execImul d a b s
  | .imulh d a b => Sys2Proof.Machine.execImulh d a b s
  | .imac d a b => Sys2Proof.Machine.execImac d a b s
  | .idiv d a b => Sys2Proof.Machine.execIdiv d a b s
  | .irem d a b => Sys2Proof.Machine.execIrem d a b s
  | .imin d a b => Sys2Proof.Machine.execImin d a b s
  | .imax d a b => Sys2Proof.Machine.execImax d a b s
  | .iabs d a => Sys2Proof.Machine.execIabs d a s
  | .ineg d a => Sys2Proof.Machine.execIneg d a s
  | .and d a b => Sys2Proof.Machine.execAnd d a b s
  | .or d a b => Sys2Proof.Machine.execOr d a b s
  | .xor d a b => Sys2Proof.Machine.execXor d a b s
  | .andn d a b => Sys2Proof.Machine.execAndn d a b s
  | .not d a => Sys2Proof.Machine.execNot d a s
  | .shl d a b => Sys2Proof.Machine.execShl d a b s
  | .shr d a b => Sys2Proof.Machine.execShr d a b s
  | .sar d a b => Sys2Proof.Machine.execSar d a b s
  | .rotl d a b => Sys2Proof.Machine.execRotl d a b s
  | .bfx d a b x => Sys2Proof.Machine.execBfx d a b x s
  | .bfi d a b => Sys2Proof.Machine.execBfi d a b s
  | .popc d a => Sys2Proof.Machine.execPopc d a s
  | .clz d a => Sys2Proof.Machine.execClz d a s
  | .ctz d a => Sys2Proof.Machine.execCtz d a s
  | .brev d a => Sys2Proof.Machine.execBrev d a s
  | .bytep d a b => Sys2Proof.Machine.execBytep d a b s
  | .sel d a b x => Sys2Proof.Machine.execSel d a b x s
  | .mov d a => Sys2Proof.Machine.execMov d a s
  | .lea d a b x => Sys2Proof.Machine.execLea d a b x s
  | .icmp d a b c => Sys2Proof.Machine.execIcmp d a b c s
  | .iaddi d im => Sys2Proof.Machine.execIaddi d im s
  | .movi d im => Sys2Proof.Machine.execMovi d im s
  | .movk0 d im => Sys2Proof.Machine.execMovk0 d im s
  | .movk1 d im => Sys2Proof.Machine.execMovk1 d im s
  | .movk2 d im => Sys2Proof.Machine.execMovk2 d im s
  | .movk3 d im => Sys2Proof.Machine.execMovk3 d im s
  | .icmpi d a im c => Sys2Proof.Machine.execIcmpi d a im c s
  | .andi d im => Sys2Proof.Machine.execAndi d im s
  | .ori d im => Sys2Proof.Machine.execOri d im s
  | .xori d im => Sys2Proof.Machine.execXori d im s
  | .shli d a im => Sys2Proof.Machine.execShli d a im s
  | .shri d a im => Sys2Proof.Machine.execShri d a im s
  | .sari d a im => Sys2Proof.Machine.execSari d a im s
  | .imuli d im => Sys2Proof.Machine.execImuli d im s
  | .dot4 d a b x => Sys2Proof.Machine.execDot4 d a b x s
  | .plop d a b t => Sys2Proof.Machine.execPlop d a b t s
  | .p2v d a x => Sys2Proof.Machine.execP2v d a x s
  | .v2p d a x => Sys2Proof.Machine.execV2p d a x s
  | .vote d a x => Sys2Proof.Machine.execVote d a x s
  | .setmode im => Sys2Proof.Machine.execSetmode im s
  | .setmodeh im => Sys2Proof.Machine.execSetmodeh im s
  | .getmode d => Sys2Proof.Machine.execGetmode d s
  | .xl d a b x => Sys2Proof.Machine.execXl d a b x s
  | .xli d a e m => Sys2Proof.Machine.execXli d a e m s
  | .qx d a h g f e => Sys2Proof.Machine.execQx d a h g f e s
  | .gred d a o => Sys2Proof.Machine.execGred d a o s
  | .gscan d a e o => Sys2Proof.Machine.execGscan d a e o s
  | .pack d a b x => Sys2Proof.Machine.execPack d a b x s
  | .unpack d a x => Sys2Proof.Machine.execUnpack d a x s
  | .specr d k => Sys2Proof.Machine.execSpecr d k s
  | .fadd d a b => Sys2Proof.Machine.execFadd d a b s
  | .fsub d a b => Sys2Proof.Machine.execFsub d a b s
  | .fmul d a b => Sys2Proof.Machine.execFmul d a b s
  | .fma d a b => Sys2Proof.Machine.execFma d a b s
  | .fms d a b => Sys2Proof.Machine.execFms d a b s
  | .fnma d a b => Sys2Proof.Machine.execFnma d a b s
  | .fmin d a b => Sys2Proof.Machine.execFmin d a b s
  | .fmax d a b => Sys2Proof.Machine.execFmax d a b s
  | .fabs d a => Sys2Proof.Machine.execFabs d a s
  | .fneg d a => Sys2Proof.Machine.execFneg d a s
  | .fcmp d a b c => Sys2Proof.Machine.execFcmp d a b c s
  | .fclass d a => Sys2Proof.Machine.execFclass d a s
  | .fdiv d a b => Sys2Proof.Machine.execFdiv d a b s
  | .fsqrt d a => Sys2Proof.Machine.execFsqrt d a s
  | .fscale d a b => Sys2Proof.Machine.execFscale d a b s
  | .rnd d a => Sys2Proof.Machine.execRnd d a s
  | .frcp d a => Sys2Proof.Machine.execFrcp d a s
  | .frsq d a => Sys2Proof.Machine.execFrsq d a s
  | .fexp2 d a => Sys2Proof.Machine.execFexp2 d a s
  | .flog2 d a => Sys2Proof.Machine.execFlog2 d a s
  | .fsinpi d a => Sys2Proof.Machine.execFsinpi d a s
  | .fcospi d a => Sys2Proof.Machine.execFcospi d a s
  | .ftanh d a => Sys2Proof.Machine.execFtanh d a s
  | .cvt d a k t sf => Sys2Proof.Machine.execCvt d a k t sf s
  | .cvtg d a b x => Sys2Proof.Machine.execCvtg d a b x s
  | .cbenc d a x => Sys2Proof.Machine.execCbenc d a x s
  | .cbdec d a x => Sys2Proof.Machine.execCbdec d a x s
  | .bra p n o => Sys2Proof.Machine.execBra p n o s
  | .jmpi a x => Sys2Proof.Machine.execJmpi a x s
  | .call sf o => Sys2Proof.Machine.execCall sf o s
  | .calli a sf => Sys2Proof.Machine.execCalli a sf s
  | .meet d a sf => Sys2Proof.Machine.execMeet d a sf s
  | .join d => Sys2Proof.Machine.execJoin d s
  | .yieldw k t o => Sys2Proof.Machine.execYieldw k t o s
  | .exit a n => Sys2Proof.Machine.execExit a n s
  | .give im => Sys2Proof.Machine.execGive im s
  | .claim im => Sys2Proof.Machine.execClaim im s
  | .trap c => Sys2Proof.Machine.execTrap c s
  | .rtt x => Sys2Proof.Machine.execRtt x s
  | .tmask im => Sys2Proof.Machine.execTmask im s
  | .ld d a sf r w => Sys2Proof.Machine.execLd d a sf r w s
  | .st d a sf r w => Sys2Proof.Machine.execSt d a sf r w s
  | .lds d a sf r w => Sys2Proof.Machine.execLds d a sf r w s
  | .sts d a sf r w => Sys2Proof.Machine.execSts d a sf r w s
  | .ldc d a b x => Sys2Proof.Machine.execLdc d a b x s
  | .stc d a b x => Sys2Proof.Machine.execStc d a b x s
  | .pref a sf => Sys2Proof.Machine.execPref a sf s
  | .acp d a b => Sys2Proof.Machine.execAcp d a b s
  | .acps d a b x => Sys2Proof.Machine.execAcps d a b x s
  | .acpt d a b x => Sys2Proof.Machine.execAcpt d a b x s
  | .atom d a p sf r => Sys2Proof.Machine.execAtom d a p sf r s
  | .atoms d a p sf r => Sys2Proof.Machine.execAtoms d a p sf r s
  | .red d a p sf r => Sys2Proof.Machine.execRed d a p sf r s
  | .redc d a p sf r => Sys2Proof.Machine.execRedc d a p sf r s
  | .bar d a c p b => Sys2Proof.Machine.execBar d a c p b s
  | .bara d a c p b => Sys2Proof.Machine.execBara d a c p b s
  | .barw d a p b => Sys2Proof.Machine.execBarw d a p b s
  | .cbar d a c p b => Sys2Proof.Machine.execCbar d a c p b s
  | .fence p k sf => Sys2Proof.Machine.execFence p k sf s
  | .flush a b x => Sys2Proof.Machine.execFlush a b x s
  | .ckpt a sf => Sys2Proof.Machine.execCkpt a sf s
  | .waitc k t => Sys2Proof.Machine.execWaitc k t s
  | .cntrd d x => Sys2Proof.Machine.execCntrd d x s
  | .bbc d im => Sys2Proof.Machine.execBbc d im s
  | .redset d a b x => Sys2Proof.Machine.execRedset d a b x s
  | .redpoll d a x => Sys2Proof.Machine.execRedpoll d a x s
  | .perfrd d n => Sys2Proof.Machine.execPerfrd d n s
  | .sample a k => Sys2Proof.Machine.execSample a k s
  | .mma c a b f => Sys2Proof.Machine.execMma c a b f s
  | .mmas c a b f sf => Sys2Proof.Machine.execMmas c a b f sf s
  | .mmaq c a b f sf => Sys2Proof.Machine.execMmaq c a b f sf s
  | .mmaqs c a b f sf => Sys2Proof.Machine.execMmaqs c a b f sf s
  | .accz c sf => Sys2Proof.Machine.execAccz c sf s
  | .accrd c a sf => Sys2Proof.Machine.execAccrd c a sf s
  | .accwr c a sf => Sys2Proof.Machine.execAccwr c a sf s
  | .accsc c a sf => Sys2Proof.Machine.execAccsc c a sf s
  | .accmax c a sf => Sys2Proof.Machine.execAccmax c a sf s
  | .accsum c a sf => Sys2Proof.Machine.execAccsum c a sf s
  | .accst c f sf => Sys2Proof.Machine.execAccst c f sf s
  | .accld c f sf => Sys2Proof.Machine.execAccld c f sf s
  | .mtr d a => Sys2Proof.Machine.execMtr d a s
  | .safept n => Sys2Proof.Machine.execSafept n s
  | .xfer a sf v => Sys2Proof.Machine.execXfer a sf v s
  | .xferq d => Sys2Proof.Machine.execXferq d s
  | .mcall d k => Sys2Proof.Machine.execMcall d k s
  | .mstore d a k => Sys2Proof.Machine.execMstore d a k s
  | .dtload d a c => Sys2Proof.Machine.execDtload d a c s
  | .dtset a o c => Sys2Proof.Machine.execDtset a o c s
  | .dadd d a b c => Sys2Proof.Machine.execDadd d a b c s
  | .dsub d a b c => Sys2Proof.Machine.execDsub d a b c s
  | .dcmp d a b c => Sys2Proof.Machine.execDcmp d a b c s
  | .dconv d a c => Sys2Proof.Machine.execDconv d a c s
  | .dstate d c => Sys2Proof.Machine.execDstate d c s
  | .cbload a x => Sys2Proof.Machine.execCbload a x s
  | .cbrd d q b => Sys2Proof.Machine.execCbrd d q b s
  | .sysrd d n => Sys2Proof.Machine.execSysrd d n s
  | .syswr a n => Sys2Proof.Machine.execSyswr a n s
  | .tlog a => Sys2Proof.Machine.execTlog a s
  | .runArbitration q => Sys2Proof.Machine.execRunArbitration q s
  | .gangPromotion g => Sys2Proof.Machine.execGangPromotion g s
  | .instructionFetchFill g lane => Sys2Proof.Machine.execInstructionFetchFill g lane s
  | .resultReturn g ticket => Sys2Proof.Machine.execResultReturn g ticket s
  | .replaySlotFree cu => Sys2Proof.Machine.execReplaySlotFree cu s
  | .faultAck ctx obj tile sub frame fill => Sys2Proof.Machine.execFaultAck ctx obj tile sub frame fill s
  | .faultDecline ctx obj tile sub => Sys2Proof.Machine.execFaultDecline ctx obj tile sub s
  | .copyPiece g ticket k => Sys2Proof.Machine.execCopyPiece g ticket k s
  | .matrixExecute q => Sys2Proof.Machine.execMatrixExecute q s
  | .remoteWriteAck g ticket => Sys2Proof.Machine.execRemoteWriteAck g ticket s
  | .counterReport g k => Sys2Proof.Machine.execCounterReport g k s
  | .redcContribution g ticket lane => Sys2Proof.Machine.execRedcContribution g ticket lane s
  | .claimGrant blk q => Sys2Proof.Machine.execClaimGrant blk q s
  | .ckptCommit g => Sys2Proof.Machine.execCkptCommit g s
  | .transferSequence g => Sys2Proof.Machine.execTransferSequence g s
  | .transferReleaseTimeout g lane => Sys2Proof.Machine.execTransferReleaseTimeout g lane s
  | .gangEnd g => Sys2Proof.Machine.execGangEnd g s
  | .taskDispatch cu q slot => Sys2Proof.Machine.execTaskDispatch cu q slot s
  | .taskRunnable cu slot => Sys2Proof.Machine.execTaskRunnable cu slot s
  | .blockPlace grid index cus q0s slots => Sys2Proof.Machine.execBlockPlace grid index cus q0s slots s
  | .gridEnd grid => Sys2Proof.Machine.execGridEnd grid s
  | .gangKill g code detail => Sys2Proof.Machine.execGangKill g code detail s
  | .sliceEnd ctx => Sys2Proof.Machine.execSliceEnd ctx s
  | .stopRequest ctx => Sys2Proof.Machine.execStopRequest ctx s
  | .emergencyCopyOut cu => Sys2Proof.Machine.execEmergencyCopyOut cu s
  | .dieReset die => Sys2Proof.Machine.execDieReset die s
  | .deviceReset err => Sys2Proof.Machine.execDeviceReset err s
  | .rstkey v => Sys2Proof.Machine.execRstkey v s
  | .registerWrite off v => Sys2Proof.Machine.execRegisterWrite off v s
  | .wakeWord q v => Sys2Proof.Machine.execWakeWord q v s
  | .queueNop q => Sys2Proof.Machine.execQueueNop q s
  | .resume q => Sys2Proof.Machine.execResume q s
  | .signal q => Sys2Proof.Machine.execSignal q s
  | .waitv q => Sys2Proof.Machine.execWaitv q s
  | .waitvRecheck q => Sys2Proof.Machine.execWaitvRecheck q s
  | .waitvPollTimer q => Sys2Proof.Machine.execWaitvPollTimer q s
  | .writev q => Sys2Proof.Machine.execWritev q s
  | .flushc q => Sys2Proof.Machine.execFlushc q s
  | .resync q => Sys2Proof.Machine.execResync q s
  | .handler q => Sys2Proof.Machine.execHandler q s
  | .objectRecordWrite ctx obj record entries => Sys2Proof.Machine.execObjectRecordWrite ctx obj record entries s
  | .objectRetire ctx obj => Sys2Proof.Machine.execObjectRetire ctx obj s
  | .rindDesignate base size mirror => Sys2Proof.Machine.execRindDesignate base size mirror s
  | .exportSet slot ctx off len ptr => Sys2Proof.Machine.execExportSet slot ctx off len ptr s
  | .queueCreate q desc => Sys2Proof.Machine.execQueueCreate q desc s
  | .queueDestroy q => Sys2Proof.Machine.execQueueDestroy q s
  | .queueResume q => Sys2Proof.Machine.execQueueResume q s
  | .contextCreate ctx slot attrs => Sys2Proof.Machine.execContextCreate ctx slot attrs s
  | .contextDestroy ctx => Sys2Proof.Machine.execContextDestroy ctx s
  | .contextRecover ctx attrs => Sys2Proof.Machine.execContextRecover ctx attrs s
  | .xferRequest ctx vtab target => Sys2Proof.Machine.execXferRequest ctx vtab target s
  | .curveSet die table => Sys2Proof.Machine.execCurveSet die table s
  | .budgetSet n lim => Sys2Proof.Machine.execBudgetSet n lim s
  | .faultModeSet die normal => Sys2Proof.Machine.execFaultModeSet die normal s
  | .debugStop scope id => Sys2Proof.Machine.execDebugStop scope id s
  | .debugResume g => Sys2Proof.Machine.execDebugResume g s
  | .debugSingleStep g lane => Sys2Proof.Machine.execDebugSingleStep g lane s
  | .debugWrite g item idx lane v => Sys2Proof.Machine.execDebugWrite g item idx lane v s
  | .breakpointSet ctx n bp => Sys2Proof.Machine.execBreakpointSet ctx n bp s
  | .dieResetRequest die => Sys2Proof.Machine.execDieResetRequest die s
  | .samplerSet ctx period => Sys2Proof.Machine.execSamplerSet ctx period s
  | .fabricTopology routes err => Sys2Proof.Machine.execFabricTopology routes err s
  | .attestationQuote nonce => Sys2Proof.Machine.execAttestationQuote nonce s
  | .hostFlagWrite off bytes => Sys2Proof.Machine.execHostFlagWrite off bytes s
  | .hostBar2Read off len => Sys2Proof.Machine.execHostBar2Read off len s
  | .hostBar2Write off bytes => Sys2Proof.Machine.execHostBar2Write off bytes s
  | .pcieAtomicop off op width v c => Sys2Proof.Machine.execPcieAtomicop off op width v c s
  | .remoteRequest port tag ctx kind ptr v c => Sys2Proof.Machine.execRemoteRequest port tag ctx kind ptr v c s
  | .flitResend port => Sys2Proof.Machine.execFlitResend port s
  | .portDown port => Sys2Proof.Machine.execPortDown port s
  | .remoteTimeout g => Sys2Proof.Machine.execRemoteTimeout g s
  | .shootdown ctx obj => Sys2Proof.Machine.execShootdown ctx obj s
  | .relocation ctx obj tile target => Sys2Proof.Machine.execRelocation ctx obj tile target s
  | .relocationPublish ctx obj tile => Sys2Proof.Machine.execRelocationPublish ctx obj tile s
  | .recordRebuild ctx obj tile intact => Sys2Proof.Machine.execRecordRebuild ctx obj tile intact s
  | .scrub sector uncorrectable => Sys2Proof.Machine.execScrub sector uncorrectable s
  | .budgetPeriod die => Sys2Proof.Machine.execBudgetPeriod die s
  | .droopEvent die vat => Sys2Proof.Machine.execDroopEvent die vat s
  | .vatThermal die vat celsius => Sys2Proof.Machine.execVatThermal die vat celsius s
  | .pcSample ctx q => Sys2Proof.Machine.execPcSample ctx q s
  | .unassignedOpcode w => Sys2Proof.Machine.execUnassignedOpcode w s
  | .pktbad q => Sys2Proof.Machine.execPktbad q s
  | .writeAccepted g n => Sys2Proof.Machine.execWriteAccepted g n s
  | .queueCoreRestart => Sys2Proof.Machine.execQueueCoreRestart s
  | .ret => Sys2Proof.Machine.execRet s
  | .yield => Sys2Proof.Machine.execYield s
  | .halt => Sys2Proof.Machine.execHalt s
  | .nop => Sys2Proof.Machine.execNop s
  | .powerLoss => Sys2Proof.Machine.execPowerLoss s
  | .thermalShutdown => Sys2Proof.Machine.execThermalShutdown s
  | .firmwareRestart => Sys2Proof.Machine.execFirmwareRestart s
  | .powerOn => Sys2Proof.Machine.execPowerOn s

end Sys2Proof.Machine
end

