-- ==== Sys2Proof/Machine/Progress.lean ====
section
/-! DEFINITION. What the device does by itself when nothing else is asked of it: the order in which the model tries its own steps. Any
other order is an agenda. -/

namespace Sys2Proof.Machine

/-- A row of the opcode table that no instruction word stands for (R60). -/
def isEvent : Instr → Bool
  | .unassignedOpcode _ => false
  | i => (encode i).isNone

/-- A quarter with a run under way. -/
def nextRun (s : State) : Option Nat := (s.quarters.find? fun q => q.2.run.isSome).map Prod.fst

/-- Steps that a gang's outstanding work makes possible. -/
def gangEvents (g : Nat × Gang) : List Instr :=
  (g.2.pending.map fun p => .resultReturn g.1 p.ticket) ++
  ((List.range 4).map fun k => .counterReport g.1 k) ++
  ((List.range g.2.accesses.length).map fun n => .writeAccepted g.1 n) ++
  (g.2.copies.map fun c => .copyPiece g.1 c.ticket 0) ++
  (g.2.contribs.flatMap fun c => c.accs.map fun a => .redcContribution g.1 c.ticket a.lane) ++
  (g.2.remotes.map fun r => .remoteWriteAck g.1 r.ticket) ++
  (if g.2.checkpoint.isSome then [.ckptCommit g.1] else []) ++
  ((g.2.park.filter fun p => decide (p.2 = .fetchWait)).map fun p => .instructionFetchFill g.1 p.1)

/-- CUs, first quarters and slots for clusters placed one after another, each on the vat that R292 gives it among some. -/
def findGroups (name : Nat) (x : Grid) (e : List W64) (cl : ToPlace → Nat) (vats : List (Nat × Nat)) :
    List (List ToPlace) → State → Option (List Nat × List Nat × List Nat)
  | [], _ => some ([], [], [])
  | bs :: rest, s => firstSome (fun (v : Nat × Nat) =>
      if !vatAllowed s x (vatFits s name e cl bs) v then none
      else (findPlaces name e cl (vatCus v.1 v.2) bs s).bind fun r =>
        (placeAll name e cl bs r.1 r.2.1 r.2.2 s).bind fun t =>
          (findGroups name x e cl vats rest t).map fun r' => (r.1 ++ r'.1, r.2.1 ++ r'.2.1, r.2.2 ++ r'.2.2)) vats

/-- What of a grid is placed next, with the dies it may go to: a saved block, or the whole of a cooperative grid, on any of them; else the
next block of each die's front end (R25, R291). -/
def nextPlaced (s : State) (x : Grid) : List (Nat × List Nat) :=
  match x.saved.find? fun b => b.wait.isNone with
  | some b => [(if b.task then ihBlocks x.header + b.index else b.index, gridDies x)]
  | none =>
    if x.coop then (x.unstarted.head?.map fun i => (i, gridDies x)).toList
    else (gridDies x).filterMap fun d => (frontNext s x d).map fun i => (i, [d])

/-- Placements of what of a grid comes next (R25, R291, R292). -/
def placeEvents (s : State) (g : Nat × Grid) : List Instr :=
  (nextPlaced s g.2).filterMap fun n => match together s g.2 n.1, startEntry s g.2 with
    | some bs, some e =>
      let cl := clusterName s.fresh g.2
      let s0 := { s with fresh := s.fresh + 2 + ihBlocks g.2.header }
      (findGroups g.1 g.2 e cl (vatsOf n.2) (clusterGroups cl bs) s0).map fun r => .blockPlace g.1 n.1 r.1 r.2.1 r.2.2
    | _, _ => none

/-- Steps of the queue cores: the served queue's next packet, and the words that waiting queues wait for (R276, R278). -/
def queueEvents (s : State) : List Instr :=
  (match servedQueue s with
    | none => []
    | some q => [.handler q, .pktbad q, .queueNop q, .resume q, .signal q, .waitv q, .writev q, .flushc q, .resync q]) ++
  (s.queues.filter fun q => q.2.state == 2).map fun q => .waitvRecheck q.1

/-- Dispatch of waiting tasks into free shadow slots (R290). -/
def taskEvents (s : State) : List Instr :=
  let spilled := s.contexts.any fun x => !x.2.taskSpilled.isEmpty
  let cus := if spilled then List.range 192 else (s.cus.filter fun c => !c.2.tasks.isEmpty).map Prod.fst
  (s.cus.flatMap fun c => (List.range c.2.shadows.length).map fun k => .taskRunnable c.1 k) ++
  cus.flatMap fun c => (List.range 4).filterMap fun q =>
    (firstFrom (fun k => !(slotsUsed s (4 * c + q)).contains k) 16 0).map fun k => .taskDispatch c q k

/-- What the work distributor, the firmware's engines and the sequencers do. -/
def engineEvents (s : State) : List Instr :=
  (s.gangs.flatMap fun g => [.gangEnd g.1] ++ if g.2.xferPend then [.transferSequence g.1] else []) ++
  (s.blocks.flatMap fun b => (List.range 4).map fun q => .claimGrant b.1 q) ++
  taskEvents s ++ (s.grids.flatMap fun g => [.gridEnd g.1]) ++ s.grids.flatMap (placeEvents s) ++ queueEvents s ++
  (s.publishing.map fun p => .shootdown p.1 p.2) ++ (s.moves.map fun m => .relocationPublish m.ctx m.obj m.tile) ++
  (s.rebuilds.map fun b => .recordRebuild b.ctx b.obj b.tile true) ++
  ((s.cus.filter fun c => c.2.emergency.isSome).map fun c => .emergencyCopyOut c.1) ++
  (s.dies.filter fun d => !d.2.waiting.isEmpty).map fun d => .budgetPeriod d.1

/-- The device's own steps, in the order the model tries them. -/
def ownEvents (s : State) : List Instr :=
  (((s.gangs.map fun g => g.2.qKey).eraseDups).map fun q => .runArbitration q) ++
  (s.quarters.map fun q => .matrixExecute q.1) ++
  (s.cus.map fun c => .replaySlotFree c.1) ++
  s.gangs.flatMap gangEvents ++ engineEvents s

end Sys2Proof.Machine
end

