-- ==== Sys2Proof/Machine/Step.lean ====
section
/-! DEFINITION. One step of the package: the next turn of the agenda, or the next instruction of the quarter in focus, or what the
device does by itself (R20 to R24). -/

namespace Sys2Proof.Machine

/-- The next instruction of a quarter's run is fetched, issued and counted. -/
def issueStep (q : Nat) (s : State) : Host.Outcome State Fault Refusal :=
  match fetchNext { s with cur := none } q with
  | .idle t => .next t
  | .slot t iss => match exec (issued iss.iword) { t with cur := some iss } with
    | .next u => .next (afterIssue q iss u)
    | .fault f => .fault f
    | .refused r => .refused r

/-- The first of some steps that changes the machine. -/
def firstChange (s : State) : List Instr → Host.Outcome State Fault Refusal
  | [] => .next s
  | i :: rest => match exec i s with
    | .next t => if t = s then firstChange s rest else .next t
    | o => o

/-- One step, when no block is to be switched out. A run that stalls at a full matrix queue (R162) leaves the step to what the device does
by itself. -/
def stepNow (s : State) : Host.Outcome State Fault Refusal :=
  match s.agenda with
  | .event i :: rest =>
    if isEvent i then exec i { s with agenda := rest, cur := none } else .next { s with agenda := rest, cur := none }
  | .issue q :: rest => issueStep q { s with agenda := rest, focus := some q }
  | .miss q :: rest => .next (fetchMiss { s with agenda := rest, cur := none } q)
  | .upset u :: rest => .next (applyUpset u { s with agenda := rest, cur := none })
  | [] => match s.focus with
    | some q => issueStep q s
    | none => match nextRun s with
      | some q => match issueStep q { s with focus := some q } with
        | .next t => if t = s then firstChange { s with cur := none } (ownEvents s) else .next t
        | o => o
      | none => firstChange { s with cur := none } (ownEvents s)

/-- What comes before anything else: the save of a block whose gang met NOTRES in switch-out mode (R373), and a recovery whose image has
become resident (R383). -/
def urgent (s : State) : Option State := (switchOutNext s).or (recoverNext s)

/-- One step. -/
def step (s : State) : Host.Outcome State Fault Refusal :=
  match urgent s with
  | some t => .next t
  | none => stepNow s

/-- Memory with bytes from an address on, for a program loaded from outside. -/
def loadBytes (s : State) (a : Nat) (bs : List Byte) : State := { s with mem := writeBytes s.mem a bs }

/-- An object record of a code object of one residency tile (R186, R201), with its tile map at an address. -/
def codeRecord (tmap : Nat) : List W64 :=
  [word (2 ^ 29 + 2 ^ 14), word (2 ^ 32 + 65536), word (2 ^ 32 + 1), 0, 0, 0, 0, word tmap, word (2 ^ 32), 0, 0, 0, 0, 0, 0, 0]

/-- A gang as withFetchWord loads it: 32 lanes at slot 1 of the first packet of code object 1, every register 0 and full. -/
def loadedGang : Gang where
  block := 0
  die := 0
  cu := 0
  quarter := 0
  slot := 0
  ctx := 1
  grid := 0
  prio := 0
  special := ⟨0, [0, 0, 0], [0, 0, 0], [1, 1, 1], [1, 1, 1], 0, 0, 32, 32⟩
  v := []
  sreg := []
  p := []
  mode := 0x1F
  wb := 0
  lrow := 0
  nrows := 112
  wsize := 112
  cb := []
  pc := laneNumbers.map fun l => (l, ownPtr 1 + 4)
  exited := 0
  halted := 0
  haltReason := []
  park := []
  gstat := 0
  tcause := 0
  tpc := 0
  tlanes := 0
  tmask := 0
  handlerLanes := 0
  kc := []
  books := []
  harp := []
  spill := 0
  vtab := 0
  bound := []
  boundOut := []
  pending := []
  accesses := []
  copies := []
  counted := []
  remotes := []
  contribs := []
  checkpoint := none
  perf := []
  armed := none
  sampled := []
  lastLane := none
  waited := 0
  promoted := none
  arrivedBars := []
  arrivedCbars := []
  killed := false
  rendezvous := none
  debugStop := false
  stepOne := none
  carried := none
  exitPc := 0
  sequencing := false

/-- The block of the loaded gang: 16 tiles on each quarter and 64 KiB of scratchpad. -/
def loadedBlock : Block :=
  ⟨0, 1, 0, 0, 0, 0, 0, 0, [0], 65536, 16, [], [], [], [], [], [], [], [], false, false⟩

/-- The context of the loaded gang: system privilege, and an object table of 64 records at address 0x10000. -/
def loadedContext : Context :=
  ⟨1, true, 0, 0, 0, 0, 0, 0, 0x10000, 64, 0, [], 0, 0, [], 0, [], 0, false, none⟩

/-- The machine with one instruction word loaded where step fetches next: slot 1 of the first packet of code object 1, with a gang of
one block standing there whose run is under way. It stands for a program loaded from outside and resumed. -/
def State.withFetchWord (s : State) (nbits w : Nat) : State :=
  let s1 := loadBytes s 0x10080 (wordsBytes (codeRecord 0x20000))
  let s2 := loadBytes s1 0x20000 (w64Bytes (word (2 ^ 56 + 3 * 2 ^ 16 + 65535)))
  let s3 := loadBytes s2 0x30000 (natBytes 4 0 ++ wordBytes (BitVec.ofNat 32 (w % 2 ^ nbits)))
  { s3 with
    agenda := []
    focus := some 0
    cur := none
    gangs := [(0, loadedGang)]
    blocks := [(0, loadedBlock)]
    clusters := [(0, ⟨0, [0], [], []⟩)]
    contexts := [(1, loadedContext)]
    quarters := [(0, ⟨some ⟨0, allLanes, 0, none⟩, [], 0, [], 0⟩)]
    cus := []
    dies := []
    poison := []
    rebuilds := []
    recoveries := [] }

end Sys2Proof.Machine
end

