-- ==== Sys2Proof/Safety.lean ====
section
/-! DEFINITION. What counts as a safe run, and the vocabulary of the statements: when an instruction issues, what it reads, what it
leaves as it was. -/

namespace Sys2Proof.Machine

/-- The memories keep their canonical form. -/
def MemoryOk (s : State) : Prop := Memory.wf s.mem = true ∧ Memory.wf s.hostMem = true

/-- A step answers a next state: the machine does not stop. -/
def Runs (s : State) : Prop := ∃ t, step s = .next t

/-- A run of n steps that never stops and keeps memory canonical. -/
def SafeRun : Nat → State → Prop
  | 0, s => MemoryOk s
  | n + 1, s => MemoryOk s ∧ ∃ t, step s = .next t ∧ SafeRun n t

/-- Instruction i issues for a strand that finds e: it passes the checks that R62 makes of every instruction. -/
def Issues (i : Instr) (s : State) (e : Env) : Prop := envOf s = some e ∧ verdict e (operands e i) = .go

/-- Every byte of memory reads as before. -/
def SameMemory (s t : State) : Prop := ∀ k, coherent t k = coherent s k

/-- Sub-element j of register field a in lane l, as the integer that MODE makes of it (R88). -/
def elemOf (e : Env) (a : BitVec 7) (l j : Nat) : Int := elemInt e.mode (sub (e.rd a l) j (modeW e.mode))

/-- Sub-element j of register field a in lane l, as bits. -/
def bitsOf (e : Env) (a : BitVec 7) (l j : Nat) : Nat := sub (e.rd a l) j (modeW e.mode)

/-- The float in sub-element j of register field a in lane l, flushed under MODE.ftz (R113). -/
def floatOf (e : Env) (a : BitVec 7) (l j : Nat) : Val :=
  sourceVal (modeFtz e.mode) (modeFormat e.mode) (sub (e.rd a l) j (modeFormat e.mode).width)

/-- The lanes of the strand advance to the next slot, and no other lane moves (R46). -/
def Advances (e : Env) (g : Gang) : Prop :=
  ∀ l < 32, g.pcOf l = if lane e.strand l then nextSlot (e.g.pcOf l) else e.g.pcOf l

/-- The window register of key k is not register field d of an active lane. -/
def OutsideV (e : Env) (d : BitVec 7) (k : Nat) : Prop :=
  112 ≤ d.toNat ∨ ∀ l < 32, lane e.active l = true → k ≠ e.g.vKey d.toNat l

/-- The uniform register of index r is not register field d. -/
def OutsideS (e : Env) (d : BitVec 7) (r : Nat) : Prop := d.toNat < 112 ∨ e.active = 0 ∨ r ≠ d.toNat - 112

/-- Registers but for register field d of the active lanes are as g0 has them. -/
def KeepsRegs (e : Env) (d : BitVec 7) (g0 g : Gang) : Prop :=
  (∀ k, OutsideV e d k → getAt Reg.zero g.v k = getAt Reg.zero g0.v k) ∧
  ∀ r, OutsideS e d r → getAt Reg.zero g.sreg r = getAt Reg.zero g0.sreg r

/-- Of the performance counters only those of rows moved to L1 and back have changed (R76, R341). -/
def OnlyRowsCount (g0 g : Gang) : Prop := ∀ k, k ≠ 5 → k ≠ 6 → getAt 0 g.perf k = getAt 0 g0.perf k

/-- A gang after an instruction that writes register field d with value f l in each active lane l, or once to an s register (R53, R54,
R88, R413): the value is there, full; the strand advances; of the rest only the instruction's reads and, in a compatibility kernel,
the binding of the written row (R76) show. -/
def Wrote (e : Env) (i : Instr) (d : BitVec 7) (f : Nat → W64) (g : Gang) : Prop :=
  g = { reads e i with v := g.v, sreg := g.sreg, pc := g.pc, bound := g.bound, boundOut := g.boundOut, perf := g.perf } ∧
  OnlyRowsCount (reads e i) g ∧ Advances e g ∧
  (∀ l < 32, lane (resultLanes e d) l = true → g.reg d.toNat l = ⟨f l, .full⟩) ∧
  KeepsRegs e d (reads e i) g

/-- Instruction i answers the state in which its gang has written register field d with values that meet R, and nothing else of the
machine has changed: no byte of memory, no other gang, no special register. -/
def RegResult (s : State) (e : Env) (i : Instr) (d : BitVec 7) (R : Nat → W64 → Prop) : Prop :=
  ∃ f g, exec i s = .next (s.setGang e.id g) ∧ Wrote e i d f g ∧ ∀ l < 32, lane (resultLanes e d) l = true → R l (f l)

/-- As RegResult, but the sub-elements of MODE.et's width are given as integers, wrapped (R88). -/
def IntResult (s : State) (e : Env) (i : Instr) (d : BitVec 7) (F : Nat → Nat → Int) : Prop :=
  RegResult s e i d fun l v => ∀ j < perReg e.mode, sub v j (modeW e.mode) = wrapTo (modeW e.mode) (F l j)

/-- As RegResult, but bit k of each sub-element is given. -/
def BitResult (s : State) (e : Env) (i : Instr) (d : BitVec 7) (F : Nat → Nat → Nat → Bool) : Prop :=
  RegResult s e i d fun l v => ∀ j < perReg e.mode, ∀ k < modeW e.mode, (sub v j (modeW e.mode)).testBit k = F l j k

/-- As RegResult, with the ARITH records of the conditions that the result lanes meet (R114): the machine is as if the gang had
written, with these records appended. -/
def LoggedResult (s : State) (e : Env) (i : Instr) (d : BitVec 7) (R : Nat → Result → Prop) : Prop :=
  ∃ (f : Nat → Result) (g : Gang),
    exec i s = .next (logArith (s.setGang e.id g) e.id e.iss.pc e.active e.mode (causesOf (resultLanes e d) f)) ∧
    Wrote e i d (fun l => (f l).1) g ∧ ∀ l < 32, lane (resultLanes e d) l = true → R l (f l)

/-- The lane whose result an active lane takes: its own, or under U = 1 the lowest active lane's (R54, R104). -/
def sourceLane (e : Env) (l : Nat) : Nat := if e.u then lowestLane e.active else l

/-- Instruction i answers the state in which predicate p holds in an active lane exactly when T says so of its source lane, and
nothing else of the machine has changed; a write of p31 is discarded (R56). -/
def PredResult (s : State) (e : Env) (i : Instr) (p : Nat) (T : Nat → Prop) : Prop :=
  ∃ g, exec i s = .next (s.setGang e.id g) ∧ g = { reads e i with p := g.p, pc := g.pc } ∧ Advances e g ∧
    (p = 31 → g.p = e.g.p) ∧ (∀ q, q ≠ p → g.pred q = e.g.pred q) ∧
    (p < 24 → ∀ l < 32, (lane (g.pred p) l = true ↔
      if lane e.active l = true then T (sourceLane e l) else lane (e.g.pred p) l = true))

/-- The width of MODE's float elements (R113). -/
def floatW (e : Env) : Nat := (modeFormat e.mode).width

/-- As LoggedResult, each float element being RoundTo of a value, with the conditions of that value and of its rounding (R113, R114). -/
def FloatResult (s : State) (e : Env) (i : Instr) (d : BitVec 7) (F : Nat → Nat → Val × List Cause) : Prop :=
  LoggedResult s e i d fun l r =>
    (∀ j < 64 / floatW e, sub r.1 j (floatW e) = (roundMode e.mode (F l j).1).1) ∧
    ∀ c, c ∈ r.2 ↔ ∃ j < 64 / floatW e, c ∈ (F l j).2 ∨ c ∈ (roundMode e.mode (F l j).1).2

/-- A gang after a long-latency instruction into register field d: the register is empty in each result lane, owed by ticket t; if any
lane is, one result waits, which will bring f l to lane l; the strand advances (R53, R77). -/
def Owed (e : Env) (i : Instr) (d : BitVec 7) (t : Nat) (f : Nat → W64) (g : Gang) : Prop :=
  g = { reads e i with v := g.v, sreg := g.sreg, pc := g.pc, bound := g.bound, boundOut := g.boundOut, perf := g.perf,
                       pending := g.pending } ∧
  OnlyRowsCount (reads e i) g ∧ Advances e g ∧
  (∀ l < 32, lane (resultLanes e d) l = true → (g.reg d.toNat l).st = .empty t) ∧
  KeepsRegs e d (reads e i) g ∧
  g.pending = e.g.pending ++ (if resultLanes e d = 0 then [] else [pendingFor e t (resultLanes e d) d.toNat f])

/-- Instruction i marks register field d empty and owes it the values f, with conditions that meet R (R114, R123). -/
def LongResult (s : State) (e : Env) (i : Instr) (d : BitVec 7) (R : Nat → Result → Prop) : Prop :=
  ∃ (f : Nat → Result) (g : Gang),
    exec i s = .next (logArith (({ s with fresh := s.fresh + 1 } : State).setGang e.id g) e.id e.iss.pc e.active e.mode
      (causesOf (resultLanes e d) f)) ∧
    Owed e i d s.fresh (fun l => (f l).1) g ∧ ∀ l < 32, lane (resultLanes e d) l = true → R l (f l)

/-- v is the reduction of the terms xs under operation op, as R133 defines it: the exact sum rounded or wrapped once, the least or
greatest term, or the bitwise combination of all of them. -/
def Reduced (m : W32) (op : Nat) (xs : List Nat) (v : Nat) : Prop :=
  let vs := xs.map (sourceVal (modeFtz m) (modeFormat m))
  match op with
  | 0 => v = if modeEc m = 2 then (roundMode m (sumVals (modeRm m) vs)).1 else wrapTo (modeW m) (xs.map (elemInt m)).sum
  | 1 => if modeEc m = 2 then v = (roundMode m (vs.foldl minVal .nan)).1
    else ∃ x ∈ xs, v = wrapTo (modeW m) (elemInt m x) ∧ ∀ y ∈ xs, elemInt m x ≤ elemInt m y
  | 2 => if modeEc m = 2 then v = (roundMode m (vs.foldl maxVal .nan)).1
    else ∃ x ∈ xs, v = wrapTo (modeW m) (elemInt m x) ∧ ∀ y ∈ xs, elemInt m y ≤ elemInt m x
  | 3 => ∀ k < modeW m, v.testBit k = xs.all fun x => x.testBit k
  | 4 => ∀ k < modeW m, v.testBit k = xs.any fun x => x.testBit k
  | _ => ∀ k < modeW m, (v.testBit k = true ↔ (xs.filter fun x => x.testBit k).length % 2 = 1)

/-- Sub-element j of register field a in the lanes of a mask, lane after lane. -/
def termsOf (e : Env) (a : BitVec 7) (m : Mask) (j : Nat) : List Nat := (lanesOf m).map fun l => bitsOf e a l j

/-- Element n of register field a across the domain of lane l (R129). -/
def elementOf (e : Env) (a : BitVec 7) (l n : Nat) : Nat := bitsOf e a (physLane e.g l (n / perReg e.mode)) (n % perReg e.mode)

/-- Of the machine only gang id has changed, to g, and which instruction and run go on. -/
def OnlyGang (s t : State) (id : Nat) (g : Gang) : Prop :=
  t = { s.setGang id g with quarters := t.quarters, focus := t.focus, cur := t.cur }

/-- The lanes of the strand stand at the given PCs, and no other lane has moved. -/
def PcsAre (e : Env) (f : Nat → W64) (g : Gang) : Prop :=
  ∀ l < 32, g.pcOf l = if lane e.strand l then f l else e.g.pcOf l

/-- Under protected launch mode both copies of each logical lane of the strand agree on f (R377). -/
def CopiesAgree (e : Env) (m : Mask) {α : Type} (f : Nat → α) : Prop :=
  e.g.prot = true → ∀ k < 16, lane m (2 * k) = true → lane m (2 * k + 1) = true → f (2 * k) = f (2 * k + 1)

/-- The strand's run goes on where all its lanes stand at one PC; otherwise it has split, and the runs of the gang end (R19, R20). -/
def RunGoesOn (s t : State) (e : Env) (g : Gang) : Prop :=
  (∀ l < 32, lane e.strand l = true → g.pcOf l = g.pcOf (lowestLane e.strand)) → t.quarters = s.quarters ∧ t.focus = s.focus

/-- The strand has entered a trap handler at offset o of its code object, with the trap state of a precise trap written (R84, R370). -/
def Entered (s t : State) (e : Env) (o : Nat) (code detail : Nat) (tl : Mask) : Prop :=
  ∃ g, OnlyGang s t e.id g ∧ t.cur = none ∧
    g = { e.g with pc := g.pc, park := g.park, tcause := g.tcause, tpc := e.iss.pc, tlanes := tl, tmask := 1,
                   handlerLanes := e.strand } ∧
    g.tcause = word32 (code + 2 ^ 7 + detail % 2 ^ 24 * 2 ^ 8) ∧ PcsAre e (fun l => withOff (e.g.pcOf l) o) g ∧
    ∀ l < 32, g.parkOf l = if lane e.strand l then .ready else e.g.parkOf l

/-- The lanes that issue a memory access do so where nothing of the gang is under way: no access on its way or held, no store that its
block or cluster has been shown, no sample, and room in the counters. Copies of a logical lane are active together (R376). -/
def Quiet (s : State) (e : Env) : Prop :=
  e.g.accesses = [] ∧ e.g.remotes = [] ∧ e.g.armed = none ∧ e.g.sampled = [] ∧ (∀ k < 4, e.g.kcOf k < 65535) ∧ shownTo s e.g = [] ∧
  (s.cu e.g.cuKey).replay = [] ∧ (s.cu e.g.cuKey).replayWait = [] ∧
  (e.g.prot = true → ∀ k < 16, lane e.active (2 * k) = lane e.active (2 * k + 1))

/-- Every performing lane's access passes its checks and lies, byte for byte, at the places pl in this device. -/
def Reaches (s : State) (e : Env) (acc : Nat → Access) (pl : Nat → List Place) : Prop :=
  ∀ l ∈ performers e, checkAccess s e.g (acc l) = .ok (pl l) ∧ (∀ p ∈ pl l, p.isRemote = false) ∧ (pl l).Nodup

/-- Both copies of every logical lane name the same access (R377). -/
def SameAccess (e : Env) (acc : Nat → Access) : Prop :=
  CopiesAgree e (e.active &&& ~~~e.g.helpers) fun l => ((acc l).ptr, (acc l).coords, (acc l).v0, (acc l).v1, (acc l).aop)

/-- The accesses of an instruction are on their way in gang g: the parts of each performing lane's access, lane after lane, each under a
name of its own, and before the later accesses of its strand (R138, R216, R228, R255). -/
def Underway (s : State) (e : Env) (acc : Nat → Access) (pl : Nat → List Place) (g : Gang) : Prop :=
  (g.accesses.map fun x => (x.acc, x.bytes, x.upper)) = (performers e).flatMap (fun l => accessParts (acc l) (pl l)) ∧
  ∀ n x, g.accesses[n]? = some x →
    x.ticket = s.fresh + 1 + n ∧ x.before = e.strand ∧ x.shown = none ∧ x.held = false ∧ x.clears = []

/-- A gang after a load-like instruction: its n l destination registers from field d on are empty in each performing lane and its
copy, a helper's are 0, its accesses are on their way, and the strand goes on (R17, R77, R224, R228, R229). -/
def Loaded (s : State) (e : Env) (i : Instr) (d : Nat) (n : Nat → Nat) (acc : Nat → Access) (pl : Nat → List Place) (g : Gang) : Prop :=
  g = { reads e i with v := g.v, pc := g.pc, bound := g.bound, boundOut := g.boundOut, perf := g.perf, accesses := g.accesses } ∧
  OnlyRowsCount (reads e i) g ∧ Advances e g ∧
  (∀ l < 32, lane e.active l = true → lane e.g.helpers l = true → g.reg d l = ⟨0, .full⟩) ∧
  (∀ l ∈ performers e, ∀ m ∈ e.g.copyLanes l, ∀ j < n l, (g.reg (d + j) m).st = .empty s.fresh) ∧
  (∀ k, (∀ l ∈ performers e, ∀ m ∈ e.g.copyLanes l, ∀ j < n l, k ≠ e.g.vKey (d + j) m) →
    (∀ l < 32, lane e.active l = true → lane e.g.helpers l = true → ∀ j < n l, k ≠ e.g.vKey (d + j) l) →
    getAt Reg.zero g.v k = getAt Reg.zero (reads e i).v k) ∧
  Underway s e acc pl g

/-- Instruction i sends the loads acc to the places pl; no byte of memory changes. -/
def LoadsBegin (s : State) (e : Env) (i : Instr) (d : Nat) (n : Nat → Nat) (acc : Nat → Access) (pl : Nat → List Place) : Prop :=
  ∃ t g, exec i s = .next t ∧ t = { s.setGang e.id g with fresh := t.fresh } ∧ SameMemory s t ∧ Loaded s e i d n acc pl g

/-- Instruction i leaves its stores on their way, its gang being g0 but for them: for each place the byte of the highest lane that writes
there, and memory is as before until they are performed (R216, R227, R255). -/
def StoresPend (s : State) (e : Env) (i : Instr) (g0 : Gang) (acc : Nat → Access) (pl : Nat → List Place) : Prop :=
  ∃ t g, exec i s = .next t ∧ t = { s.setGang e.id g with fresh := t.fresh } ∧ SameMemory s t ∧ Advances e g ∧
    g = { g0 with pc := g.pc, accesses := g.accesses } ∧
    (∀ x ∈ g.accesses, x.acc.ticket = s.fresh ∧ x.acc.kind = .store ∧ x.acc.release = (acc 0).release ∧ x.acc.scope = (acc 0).scope ∧
      x.before = e.strand ∧ x.shown = none ∧ x.held = false) ∧
    (∀ l ∈ performers e, ∀ (j : Nat) p, (pl l)[j]? = some p → p ≠ .zero → (∀ m ∈ performers e, l < m → p ∉ pl m) → j < 16 →
      let b := if j < 8 then byteAt (acc l).v0 j else byteAt (acc l).v1 (j - 8)
      (∃ x ∈ g.accesses, (p, b) ∈ x.bytes) ∧ ∀ x ∈ g.accesses, ∀ c, (p, c) ∈ x.bytes → x.acc.lane = l ∧ c = b) ∧
    ∀ x ∈ g.accesses, ∀ y ∈ x.bytes, y.1 ≠ .zero ∧ ∃ l ∈ performers e, y.1 ∈ pl l

/-- A gang's access x is the n-th of those on their way, none before it keeps it from being performed, and nothing else of the gang waits
for it: no other part of its lane, no sample. -/
def Performs (s : State) (id n : Nat) (g : Gang) (x : Waiting) : Prop :=
  s.gang? id = some g ∧ g.accesses[n]? = some x ∧ (g.accesses.map Waiting.ticket).Nodup ∧
  mayPerform s g (g.accesses.take n) x = true ∧ g.sampled = [] ∧
  ∀ y ∈ x.bytes, y.1.isRemote = false

/-- The gang without an access that has been performed. -/
def without (g : Gang) (x : Waiting) : Gang := { g with accesses := g.accesses.filter fun y => y.ticket != x.ticket }

/-- No L1 may return for a place another value than the memories hold, and no store shown to gang g has one (R208, R259). -/
def Settled (s : State) (g : Gang) (p : Place) : Prop :=
  stalePlace s g.cuKey p = none ∧ shownByte (shownTo s g) p = none

/-- Gang g' is g after its access x has brought the words ws back: the registers of x's lane that still wait for it hold them, in turn for
each copy, and nothing else has changed (R53, R77, R152, R228). -/
def Fills (g : Gang) (x : Waiting) (ws : List W64) (g' : Gang) : Prop :=
  g' = { without g x with v := g'.v } ∧
  (∀ i k : Nat, x.acc.dests[i]? = some k → lane g.exited (k % 32) = false → (getAt Reg.zero g.v k).st = .empty x.acc.ticket →
    getAt Reg.zero g'.v k = ⟨ws.getD (i % ws.length) 0, .full⟩) ∧
  ∀ k, (k ∉ x.acc.dests ∨ lane g.exited (k % 32) = true ∨ (getAt Reg.zero g.v k).st ≠ .empty x.acc.ticket) →
    getAt Reg.zero g'.v k = getAt Reg.zero g.v k

/-- A place where a byte stays as it is written: HBM; the flag window and ordered host memory, which no L2 holds; other host memory; the
scratchpad of a resident block (R204, R208, R219, R220). -/
def Writable (s : State) : Place → Prop
  | .phys k => inHbm k = true ∨ (inFlags k = true ∧ ∀ y ∈ s.dies, find y.2.l2 k = none)
  | .host ba ord => ord = false ∨ ∀ y ∈ s.dies, find y.2.l2 (hostKey ba) = none
  | .spad b _ => (s.block? b).isSome = true
  | _ => False

/-- The bytes bs stand at their places, and every other byte of memory and of the scratchpads, among the locations that P admits, is as
before. -/
def StoredAs (s t : State) (bs : List (Place × Byte)) (P : Key → Prop) : Prop :=
  (∀ b ∈ bs, (∀ k ord, b.1.key = some (k, ord) → P k) → byteNow t b.1 = b.2) ∧
  (∀ k, P k → (∀ b ∈ bs, b.1.key.map Prod.fst ≠ some k) → coherent t k = coherent s k) ∧
  ∀ blk off, .spad blk off ∉ bs.map Prod.fst → byteNow t (.spad blk off) = byteNow s (.spad blk off)

/-- No two bytes of a list lie at one place. -/
def Apart (bs : List (Place × Byte)) : Prop :=
  (bs.map Prod.fst).Nodup ∧ (bs.filterMap fun b => b.1.key.map Prod.fst).Nodup

/-- The Rennet of the variable at v has room to take it in, and no other holds it; no Rind range is designated (R213, R214). -/
def RennetTakes (s : State) (v : Key) : Prop :=
  s.rind = [] ∧ (s.die (homeDie v)).rennet.length < rennetRoom (s.die (homeDie v)) false ∧ (s.die (homeDie v)).overflow = [] ∧
    ∀ y ∈ s.dies, y.1 ≠ homeDie v → find y.2.rennet v = none ∧ find y.2.overflow v = none

/-- The memories keep their canonical form, dies, gangs and CUs stand in order, a Rennet holds aligned variables (R213), and a byte is
dirty in one L2 at most (R209). -/
def Tidy (s : State) : Prop :=
  MemoryOk s ∧ rising s.dies = true ∧ rising s.gangs = true ∧ rising s.cus = true ∧ (∀ d ∈ s.dies, rising d.2.l2 = true) ∧
  (∀ d ∈ s.dies, ∀ e ∈ d.2.rennet ++ d.2.overflow, e.1 % 8 = 0) ∧
  ∀ k, ∀ a ∈ s.dies, ∀ b ∈ s.dies, (find a.2.l2 k).isSome = true → (find b.2.l2 k).isSome = true → a.1 = b.1

/-- No mirrored Rind range keeps its copy of some byte at k (R215). -/
def NotMirror (s : State) (k : Nat) : Prop := ∀ j, mirrorOf s.rind j ≠ some k

/-- Instruction i is accepted by the matrix queue of its quarter (R162): an entry that meets P is last in the queue, KC1 counts it, the
destination fields are empty until it completes, and the strand goes on. -/
def Accepted (s : State) (e : Env) (i : Instr) (fields : List Nat) (P : MatrixOp → Prop) : Prop :=
  ∃ g op, exec i s = .next { ((s.setQuarter e.g.qKey { s.quarter e.g.qKey with matrix := (s.quarter e.g.qKey).matrix ++ [op] }).setGang
      e.id g) with fresh := s.fresh + 1 } ∧ Advances e g ∧
    g = { reads e i with v := g.v, pc := g.pc, bound := g.bound, boundOut := g.boundOut, kc := g.kc, counted := g.counted, perf := g.perf } ∧
    g.kcOf 1 = e.g.kcOf 1 + 1 ∧ g.counted = e.g.counted ++ [⟨1, s.fresh, false⟩] ∧
    (∀ l < 32, lane e.active l = true → ∀ f ∈ fields, (g.reg f l).st = .empty s.fresh) ∧
    (∀ k, (∀ l < 32, lane e.active l = true → ∀ f ∈ fields, k ≠ e.g.vKey f l) →
      getAt Reg.zero g.v k = getAt Reg.zero (reads e i).v k) ∧
    op.gang = e.id ∧ op.block = e.g.block ∧ op.ticket = s.fresh ∧ op.mode = e.mode ∧ op.wb = e.g.wb ∧ op.pc = e.iss.pc ∧ P op

/-- The queue of a quarter performs op, its oldest entry, for a live gang g of a block b (R162). -/
def AtHead (s : State) (q : Nat) (op : MatrixOp) (rest : List MatrixOp) (g : Gang) (b : Block) : Prop :=
  (s.quarter q).matrix = op :: rest ∧ s.gang? op.gang = some g ∧ g.killed = false ∧ s.block? op.block = some b

/-- Performing the head of a quarter's queue leaves the block's accumulator words f, and the entry is complete (R162). -/
def WritesTiles (s : State) (q : Nat) (op : MatrixOp) (rest : List MatrixOp) (g : Gang) (b : Block) (f : Nat → W32) : Prop :=
  ∃ c, exec (.matrixExecute q) s = .next (((s.setQuarter q { s.quarter q with matrix := rest }).onBlock op.block fun _ => c).setGang
      op.gang (completeOp g op.ticket)) ∧ c = { b with acc := c.acc } ∧ ∀ k, getAt 0 c.acc k = f k

/-- Table t takes a lane from state st to st' and digits of a and b to the digits of r', those not emitted staying as r has them:
digit by digit in the table's direction, every transition being valid (R308, R309, R310). -/
def Transduces (t : HarpTable) (flip keep : Bool) (st : Nat) (a b r : W64) (st' : Nat) (r' : W64) : Prop :=
  let w := hdWidth t.desc
  let n := 64 / w
  (∀ k < 64, w * n ≤ k → r'.getLsbD k = r.getLsbD k) ∧ ∃ q : Nat → Nat, q 0 = st ∧ q n = st' ∧ ∀ i < n,
    let p := if hdDown t.desc then n - 1 - i else i
    let y := if flip then 2 ^ w - 1 - sub b p w else sub b p w
    let x := getAt 0 t.trans (if hdUnary t.desc then q i * 2 ^ w + sub a p w else q i * 2 ^ (2 * w) + sub a p w * 2 ^ w + y)
    trValid x = true ∧ q (i + 1) = trNext x ∧
      sub r' p w = if trEmit x = true ∧ keep = false then trOut x % 2 ^ w else sub r p w

/-- The Harp states of a gang: f in the active lanes of context c, and no other changed. -/
def HarpStates (e : Env) (c : Nat) (f : Nat → Nat) (g : Gang) : Prop :=
  ∀ k < 4, ∀ l < 32, harpState g k l = if k = c ∧ lane e.active l = true then f l else harpState e.g k l

end Sys2Proof.Machine
end

