-- ==== Sys2Proof/Certificates/Slice0/Obligations.lean ====
section
/-! DEFINITION. The statements for the provers. -/

open Sys2Proof Sys2Proof.Machine

/-- R92, R94: the modular sums, differences and products of each pair of sub-elements, wrapped to the element width. -/
def Obligations.IntegerWrap : Prop := ∀ s e d a b (im : BitVec 16),
  (Issues (.iadd d a b) s e → IntResult s e (.iadd d a b) d fun l j => elemOf e a l j + elemOf e b l j) ∧
  (Issues (.isub d a b) s e → IntResult s e (.isub d a b) d fun l j => elemOf e a l j - elemOf e b l j) ∧
  (Issues (.imul d a b) s e → IntResult s e (.imul d a b) d fun l j => elemOf e a l j * elemOf e b l j) ∧
  (Issues (.imac d a b) s e →
    IntResult s e (.imac d a b) d fun l j => elemOf e d l j + elemOf e a l j * elemOf e b l j) ∧
  (Issues (.iabs d a) s e → IntResult s e (.iabs d a) d fun l j => ((elemOf e a l j).natAbs : Int)) ∧
  (Issues (.ineg d a) s e → IntResult s e (.ineg d a) d fun l j => -elemOf e a l j) ∧
  (Issues (.iaddi d im) s e → IntResult s e (.iaddi d im) d fun l j => elemOf e d l j + im.toInt) ∧
  (Issues (.imuli d im) s e → IntResult s e (.imuli d im) d fun l j => elemOf e d l j * im.toInt)

/-- R92: the saturating sums, the high half of a product, and the smaller and greater of two sub-elements. -/
def Obligations.IntegerClamp : Prop := ∀ s e d a b,
  (Issues (.iadds d a b) s e → IntResult s e (.iadds d a b) d fun l j =>
    max (intMin (modeEc e.mode != 0) (modeW e.mode))
      (min (intMax (modeEc e.mode != 0) (modeW e.mode)) (elemOf e a l j + elemOf e b l j))) ∧
  (Issues (.isubs d a b) s e → IntResult s e (.isubs d a b) d fun l j =>
    max (intMin (modeEc e.mode != 0) (modeW e.mode))
      (min (intMax (modeEc e.mode != 0) (modeW e.mode)) (elemOf e a l j - elemOf e b l j))) ∧
  (Issues (.imulh d a b) s e → IntResult s e (.imulh d a b) d fun l j =>
    (elemOf e a l j * elemOf e b l j).fdiv (2 ^ modeW e.mode)) ∧
  (Issues (.imin d a b) s e → IntResult s e (.imin d a b) d fun l j =>
    if elemOf e a l j ≤ elemOf e b l j then elemOf e a l j else elemOf e b l j) ∧
  (Issues (.imax d a b) s e → IntResult s e (.imax d a b) d fun l j =>
    if elemOf e a l j ≤ elemOf e b l j then elemOf e b l j else elemOf e a l j)

/-- R93: quotient and remainder. The quotient is rounded toward zero and the dividend is quotient × divisor + remainder, the
remainder smaller than the divisor and with the dividend's sign; a zero divisor and the signed overflow give what the rule's
table gives. A zero divisor in an active sub-element is the one condition met. -/
def Obligations.IntegerDivide : Prop := ∀ s e d a b,
  (Issues (.idiv d a b) s e → LoggedResult s e (.idiv d a b) d fun l r =>
    (r.2 = if ∃ j < perReg e.mode, bitsOf e b l j = 0 then [.divzero] else []) ∧
    ∀ j < perReg e.mode, ∃ q : Int, sub r.1 j (modeW e.mode) = wrapTo (modeW e.mode) q ∧
      (elemOf e b l j = 0 → q = -1) ∧
      (elemOf e b l j ≠ 0 → ∃ m : Int, elemOf e a l j = q * elemOf e b l j + m ∧ m.natAbs < (elemOf e b l j).natAbs ∧
        0 ≤ m * elemOf e a l j)) ∧
  (Issues (.irem d a b) s e → LoggedResult s e (.irem d a b) d fun l r =>
    (r.2 = if ∃ j < perReg e.mode, bitsOf e b l j = 0 then [.divzero] else []) ∧
    ∀ j < perReg e.mode, ∃ m : Int, sub r.1 j (modeW e.mode) = wrapTo (modeW e.mode) m ∧
      (elemOf e b l j = 0 → m = elemOf e a l j) ∧
      (elemOf e b l j ≠ 0 → ∃ q : Int, elemOf e a l j = q * elemOf e b l j + m ∧ m.natAbs < (elemOf e b l j).natAbs ∧
        0 ≤ m * elemOf e a l j))

/-- R95, R96: bit k of each shifted or rotated sub-element, for a shift amount up to and beyond the element width; the number of one
bits, the zero bits above the highest one and below the lowest one, and the reversal, of each sub-element. -/
def Obligations.ShiftsAndBitCounts : Prop := ∀ s e d a b (im : BitVec 6),
  (Issues (.shl d a b) s e → BitResult s e (.shl d a b) d fun l j k =>
    decide (bitsOf e b l j ≤ k) && (bitsOf e a l j).testBit (k - bitsOf e b l j)) ∧
  (Issues (.shr d a b) s e → BitResult s e (.shr d a b) d fun l j k =>
    decide (k + bitsOf e b l j < modeW e.mode) && (bitsOf e a l j).testBit (k + bitsOf e b l j)) ∧
  (Issues (.sar d a b) s e → BitResult s e (.sar d a b) d fun l j k =>
    (bitsOf e a l j).testBit (min (k + bitsOf e b l j) (modeW e.mode - 1))) ∧
  (Issues (.rotl d a b) s e → BitResult s e (.rotl d a b) d fun l j k =>
    (bitsOf e a l j).testBit ((k + modeW e.mode - bitsOf e b l j % modeW e.mode) % modeW e.mode)) ∧
  (Issues (.shli d a im) s e → BitResult s e (.shli d a im) d fun l j k =>
    decide (im.toNat ≤ k) && (bitsOf e a l j).testBit (k - im.toNat)) ∧
  (Issues (.shri d a im) s e → BitResult s e (.shri d a im) d fun l j k =>
    decide (k + im.toNat < modeW e.mode) && (bitsOf e a l j).testBit (k + im.toNat)) ∧
  (Issues (.sari d a im) s e → BitResult s e (.sari d a im) d fun l j k =>
    (bitsOf e a l j).testBit (min (k + im.toNat) (modeW e.mode - 1))) ∧
  (Issues (.popc d a) s e → RegResult s e (.popc d a) d fun l v => ∀ j < perReg e.mode,
    sub v j (modeW e.mode) = ((List.range (modeW e.mode)).filter fun k => (bitsOf e a l j).testBit k).length) ∧
  (Issues (.clz d a) s e → RegResult s e (.clz d a) d fun l v => ∀ j < perReg e.mode,
    sub v j (modeW e.mode) ≤ modeW e.mode ∧ bitsOf e a l j < 2 ^ (modeW e.mode - sub v j (modeW e.mode)) ∧
    (sub v j (modeW e.mode) < modeW e.mode →
      (bitsOf e a l j).testBit (modeW e.mode - 1 - sub v j (modeW e.mode)) = true)) ∧
  (Issues (.ctz d a) s e → RegResult s e (.ctz d a) d fun l v => ∀ j < perReg e.mode,
    sub v j (modeW e.mode) ≤ modeW e.mode ∧ bitsOf e a l j % 2 ^ sub v j (modeW e.mode) = 0 ∧
    (sub v j (modeW e.mode) < modeW e.mode → (bitsOf e a l j).testBit (sub v j (modeW e.mode)) = true)) ∧
  (Issues (.brev d a) s e → BitResult s e (.brev d a) d fun l j k =>
    (bitsOf e a l j).testBit (modeW e.mode - 1 - k))

/-- R97: the logic and move instructions act on all 64 bits, whatever MODE says of types. -/
def Obligations.WholeRegister : Prop := ∀ s e d a b (im : BitVec 16),
  (Issues (.and d a b) s e → RegResult s e (.and d a b) d fun l v => v = e.rd a l &&& e.rd b l) ∧
  (Issues (.or d a b) s e → RegResult s e (.or d a b) d fun l v => v = e.rd a l ||| e.rd b l) ∧
  (Issues (.xor d a b) s e → RegResult s e (.xor d a b) d fun l v => v = e.rd a l ^^^ e.rd b l) ∧
  (Issues (.andn d a b) s e → RegResult s e (.andn d a b) d fun l v => v = e.rd a l &&& ~~~e.rd b l) ∧
  (Issues (.not d a) s e → RegResult s e (.not d a) d fun l v => v = ~~~e.rd a l) ∧
  (Issues (.mov d a) s e → RegResult s e (.mov d a) d fun l v => v = e.rd a l) ∧
  (Issues (.andi d im) s e → RegResult s e (.andi d im) d fun l v => v = e.rd d l &&& im.setWidth 64) ∧
  (Issues (.ori d im) s e → RegResult s e (.ori d im) d fun l v => v = e.rd d l ||| im.setWidth 64) ∧
  (Issues (.xori d im) s e → RegResult s e (.xori d im) d fun l v => v = e.rd d l ^^^ im.setWidth 64)

/-- R98, R99, R100, R101: bit k of BFX and BFI for the field at pos of length n, byte j of BYTEP, the operand SEL takes, and the
pointer LEA forms. -/
def Obligations.FieldsAndSelection : Prop := ∀ s e d a b x,
  (Issues (.bfx d a b x) s e → RegResult s e (.bfx d a b x) d fun l v => ∀ k < 64,
    let pos := fld (e.rd b l) 5 0
    let n := min (min (fld (e.rd b l) 14 8) 64) (64 - pos)
    v.getLsbD k = if k < n then (e.rd a l).getLsbD (pos + k)
      else decide (n ≠ 0) && (x == 1) && (e.rd a l).getLsbD (pos + n - 1)) ∧
  (Issues (.bfi d a b) s e → RegResult s e (.bfi d a b) d fun l v => ∀ k < 64,
    let pos := fld (e.rd b l) 5 0
    let n := min (min (fld (e.rd b l) 14 8) 64) (64 - pos)
    v.getLsbD k = if pos ≤ k ∧ k < pos + n then (e.rd a l).getLsbD (k - pos) else (e.rd d l).getLsbD k) ∧
  (Issues (.bytep d a b) s e → RegResult s e (.bytep d a b) d fun l v => ∀ j < 8,
    sub v j 8 = if sub (e.rd b l) j 4 ≤ 7 then sub (e.rd a l) (sub (e.rd b l) j 4) 8
      else if sub (e.rd b l) j 4 = 15 then 255 else 0) ∧
  (Issues (.sel d a b x) s e → RegResult s e (.sel d a b x) d fun l v =>
    v = if lane (e.g.pred x.toNat) l then e.rd a l else e.rd b l) ∧
  (Issues (.lea d a b x) s e → RegResult s e (.lea d a b x) d fun l v =>
    fld v 63 36 = fld (e.rd a l) 63 36 ∧
    ((fld v 35 0 : Nat) : Int) = (fld (e.rd a l) 35 0 + (e.rd b l).toInt * 2 ^ x.toNat) % 2 ^ 36)

/-- R102, R103: an immediate sign-extended into a register, each 16-bit chunk replaced, and four byte products added into each
half. -/
def Obligations.ImmediatesAndDots : Prop := ∀ s e d a b (im : BitVec 16) x,
  (Issues (.movi d im) s e → RegResult s e (.movi d im) d fun _ v => v = im.signExtend 64) ∧
  (Issues (.movk0 d im) s e → RegResult s e (.movk0 d im) d fun l v => ∀ k < 4,
    v.extractLsb' (16 * k) 16 = if k = 0 then im else (e.rd d l).extractLsb' (16 * k) 16) ∧
  (Issues (.movk1 d im) s e → RegResult s e (.movk1 d im) d fun l v => ∀ k < 4,
    v.extractLsb' (16 * k) 16 = if k = 1 then im else (e.rd d l).extractLsb' (16 * k) 16) ∧
  (Issues (.movk2 d im) s e → RegResult s e (.movk2 d im) d fun l v => ∀ k < 4,
    v.extractLsb' (16 * k) 16 = if k = 2 then im else (e.rd d l).extractLsb' (16 * k) 16) ∧
  (Issues (.movk3 d im) s e → RegResult s e (.movk3 d im) d fun l v => ∀ k < 4,
    v.extractLsb' (16 * k) 16 = if k = 3 then im else (e.rd d l).extractLsb' (16 * k) 16) ∧
  (Issues (.dot4 d a b x) s e → RegResult s e (.dot4 d a b x) d fun l v => ∀ j < 2,
    let ea := fun k => intOf (x.getLsbD 0) 8 (sub (e.rd a l) (4 * j + k) 8)
    let eb := fun k => intOf (x.getLsbD 1) 8 (sub (e.rd b l) (4 * j + k) 8)
    let t := intOf (x == 3) 32 (sub (e.rd d l) j 32) + ea 0 * eb 0 + ea 1 * eb 1 + ea 2 * eb 2 + ea 3 * eb 3
    sub v j 32 = wrapTo 32 (if modeSat e.mode then
      max (intMin (x == 3) 32) (min (intMax (x == 3) 32) t) else t))

/-- R104: a comparison holds when it holds of every sub-element; ICMPI compares with its immediate, sign-extended under ec = 0. -/
def Obligations.IntegerComparisons : Prop := ∀ s e d a b im c,
  (Issues (.icmp d a b c) s e → PredResult s e (.icmp d a b c) d.toNat fun l => ∀ j < perReg e.mode,
    holds c.toNat (elemOf e a l j) (elemOf e b l j) = true) ∧
  (Issues (.icmpi d a im c) s e → PredResult s e (.icmpi d a im c) d.toNat fun l => ∀ j < perReg e.mode,
    holds c.toNat (elemOf e a l j) (if modeEc e.mode = 0 then im.toInt else im.toNat) = true)

/-- R105, R106, R107, R108, R109, R110: predicates computed from predicates, moved into registers and out of them, and combined over the
active lanes (over one copy's lanes under protected launch mode, R376); MODE's low and high half written whatever the guard says, and MODE
read. -/
def Obligations.PredicateAndModeInstructions : Prop := ∀ s e (d a b : BitVec 5) (t : BitVec 8) (r q : BitVec 7) (x : BitVec 2) (im : BitVec 16)
    (ih : BitVec 4),
  (Issues (.plop d a b t) s e → PredResult s e (.plop d a b t) d.toNat fun l =>
    t.getLsbD (4 * bitNat (lane (e.g.pred d.toNat) l) + 2 * bitNat (lane (e.g.pred a.toNat) l) +
      bitNat (lane (e.g.pred b.toNat) l)) = true) ∧
  (Issues (.p2v r q x) s e → x.toNat < 3 → RegResult s e (.p2v r q x) r fun l v => ∀ k < 64, v.getLsbD k =
    if x.toNat = 2 then decide (k < 24) && lane (e.g.pred k) l
    else lane (e.g.pred q.toNat) l && (decide (k = 0) || x == 1)) ∧
  (Issues (.v2p r q 0) s e → PredResult s e (.v2p r q 0) r.toNat fun l => e.rd q l ≠ 0) ∧
  (Issues (.v2p r q 1) s e → PredResult s e (.v2p r q 1) r.toNat fun l => (e.rd q l).getLsbD 0 = true) ∧
  (Issues (.v2p r q 2) s e → ∃ g, exec (.v2p r q 2) s = .next (s.setGang e.id g) ∧
    g = { reads e (.v2p r q 2) with p := g.p, pc := g.pc } ∧ Advances e g ∧
    ∀ k < 24, ∀ l < 32, lane (g.pred k) l = if lane e.active l then (e.rd q l).getLsbD k else lane (e.g.pred k) l) ∧
  (Issues (.vote r q 0) s e → PredResult s e (.vote r q 0) r.toNat fun l => ∀ m < 32,
    lane (peers e l) m = true → lane (e.g.pred q.toNat) m = true) ∧
  (Issues (.vote r q 1) s e → PredResult s e (.vote r q 1) r.toNat fun l => ∃ m < 32,
    lane (peers e l) m = true ∧ lane (e.g.pred q.toNat) m = true) ∧
  (Issues (.vote r q 2) s e → RegResult s e (.vote r q 2) r fun l v => ∀ k < 64,
    (v.getLsbD k = true ↔ ∃ m < 32, lane (peers e l) m = true ∧ lane (e.g.pred q.toNat) m = true ∧ domainOf e.g m = k)) ∧
  (Issues (.vote r q 3) s e → PredResult s e (.vote r q 3) r.toNat fun l => ∀ m < 32, ∀ n < 32,
    lane (peers e l) m = true → lane (peers e l) n = true →
    lane (e.g.pred q.toNat) m = lane (e.g.pred q.toNat) n) ∧
  (Issues (.setmode im) s e → ∃ g, exec (.setmode im) s = .next (s.setGang e.id g) ∧ Advances e g ∧
    g = { e.g with mode := g.mode, pc := g.pc } ∧
    g.mode.extractLsb' 0 16 = im ∧ g.mode.extractLsb' 16 16 = e.g.mode.extractLsb' 16 16) ∧
  (Issues (.setmodeh ih) s e → ∃ g, exec (.setmodeh ih) s = .next (s.setGang e.id g) ∧ Advances e g ∧
    g = { e.g with mode := g.mode, pc := g.pc } ∧
    g.mode.extractLsb' 0 16 = e.g.mode.extractLsb' 0 16 ∧ g.mode.extractLsb' 16 16 = ih.setWidth 16) ∧
  (Issues (.getmode r) s e → RegResult s e (.getmode r) r fun _ v => v = e.g.mode.setWidth 64)

/-- R116, R117, R118, R122: the arithmetic instructions form the exact result of their operands and round it once; the conditions
are those of the operands and of the rounding. FSCALE's exponent counts up to ±8,192, beyond which every format overflows or
vanishes. -/
def Obligations.FloatArithmetic : Prop := ∀ s e d a b,
  (Issues (.fadd d a b) s e → FloatResult s e (.fadd d a b) d fun l j =>
    addVal (modeRm e.mode) (floatOf e a l j) (floatOf e b l j)) ∧
  (Issues (.fsub d a b) s e → FloatResult s e (.fsub d a b) d fun l j =>
    addVal (modeRm e.mode) (floatOf e a l j) (floatOf e b l j).neg) ∧
  (Issues (.fmul d a b) s e → FloatResult s e (.fmul d a b) d fun l j =>
    (mulVal (floatOf e a l j) (floatOf e b l j), mulCauses (floatOf e a l j) (floatOf e b l j))) ∧
  (Issues (.fma d a b) s e → FloatResult s e (.fma d a b) d fun l j =>
    fmaVal (modeRm e.mode) (floatOf e a l j) (floatOf e b l j) (floatOf e d l j)) ∧
  (Issues (.fms d a b) s e → FloatResult s e (.fms d a b) d fun l j =>
    fmaVal (modeRm e.mode) (floatOf e a l j) (floatOf e b l j) (floatOf e d l j).neg) ∧
  (Issues (.fnma d a b) s e → FloatResult s e (.fnma d a b) d fun l j =>
    fmaVal (modeRm e.mode) (floatOf e a l j).neg (floatOf e b l j) (floatOf e d l j)) ∧
  (Issues (.fdiv d a b) s e → FloatResult s e (.fdiv d a b) d fun l j => divVal (floatOf e a l j) (floatOf e b l j)) ∧
  (Issues (.fsqrt d a) s e → FloatResult s e (.fsqrt d a) d fun l j => sqrtVal 60 (floatOf e a l j)) ∧
  (Issues (.fscale d a b) s e → FloatResult s e (.fscale d a b) d fun l j =>
    (if (floatOf e a l j).isZero then floatOf e a l j
      else scaleVal (max (-8192) (min 8192 (signedOf (floatW e) (sub (e.rd b l) j (floatW e))))) (floatOf e a l j), [])) ∧
  (Issues (.rnd d a) s e → FloatResult s e (.rnd d a) d fun l j => (integralVal (modeRm e.mode) (floatOf e a l j), [])) ∧
  (Issues (.fmin d a b) s e → FloatResult s e (.fmin d a b) d fun l j => (minVal (floatOf e a l j) (floatOf e b l j), [])) ∧
  (Issues (.fmax d a b) s e → FloatResult s e (.fmax d a b) d fun l j => (maxVal (floatOf e a l j) (floatOf e b l j), []))

/-- R39, R117, R118: what those exact results are. Sums, products and quotients of finite values are the rational ones, an exact zero
sum takes its sign from R39; the root's fraction is exact or strictly between its neighbours; FMIN and FMAX take an operand, and a NaN
gives way. -/
def Obligations.ExactFloatArithmetic : Prop := ∀ (rm : Nat) (a b : Bool) (n m d e : Nat), 0 < d → 0 < e →
  (∃ c p q, 0 < q ∧ (addVal rm (.fin a n d) (.fin b m e)) = (.fin c p q, []) ∧
    (if c then -(p : Int) else p) * ((d : Int) * e) =
      ((if a then -(n : Int) else n) * e + (if b then -(m : Int) else m) * d) * q ∧
    (p = 0 → c = if a = b then a else rm == 2)) ∧
  (∃ p q, 0 < q ∧ mulVal (.fin a n d) (.fin b m e) = .fin (a != b) p q ∧ p * (d * e) = n * m * q) ∧
  (m ≠ 0 → ∃ p q, 0 < q ∧ divVal (.fin a n d) (.fin b m e) = (.fin (a != b) p q, []) ∧ p * (d * m) = n * e * q) ∧
  (divVal (.fin a 0 d) (.fin b 0 e) = (.nan, [.invalid])) ∧
  (n ≠ 0 → divVal (.fin a n d) (.fin b 0 e) = (.inf (a != b), [.divzero])) ∧
  (n ≠ 0 → ∃ r q, 2 ^ 60 < q ∧ sqrtVal 60 (.fin false n d) = (.fin false r q, []) ∧
    (r * r * d = n * (q * q) ∨ 0 < r ∧ (r - 1) * (r - 1) * d < n * (q * q) ∧ n * (q * q) < (r + 1) * (r + 1) * d)) ∧
  (∀ x y, (minVal x y = x ∨ minVal x y = y) ∧ (maxVal x y = x ∨ maxVal x y = y) ∧
    minVal .nan x = x ∧ minVal x .nan = x ∧ maxVal .nan x = x ∧ maxVal x .nan = x) ∧
  (∀ x y, x.isNan = false → y.isNan = false → ltVal x (minVal x y) = false ∧ ltVal y (minVal x y) = false ∧
    ltVal (maxVal x y) x = false ∧ ltVal (maxVal x y) y = false)

/-- R39: a positive magnitude rounds toward zero to the greatest representable value not above it, and to nearest to a value whose
midpoints to its neighbours enclose it, a midpoint going to the even one. -/
def Obligations.RoundingIsExact : Prop := ∀ (f : Format) (num den : Nat), 0 < num → 0 < den →
  (let m := roundMag f 1 false num den
   (valAt f m).num * den ≤ num * (valAt f m).den ∧
   (num : Int) * (valAt f (m + 1 : Nat)).den < (valAt f (m + 1 : Nat)).num * den) ∧
  (let m := roundMag f 0 false num den
   let mid := fun (x y : Frac) => (x.num * (y.den : Int) + y.num * (x.den : Int), 2 * (x.den : Int) * (y.den : Int))
   let up := mid (valAt f m) (valAt f (m + 1 : Nat))
   ((num : Int) * up.2 < up.1 * den ∨ ((num : Int) * up.2 = up.1 * den ∧ m % 2 = 0)) ∧
   (0 < m → let down := mid (valAt f (m - 1 : Nat)) (valAt f m)
     (down.1 * den < num * down.2 ∨ (down.1 * den = num * down.2 ∧ m % 2 = 0))))

/-- R119, R120, R121: the sign bits FABS clears and FNEG inverts, the classes FCLASS writes, and the predicate FCMP writes when the
condition holds of every element. -/
def Obligations.FloatBitsAndComparison : Prop := ∀ s e d a b (p : BitVec 5) (c : BitVec 2),
  (Issues (.fabs d a) s e → RegResult s e (.fabs d a) d fun l v => ∀ j < 64 / floatW e, ∀ k < floatW e,
    (sub v j (floatW e)).testBit k = (decide (k ≠ floatW e - 1) && (sub (e.rd a l) j (floatW e)).testBit k)) ∧
  (Issues (.fneg d a) s e → RegResult s e (.fneg d a) d fun l v => ∀ j < 64 / floatW e, ∀ k < floatW e,
    (sub v j (floatW e)).testBit k = (decide (k = floatW e - 1) != (sub (e.rd a l) j (floatW e)).testBit k)) ∧
  (Issues (.fclass d a) s e → RegResult s e (.fclass d a) d fun l v => ∀ j < 64 / floatW e,
    let x := valOf (modeFormat e.mode) (sub (e.rd a l) j (floatW e))
    let small := subnormalBits (modeFormat e.mode) (sub (e.rd a l) j (floatW e) % 2 ^ (floatW e - 1))
    sub v j (floatW e) = if x.isNan then 8 else if x.isInf then (if x.sign then 0 else 7)
      else if x.isZero then (if x.sign then 3 else 4)
      else if small then (if x.sign then 2 else 5) else (if x.sign then 1 else 6)) ∧
  (Issues (.fcmp p a b c) s e → PredResult s e (.fcmp p a b c) p.toNat fun l => ∀ j < 64 / floatW e,
    let x := floatOf e a l j
    let y := floatOf e b l j
    if c.toNat = 3 then x.isNan = true ∨ y.isNan = true
    else x.isNan = false ∧ y.isNan = false ∧
      (if c.toNat = 0 then ltVal x y = false ∧ ltVal y x = false else if c.toNat = 1 then ltVal x y = true else ltVal y x = false))

/-- R125, R126, R127, R128: each converted element is the one rounding of its source's value; the rest of the register is zero, or
kept by CVT under keep; CVTG's zero point is clamped before use; codebook entries are found and written by CBENC and CBDEC. -/
def Obligations.Conversions : Prop := ∀ s e d a b k t sf x,
  (Issues (.cvt d a k t sf) s e → LoggedResult s e (.cvt d a k t sf) d fun l r =>
    let src := elemType sf.toNat
    let dst := elemType t.toNat
    let n := 64 / max src.width dst.width
    let el := fun j => convert e.mode src dst (sub (e.rd a l) j src.width)
    (∀ j < n, sub r.1 j dst.width = (el j).1) ∧
    (∀ i < 64, n * dst.width ≤ i → r.1.getLsbD i = (k == 1 && (e.rd d l).getLsbD i)) ∧
    ∀ c, c ∈ r.2 ↔ ∃ j < n, c ∈ (el j).2) ∧
  (Issues (.cvtg d a b x) s e → LoggedResult s e (.cvtg d a b x) d fun l r =>
    let uns := x.toNat % 2 == 1
    let wq := if x.toNat ≤ 1 then 8 else 4
    let scale := valOf .fp16 (fld (e.rd b l) 15 0)
    let z0 := intOf uns 8 (fld (e.rd b l) 23 16)
    let z := max (intMin uns wq) (min (intMax uns wq) z0)
    let bad := scale.isZero || scale.isInf || scale.isNan
    let q := fun j => roundInt (intMin uns wq) (intMax uns wq) (modeRm e.mode) (modeSat e.mode)
      (sumVals 0 [(divVal (floatOf e a l j) scale).1, valInt z])
    (∀ j < 64 / wq, sub r.1 j wq = if 64 / floatW e ≤ j then 0 else wrapTo wq (if bad then z else (q j).1)) ∧
    ∀ c, c ∈ r.2 ↔ (c = .saturate ∧ z ≠ z0 ∧ modeSat e.mode = false) ∨ (bad = true ∧ c = .qscale) ∨
      (bad = false ∧ ∃ j < 64 / floatW e, c ∈ (q j).2)) ∧
  (Issues (.cbenc d a x) s e → x.toNat < 3 → RegResult s e (.cbenc d a x) d fun l v =>
    let w := (bookFormat x.toNat).width
    let book := (bookEntries e.g.books (modeCbsel e.mode)).map fun y => valOf .bf16 y.toNat
    ∀ j < 16, sub v j 4 = if 64 / w ≤ j then 0
      else encodeBook book (sourceVal (modeFtz e.mode) (bookFormat x.toNat) (sub (e.rd a l) j w))) ∧
  (Issues (.cbdec d a x) s e → x.toNat < 3 → LoggedResult s e (.cbdec d a x) d fun l r =>
    let w := (bookFormat x.toNat).width
    ∀ j < 64 / w,
      let entry := getAt 0 e.g.books (16 * modeCbsel e.mode + sub (e.rd a l) j 4)
      sub r.1 j w = if (valOf .bf16 entry.toNat).isNan then (bookFormat x.toNat).nanBits
        else if x.toNat = 0 then entry.toNat * 2 ^ 16 else if x.toNat = 1 then entry.toNat
        else (roundFloat .fp16 (modeRm e.mode) (modeSat e.mode) false (valOf .bf16 entry.toNat)).1)

/-- R123: a special function empties its destination and owes it, for each element, the value of its function. -/
def Obligations.SpecialFunctions : Prop := ∀ s e d a,
  let gives := fun (op : SpecialOp) l (r : Result) => ∀ j < 64 / floatW e, sub r.1 j (floatW e) =
    (specialElem op (modeFormat e.mode) (modeFtz e.mode) (modeSat e.mode) (sub (e.rd a l) j (floatW e))).1
  (Issues (.frcp d a) s e → LongResult s e (.frcp d a) d (gives .rcp)) ∧
  (Issues (.frsq d a) s e → LongResult s e (.frsq d a) d (gives .rsq)) ∧
  (Issues (.fexp2 d a) s e → LongResult s e (.fexp2 d a) d (gives .exp2)) ∧
  (Issues (.flog2 d a) s e → LongResult s e (.flog2 d a) d (gives .log2)) ∧
  (Issues (.fsinpi d a) s e → LongResult s e (.fsinpi d a) d (gives .sinpi)) ∧
  (Issues (.fcospi d a) s e → LongResult s e (.fcospi d a) d (gives .cospi)) ∧
  (Issues (.ftanh d a) s e → LongResult s e (.ftanh d a) d (gives .tanh))

/-- R124: the special values and their causes, and the bound of FRCP: a finite result lies within one ulp of the reciprocal. -/
def Obligations.SpecialValues : Prop := ∀ (f : Format) (ftz sat : Bool) (b : Nat),
  (f = .fp32 ∨ f = .bf16 ∨ f = .fp16) → b < 2 ^ f.width →
  let out := fun op => specialElem op f ftz sat b
  let z := fun n => signed f n 0
  let inf := fun n => signed f n f.infBits
  (sourceVal ftz f b = .nan → ∀ op, out op = (f.nanBits, [])) ∧
  (∀ n, sourceVal ftz f b = .inf n → out .rcp = (z n, []) ∧
    out .rsq = (if n then (f.nanBits, [.invalid]) else (z false, [])) ∧ out .exp2 = (if n then z false else inf false, []) ∧
    out .log2 = (if n then (f.nanBits, [.invalid]) else (inf false, [])) ∧
    out .sinpi = (f.nanBits, [.invalid]) ∧ out .cospi = (f.nanBits, [.invalid]) ∧
    out .tanh = (signed f n (f.bias * 2 ^ f.frac), [])) ∧
  (∀ n d, sourceVal ftz f b = .fin n 0 d → out .rcp = (inf n, [.divzero]) ∧ out .rsq = (inf n, [.divzero]) ∧
    out .log2 = (inf true, [.divzero]) ∧ out .tanh = (z n, []) ∧ out .exp2 = (signed f false (f.bias * 2 ^ f.frac), [])) ∧
  (∀ n d, n ≠ 0 → sourceVal ftz f b = .fin true n d → out .rsq = (f.nanBits, [.invalid]) ∧
    out .log2 = (f.nanBits, [.invalid])) ∧
  (∀ neg n d, n ≠ 0 → sourceVal false f b = .fin neg n d → ∀ k, k ≠ 0 → k < f.maxBits →
    (specialElem .rcp f false true b).1 = signed f neg k →
    let x := overPow (valAt f k).num.natAbs (valAt f k).den (ulpExp f d n)
    let y := overPow d n (ulpExp f d n)
    ((x.1 * y.2 : Nat) - (y.1 * x.2 : Nat) : Int).natAbs ≤ x.2 * y.2)

/-- R129, R130, R131, R132: elements moved between the lanes of a domain, by index, by a constant, and within quads. -/
def Obligations.ElementsBetweenLanes : Prop := ∀ s e d a b x (δ : BitVec 7) (h g f c : BitVec 2),
  let n := domainLanes e.g * perReg e.mode
  (Issues (.xl d a b x) s e → x.toNat ≤ 1 → RegResult s e (.xl d a b x) d fun l v => ∀ j < perReg e.mode,
    sub v j (modeW e.mode) = if x = 1 ∧ n ≤ bitsOf e b l j then 0 else elementOf e a l (bitsOf e b l j % n)) ∧
  (Issues (.xli d a δ x) s e → RegResult s e (.xli d a δ x) d fun l v => ∀ j < perReg e.mode,
    let k := domainOf e.g l * perReg e.mode + j
    sub v j (modeW e.mode) =
      if x = 0 then (if k + δ.toNat < n then elementOf e a l (k + δ.toNat) else bitsOf e a l j)
      else if x = 1 then (if δ.toNat ≤ k then elementOf e a l (k - δ.toNat) else bitsOf e a l j)
      else if x = 2 then (if k ^^^ δ.toNat < n then elementOf e a l (k ^^^ δ.toNat) else bitsOf e a l j)
      else elementOf e a l δ.toNat) ∧
  (Issues (.qx d a h g f c) s e → RegResult s e (.qx d a h g f c) d fun l v =>
    let j := domainOf e.g l
    v = e.rd a (physLane e.g l (j - j % 4 + (if j % 4 = 0 then c else if j % 4 = 1 then f else if j % 4 = 2 then g else h).toNat)))

/-- R133, R134: a reduction over the active lanes of the strand, and prefix reductions in lane order with their identities. -/
def Obligations.GangReductions : Prop := ∀ s e d a (o : BitVec 3) (x : BitVec 1), o.toNat ≤ 5 →
  (Issues (.gred d a o) s e → LoggedResult s e (.gred d a o) d fun l r => ∀ j < perReg e.mode,
    Reduced e.mode o.toNat (termsOf e a (peers e l) j) (sub r.1 j (modeW e.mode))) ∧
  (Issues (.gscan d a x o) s e → LoggedResult s e (.gscan d a x o) d fun l r => ∀ j < perReg e.mode,
    let before := maskOf fun m => lane (peers e l) m && (decide (m < l) || (x == 0 && m == l))
    let f := modeFormat e.mode
    let top := if f = .e4m3 then f.maxBits else f.infBits
    if before = 0 then sub r.1 j (modeW e.mode) =
      (match o.toNat with
      | 1 => if modeEc e.mode = 2 then top else wrapTo (modeW e.mode) (intMax (modeEc e.mode != 0) (modeW e.mode))
      | 2 => if modeEc e.mode = 2 then top + 2 ^ (f.width - 1)
        else wrapTo (modeW e.mode) (intMin (modeEc e.mode != 0) (modeW e.mode))
      | 3 => 2 ^ modeW e.mode - 1
      | _ => 0)
    else Reduced e.mode o.toNat (termsOf e a before j) (sub r.1 j (modeW e.mode)))

/-- R135, R136: halves of registers joined and taken apart. -/
def Obligations.PackAndUnpack : Prop := ∀ s e d a b x, x.toNat ≤ 3 →
  let w := modeW e.mode
  let h := perReg e.mode / 2
  let ext := fun y => if modeEc e.mode = 0 then wrapTo (2 * w) (signedOf w y) else y
  (Issues (.pack d a b x) s e → x.toNat ≤ 1 → RegResult s e (.pack d a b x) d fun l v => ∀ j < h,
    (x = 0 → sub v j w = bitsOf e a l j ∧ sub v (h + j) w = bitsOf e b l j) ∧
    (x = 1 → sub v (2 * j) w = bitsOf e a l j ∧ sub v (2 * j + 1) w = bitsOf e b l j)) ∧
  (Issues (.unpack d a x) s e → RegResult s e (.unpack d a x) d fun l v => ∀ j < h,
    (x = 0 → sub v j (2 * w) = ext (bitsOf e a l j)) ∧
    (x = 1 → sub v j (2 * w) = ext (bitsOf e a l (h + j))) ∧
    (x = 2 → sub v j w = bitsOf e a l (2 * j) ∧ sub v (h + j) w = 0) ∧
    (x = 3 → sub v j w = bitsOf e a l (2 * j + 1) ∧ sub v (h + j) w = 0))

/-- R111, R112: the special values SPECR reads, and GSTATC's clearing of the two sticky bits. -/
def Obligations.SpecialValuesRead : Prop := ∀ s e d k, Issues (.specr d k) s e → k.toNat ≤ 28 →
  ∃ f g, exec (.specr d k) s = .next (s.setGang e.id g) ∧ Wrote e (.specr d k) d f { g with gstat := e.g.gstat } ∧
    g.gstat = (if k.toNat = 20 ∧ e.active ≠ 0 then setBit (setBit e.g.gstat 0 false) 1 false else e.g.gstat) ∧
    ∀ l < 32, let x := e.g.special
      (k = 0 → f l = word (domainOf e.g l)) ∧ (k = 1 → f l = word (domainOf e.g l / 4)) ∧ (k = 2 → f l = word x.gangId) ∧
      (∀ j < 3, k.toNat = 3 + j → f l = word (x.block.getD j 0)) ∧
      (∀ j < 3, k.toNat = 6 + j → f l = word (x.cluster.getD j 0)) ∧
      (∀ j < 3, k.toNat = 9 + j → f l = word (x.grid.getD j 0)) ∧
      (∀ j < 3, k.toNat = 12 + j → f l = word (x.extent.getD j 0)) ∧
      (k = 15 → f l = word x.role) ∧ (k = 16 → f l = word x.rank) ∧ (k = 17 → f l = x.glanes) ∧
      (k = 18 → f l = word x.blanes) ∧ (k = 19 → f l = e.g.gstat.setWidth 64) ∧ (k = 20 → f l = e.g.gstat.setWidth 64) ∧
      (k = 21 → f l = e.g.tcause.setWidth 64) ∧ (k = 22 → f l = e.g.tpc) ∧ (k = 23 → f l = e.g.tlanes.setWidth 64) ∧
      (k = 24 → f l = e.g.tmask.setWidth 64) ∧
      (∀ j < 4, k.toNat = 25 + j → ∀ x, s.ctx? e.g.ctx = some x → f l = getAt 0 x.ckp j)

/-- R139, R140, R369, R377: each lane of a strand branches by its own predicate, or jumps to its own target; copies that would part kill
the gang, before any other fault of theirs; a bad target raises ILLPK naming the lanes that have one. -/
def Obligations.Branches : Prop := ∀ s e p n o a x,
  let dest := fun l => if lane (e.g.pred p.toNat) l != (n == 1) then target e.iss.pc o.toNat else nextSlot e.iss.pc
  let jt := fun l => if x = 0 then e.rd a l
    else withOff e.iss.pc (((fld e.iss.pc 35 0 / 16 * 16 : Nat) : Int) + (e.rd a l).toInt).toNat
  let far := fun l => x ≠ 0 ∧ ¬(0 ≤ ((fld e.iss.pc 35 0 / 16 * 16 : Nat) : Int) + (e.rd a l).toInt ∧
    ((fld e.iss.pc 35 0 / 16 * 16 : Nat) : Int) + (e.rd a l).toInt < 2 ^ 36)
  let bad := fun l => far l ∨ goodTarget s (e.g.pcOf l) (jt l) = false
  (Issues (.bra p n o) s e → CopiesAgree e e.strand dest → ∃ t g, exec (.bra p n o) s = .next t ∧ OnlyGang s t e.id g ∧
    g = { e.g with pc := g.pc } ∧ PcsAre e dest g ∧ RunGoesOn s t e g) ∧
  (Issues (.bra p n o) s e → ¬CopiesAgree e e.strand dest → ∃ m < 16, dest (2 * m) ≠ dest (2 * m + 1) ∧
    exec (.bra p n o) s = .next (killGang s e.id .sdc (16 + m) true e.iss.pc e.strand)) ∧
  (Issues (.jmpi a x) s e → (∀ l < 32, lane e.strand l = true → ¬bad l) → CopiesAgree e e.strand jt →
    ∃ t g, exec (.jmpi a x) s = .next t ∧ OnlyGang s t e.id g ∧ g = { reads e (.jmpi a x) with pc := g.pc } ∧ PcsAre e jt g ∧
      RunGoesOn s t e g) ∧
  (Issues (.jmpi a x) s e → ¬CopiesAgree e e.strand (jmpiTarget e a x.toNat) → ∃ m < 16,
    jmpiTarget e a x.toNat (2 * m) ≠ jmpiTarget e a x.toNat (2 * m + 1) ∧
    exec (.jmpi a x) s = .next (killGang s e.id .sdc (16 + m) true e.iss.pc e.strand)) ∧
  (Issues (.jmpi a x) s e → CopiesAgree e e.strand (jmpiTarget e a x.toNat) →
    (∃ l < 32, lane e.strand l = true ∧ bad l) → ∃ tl : Mask,
    (∀ l < 32, lane tl l = true ↔ lane e.strand l = true ∧ bad l) ∧ exec (.jmpi a x) s = .next (trapLanes e .illpk 0 tl s))

/-- R141, R143, R144, R74: a call of the whole gang writes the link word below the callee's window in every lane, slides the window
and goes to its target; rows that no longer fit, the link row among them, are written to the spill object with the values and states they
then have; rows that stay keep theirs, and the base and the window stay within the rows held. -/
def Obligations.Calls : Prop := ∀ s e sf o a ps,
  let low := max e.g.lrow (e.g.wb + sf.toNat + e.g.wsize - e.g.nrows)
  let link := word (sf.toNat * 2 ^ 58 + fld (nextSlot e.iss.pc) 35 0)
  let called := fun (i : Instr) (dest : W64) => ∃ t g, exec i s = .next t ∧ t.gang? e.id = some g ∧
    g.wb = e.g.wb + sf.toNat ∧ g.lrow = low ∧ PcsAre e (fun _ => dest) g ∧
    (e.g.lrow ≤ e.g.wb → e.g.wsize ≤ e.g.nrows → g.lrow ≤ g.wb ∧ g.wb + g.wsize ≤ g.lrow + g.nrows) ∧
    (low < g.wb → ∀ l < 32, lane e.strand l = true → getAt Reg.zero g.v (32 * (g.wb - 1) + l) = ⟨link, .full⟩) ∧
    (∀ k, 32 * low ≤ k → k < 32 * (e.g.lrow + e.g.nrows) → (∀ l < 32, k ≠ 32 * (g.wb - 1) + l) →
      getAt Reg.zero g.v k = getAt Reg.zero (reads e i).v k) ∧
    (∀ (n r : Nat) qs, ps[n]? = some qs → (rowRange e.g.lrow low)[n]? = some r →
      qs.map (byteNow t) = rowBytes ((reads e i).write e.strand (sf.toNat - 1) fun _ => link) r) ∧
    (e.g.wb + sf.toNat + e.g.wsize ≤ e.g.lrow + e.g.nrows → OnlyGang s t e.id g ∧
      g = { reads e i with wb := g.wb, lrow := g.lrow, pc := g.pc, v := g.v, bound := g.bound, boundOut := g.boundOut, perf := g.perf })
  e.strand = e.g.liveLanes → 0 < sf.toNat → e.g.wb + e.g.wsize ≤ e.g.lrow + e.g.nrows → e.g.wb + sf.toNat + e.g.wsize ≤ 65536 →
  spillPlaces e s .write (rowRange e.g.lrow low) = .ok ps → rising s.dies = true → ps.flatten.Nodup →
  (∀ qs ∈ ps, qs.length = 264 ∧ ∀ p ∈ qs, ∃ k, p = .phys k ∧ inHbm k = true) →
  (Issues (.call sf o) s e → called (.call sf o) (target e.iss.pc o.toNat)) ∧
  (Issues (.calli a sf) s e → ∀ dest, (∀ l < 32, lane e.strand l = true → e.rd a l = dest) → e.strand ≠ 0 →
    goodTarget s e.iss.pc dest = true → called (.calli a sf) dest)

/-- R145, R74: a return takes each lane to its link word's place and slides the window back; a link row that was spilled is read from the
spill object, and a window base below the rows held refills them from it. R142, R143: a return or call that is not the whole gang's raises
CONV naming the lanes outside; a half of a compatibility gang waits for the other at it. -/
def Obligations.ReturnsAndConvergence : Prop := ∀ s e sf o a n link back,
  let k := fun l => (linkReg e.g link l).read
  (Issues .ret s e → e.g.wb ≠ 0 → e.strand = e.g.liveLanes → e.strand ≠ 0 → n ≠ 0 → n ≤ e.g.wb →
    spilledRows e s (if e.g.wb - 1 < e.g.lrow then [e.g.wb - 1] else []) = .ok link →
    (∀ l < 32, lane e.strand l = true → (linkReg e.g link l).isEmpty = false ∧ fld (k l) 63 58 = n ∧ fld (k l) 57 36 = 0 ∧
      goodPc (word (fld (k l) 35 0)) = true) →
    spilledRows e s (rowRange (e.g.wb - n) e.g.lrow) = .ok back →
    CopiesAgree e e.strand (fun l => withOff (e.g.pcOf l) (fld (k l) 35 0)) →
    ∃ t g, exec .ret s = .next t ∧ OnlyGang s t e.id g ∧ PcsAre e (fun l => withOff (e.g.pcOf l) (fld (k l) 35 0)) g ∧
      g = { e.g with wb := e.g.wb - n, lrow := min e.g.lrow (e.g.wb - n), pc := g.pc, v := g.v, bound := g.bound, boundOut := g.boundOut,
                     perf := g.perf } ∧
      (∀ x ∈ back, x.1 < g.wb + g.nrows → ∀ l < 32, getAt Reg.zero g.v (32 * x.1 + l) = spilledReg e.g x.2 x.1 l) ∧
      ∀ x, (g.wb < e.g.lrow → 32 * e.g.lrow ≤ x ∧ x < 32 * (g.wb + g.nrows)) → getAt Reg.zero g.v x = getAt Reg.zero e.g.v x) ∧
  (envOf s = some e → e.g.c16 = true → (∃ l < 32, lane e.g.liveLanes l = true ∧ e.g.pcOf l ≠ e.iss.pc) → e.strand ≠ e.g.liveLanes →
    ∀ i, i = .ret ∨ i = .call sf o ∨ i = .calli a sf → ∃ t g, exec i s = .next t ∧ OnlyGang s t e.id g ∧
      g = { e.g with park := g.park } ∧ ∀ l < 32, g.parkOf l = if lane e.strand l then .c16meet else e.g.parkOf l) ∧
  (e.g.c16 = false → e.strand ≠ e.g.liveLanes → ∃ tl : Mask, (∀ l < 32, lane tl l = (lane e.g.liveLanes l && !lane e.strand l)) ∧
    (Issues .ret s e → e.g.wb ≠ 0 → exec .ret s = .next (trapLanes e .conv 0 tl s)) ∧
    (Issues (.call sf o) s e → exec (.call sf o) s = .next (trapLanes e .conv 0 tl s)) ∧
    (Issues (.calli a sf) s e → exec (.calli a sf) s = .next (trapLanes e .conv 0 tl s)))

/-- R138, R146, R147, R150, R151: MEET writes a convergence register; JOIN goes on when every live lane that the register names has arrived,
what those lanes issued then coming before what the joined strand issues, and parks otherwise; YIELD stands back; YIELDW goes to its
continuation once the counter allows it, and parks until then. -/
def Obligations.Convergence : Prop := ∀ s e d a sf k n o,
  (Issues (.meet d a sf) s e → ∃ g, exec (.meet d a sf) s = .next (s.setGang e.id g) ∧
    g = { reads e (.meet d a sf) with cb := g.cb, pc := g.pc } ∧ Advances e g ∧
    (∀ c, getAt 0 g.cb c = if c = d.toNat then (if sf = 0 then e.strand else (e.once a).setWidth 32) else getAt 0 e.g.cb c)) ∧
  (Issues (.join d) s e → ∃ t g, exec (.join d) s = .next t ∧ OnlyGang s t e.id g ∧
    (∀ q r, find t.quarters q = some r → ∀ u, r.run = some u → u.gang ≠ e.id) ∧
    ((∀ l < 32, lane (getAt 0 e.g.cb d.toNat) l = true → lane e.g.liveLanes l = true →
        (e.g.c16 = true → l / 16 = lowestLane e.strand / 16) → e.g.pcOf l = e.iss.pc ∧ lane e.g.halted l = false) →
      g = { joinOrder e.g (e.strand ||| (getAt 0 e.g.cb d.toNat &&& e.g.exited)) e.strand with pc := g.pc } ∧ Advances e g) ∧
    ((∃ l < 32, lane (getAt 0 e.g.cb d.toNat) l = true ∧ lane e.g.liveLanes l = true ∧
        (e.g.c16 = true → l / 16 = lowestLane e.strand / 16) ∧ (e.g.pcOf l ≠ e.iss.pc ∨ lane e.g.halted l = true)) →
      g = { e.g with park := g.park } ∧ ∀ l < 32, g.parkOf l = if lane e.strand l then .join else e.g.parkOf l)) ∧
  (Issues .yield s e → ∃ t g, exec .yield s = .next t ∧ OnlyGang s t e.id g ∧ g = { e.g with pc := g.pc, park := g.park } ∧
    Advances e g ∧ ∀ l < 32, g.parkOf l = if lane e.strand l then .yielded else e.g.parkOf l) ∧
  (Issues (.yieldw k n o) s e → ∃ t g, exec (.yieldw k n o) s = .next t ∧ OnlyGang s t e.id g ∧
    (if (getAt 0 e.g.kc k.toNat).toNat ≤ n.toNat then
      g = { e.g with pc := g.pc } ∧ PcsAre e (fun _ => target e.iss.pc o.toNat) g
    else g = { e.g with park := g.park } ∧ ∀ l < 32, g.parkOf l =
      if lane e.strand l then .yieldw k.toNat n.toNat (target e.iss.pc o.toNat) else e.g.parkOf l))

/-- R152: an EXIT without successors ends the active lanes, and the strand's others go on; while counted lanes remain nothing else
changes. R153, R49: an EXIT of all live lanes that names a successor takes one from its dependency count, and at zero the launch block
becomes a task of the CU, or raises ILLPK where its entry is no slot. R339: the block counts that the CU has combined are performed first. -/
def Obligations.LanesEnd : Prop := ∀ s e a n,
  (Issues (.exit a n) s e → bbcOwed (writeOutBbc s e.id) e.id e.g.cuKey = true →
    exec (.exit a n) s = .next (stallQueue (writeOutBbc s e.id))) ∧
  (Issues (.exit a 0) s e → bbcOwed (writeOutBbc s e.id) e.id e.g.cuKey = false → ∃ t g, exec (.exit a 0) s = .next t ∧
    t.gang? e.id = some g ∧ g.exited = e.g.exited ||| e.active ∧
    (e.active ≠ 0 → e.g.killed = false → e.g.liveLanes &&& ~~~e.active &&& ~~~e.g.helpers ≠ 0 →
      (∀ x ∈ (s.cu e.g.cuKey).bbc, x.1 ≠ e.id) → OnlyGang s t e.id g ∧
      g = { e.g with pc := g.pc, exited := g.exited, exitPc := e.iss.pc, park := g.park } ∧
      ∀ l < 32, g.pcOf l = if lane e.strand l && !lane e.active l then nextSlot (e.g.pcOf l) else e.g.pcOf l)) ∧
  (Issues (.exit a n) s e → n = 1 → ∀ p base deps, e.active = e.g.liveLanes →
    (∃ l < 32, lane e.active l = true ∧ lane e.g.helpers l = false) →
    (∀ l < 32, lane e.active l = true → lane e.g.helpers l = false → e.rd a l = p) →
    isRemote s p = false → fld p 35 0 % 128 = 0 → (∀ k < 4, e.g.kcOf k = 0) → e.g.remotes = [] → e.g.accesses = [] →
    shownTo s e.g = [] → e.g.xferPend = false → (∀ x ∈ (s.cu e.g.cuKey).bbc, x.1 ≠ e.id) →
    translate s e.g.cuKey e.g.ctx p .atomic false true 128 = .ok ((List.range 128).map fun i => .phys (base + i)) →
    base + 128 ≤ 2 ^ 40 → 0 < deps → bytesNat (coherentBytes s (base + 16) 4) = deps →
    (deps = 1 → (s.cu e.g.cuKey).tasks.length < 64 ∧
      let t1 := performBytes s e.g.die (some e.g.cuKey) ((List.range 4).map fun i => (.phys (base + 16 + i), 0))
      taskFault (blockWords t1 ((List.range 128).map fun i => .phys (base + i))) 1 = none) →
    let bad := deps = 1 ∧ goodPc (word (fld (lbEntry (blockWords s ((List.range 128).map fun i => .phys (base + i)))) 3 0)) = false
    (bad → exec (.exit a n) s = .next (trapStrand e .illpk 0 s)) ∧
    (¬bad → ∃ t g, exec (.exit a n) s = .next t ∧ t.gang? e.id = some g ∧ g.liveLanes = 0 ∧
      bytesNat (coherentBytes t (base + 16) 4) = deps - 1 ∧
      (deps = 1 → ∃ k, (t.cu e.g.cuKey).tasks = (s.cu e.g.cuKey).tasks ++ [k] ∧ k.ptr = p ∧ k.ctx = e.g.ctx ∧
        k.grid = e.g.grid ∧ k.ver = e.g.curv ∧ k.die = some e.g.die)))

/-- R75, R154: GIVE moves rows from the top of the window to the block's pool, and CLAIM takes them from it where the pool holds
them and no earlier CLAIM waits, the new registers 0. -/
def Obligations.RegisterRows : Prop := ∀ s e b im,
  s.block? e.g.block = some b →
  (Issues (.give im) s e → ∃ t g c, exec (.give im) s = .next t ∧
    t = { (s.setGang e.id g).onBlock e.g.block (fun _ => c) with tick := t.tick } ∧
    g = { e.g with v := g.v, bound := g.bound, boundOut := g.boundOut, nrows := e.g.nrows - im.toNat,
                   wsize := e.g.wsize - im.toNat, pc := g.pc } ∧ Advances e g ∧
    (∀ x, x < 32 * (e.g.wsize - im.toNat) → getAt Reg.zero g.v x = getAt Reg.zero e.g.v x) ∧
    c = { b with pool := c.pool } ∧ ∀ q, getAt 0 c.pool q = getAt 0 b.pool q + (if q = e.g.quarter then im.toNat else 0)) ∧
  (Issues (.claim im) s e → waitingClaims s b e.g.quarter = [] → poolHas s e.g im.toNat = true → ∃ t g c,
    exec (.claim im) s = .next t ∧ t = { (s.setGang e.id g).onBlock e.g.block (fun _ => c) with tick := t.tick } ∧
    g = { e.g with v := g.v, nrows := e.g.nrows + im.toNat, wsize := e.g.wsize + im.toNat, pc := g.pc, park := g.park } ∧
    Advances e g ∧
    (∀ x, x < 32 * e.g.wsize → getAt Reg.zero g.v x = getAt Reg.zero e.g.v x) ∧
    (∀ x, 32 * e.g.wsize ≤ x → x < 32 * g.wsize → getAt Reg.zero g.v x = Reg.zero) ∧
    c = { b with pool := c.pool } ∧ ∀ q, getAt 0 c.pool q = getAt 0 b.pool q - (if q = e.g.quarter then im.toNat else 0)) ∧
  (Issues (.claim im) s e → ¬(waitingClaims s b e.g.quarter = [] ∧ poolHas s e.g im.toNat = true) → ∃ t g,
    exec (.claim im) s = .next t ∧ t.gang? e.id = some g ∧ g = { e.g with park := g.park } ∧
    ∀ l < 32, g.parkOf l = if lane e.strand l then .claim else e.g.parkOf l)

/-- R155, R156, R157, R158, R159, R371, R61: the software trap and an unassigned opcode enter the handler; RTT goes back to the trapped
place or to the slot after it, and only in a handler; TMASK writes the mask; HALT halts the active lanes; NOP does nothing. -/
def Obligations.TrapsAndReturn : Prop := ∀ s e c x im w off,
  (Issues (.trap c) s e → e.g.tmask.getLsbD 0 = false → handlerOf s e.g = some off →
    ∃ t, exec (.trap c) s = .next t ∧ Entered s t e off Code.trapsw.num c.toNat e.strand) ∧
  (Issues (.unassignedOpcode w) s e → e.g.tmask.getLsbD 0 = false → handlerOf s e.g = some off →
    ∃ t, exec (.unassignedOpcode w) s = .next t ∧ Entered s t e off Code.illop.num 0 e.strand) ∧
  (Issues (.rtt x) s e → e.g.tmask.getLsbD 0 = true → ∃ t g, exec (.rtt x) s = .next t ∧ OnlyGang s t e.id g ∧
    g = { e.g with pc := g.pc, tmask := 0, handlerLanes := 0 } ∧ RunGoesOn s t e g ∧
    PcsAre e (fun l =>
      let part := e.g.tcause.getLsbD 7 && e.g.tcause.getLsbD 31 &&
        [Code.align, .oos, .notres, .perm, .objinv].any fun c => c.num == bits e.g.tcause.toNat 5 0
      if x = 0 ∧ (part = false ∨ lane e.g.tlanes l = true) then e.g.tpc else nextSlot e.g.tpc) g) ∧
  (Issues (.rtt x) s e → e.g.tmask.getLsbD 0 = false → exec (.rtt x) s = .next (trapStrand e .illop 0 s)) ∧
  (Issues (.tmask im) s e → ∃ g, exec (.tmask im) s = .next (s.setGang e.id g) ∧ Advances e g ∧
    g = { e.g with tmask := im.setWidth 32, handlerLanes := g.handlerLanes, pc := g.pc }) ∧
  (Issues .halt s e → ∃ t g, exec .halt s = .next t ∧ OnlyGang s t e.id g ∧
    g = { e.g with pc := g.pc, halted := e.g.halted ||| e.active, haltReason := g.haltReason } ∧
    (∀ l < 32, lane e.active l = true → getAt .none g.haltReason l = .halt) ∧
    ∀ l < 32, g.pcOf l = if lane e.strand l && !lane e.active l then nextSlot (e.g.pcOf l) else e.g.pcOf l) ∧
  (Issues .nop s e → ∃ g, exec .nop s = .next (s.setGang e.id g) ∧ g = { e.g with pc := g.pc } ∧ Advances e g)

/-- R224, R229, R231, R232, R233, R17: LD, LDS and LDC empty their destinations and send, for each performing lane, the access that will
fill them, to the places where its bytes lie; helpers receive 0; no byte of memory changes. An LDC whose lane has an element of 16 bytes
needs a pair in the window; one whose record is under rebuild is held. -/
def Obligations.Loads : Prop := ∀ s e d a b x sf r w (pl : Nat → List Place) (n : Nat → Nat), Quiet s e →
  (∀ l ∈ performers e, 8 * (n l - 1) < (pl l).length ∧ (pl l).length ≤ 8 * n l) →
  (Issues (.ld d a sf r w) s e → w.toNat ≤ 4 → (∀ l, n l = if w = 4 then 2 else 1) →
    Reaches s e (loadAccess false d a sf r w e s.fresh) pl →
    LoadsBegin s e (.ld d a sf r w) d.toNat n (loadAccess false d a sf r w e s.fresh) pl) ∧
  (Issues (.lds d a sf r w) s e → w.toNat ≤ 4 → (∀ l, n l = if w = 4 then 2 else 1) →
    Reaches s e (loadAccess true d a sf r w e s.fresh) pl →
    LoadsBegin s e (.lds d a sf r w) d.toNat n (loadAccess true d a sf r w e s.fresh) pl) ∧
  (Issues (.ldc d a b x) s e → elemHeld s e a = false → (wideElem s e a = true → pairMissing e d = false) →
    (∀ l, n l = if l ∈ performers e ∧ laneElem s e a l = 16 then 2 else 1) →
    Reaches s e (ldcAccess s d a b x e s.fresh) pl →
    LoadsBegin s e (.ldc d a b x) d.toNat n (ldcAccess s d a b x e s.fresh) pl) ∧
  (Issues (.ldc d a b x) s e → elemHeld s e a = false → wideElem s e a = true → pairMissing e d = true →
    exec (.ldc d a b x) s = .next (trapStrand e .illop 0 s)) ∧
  (Issues (.ldc d a b x) s e → elemHeld s e a = true → exec (.ldc d a b x) s = .next (stallQueue s))

/-- R216, R224, R227, R231, R232, R233: ST, STS and STC leave the bytes of their performing lanes on their way. R219, R225, R255: the
units of a store hold its bytes in order; an aligned 4-byte word lies in one unit; a strong store of up to 8 bytes is one unit, and one of
16 bytes two, the lower first. -/
def Obligations.Stores : Prop :=
  (∀ s e d a b x sf r w (pl : Nat → List Place), Quiet s e →
    (Issues (.st d a sf r w) s e → SameAccess e (storeAccess false d a sf r w e s.fresh) →
      Reaches s e (storeAccess false d a sf r w e s.fresh) pl →
      StoresPend s e (.st d a sf r w) (reads e (.st d a sf r w)) (storeAccess false d a sf r w e s.fresh) pl) ∧
    (Issues (.sts d a sf r w) s e → SameAccess e (storeAccess true d a sf r w e s.fresh) →
      Reaches s e (storeAccess true d a sf r w e s.fresh) pl →
      StoresPend s e (.sts d a sf r w) (reads e (.sts d a sf r w)) (storeAccess true d a sf r w e s.fresh) pl) ∧
    (Issues (.stc d a b x) s e → elemHeld s e a = false → (wideElem s e a = true → pairMissing e d = false ∧
        ∀ l < 32, lane e.active l = true → (e.g.reg d.toNat l).isEmpty = false ∧ (e.g.reg (d.toNat + 1) l).isEmpty = false) →
      SameAccess e (stcAccess (wideElem s e a) d a b x e s.fresh) → Reaches s e (stcAccess (wideElem s e a) d a b x e s.fresh) pl →
      StoresPend s e (.stc d a b x) (consume e (stcOperands (wideElem s e a) d a b x e) allLanes)
        (stcAccess (wideElem s e a) d a b x e s.fresh) pl)) ∧
  ∀ (a : Access) ps, a.kind = .store → (∀ p ∈ ps, p.isRemote = false) → ps.length ≤ 16 →
    let parts := accessParts a ps
    parts.flatMap (fun x => x.2.1) = storeBytes a ps ∧
    (a.strong = true → ps.length ≤ 8 → parts.length ≤ 1) ∧
    (a.strong = true → ps.length = 16 → .zero ∉ ps → parts.map (fun x => (x.2.1.map Prod.fst, x.2.2)) =
      [(ps.take 8, false), (ps.drop 8, true)]) ∧
    (a.strong = false → ∀ i k : Nat, k % 4 = 0 → (∀ j < 4, ps[i + j]? = some (.phys (k + j))) →
      ∃ x ∈ parts, ∀ j < 4, .phys (k + j) ∈ x.2.1.map Prod.fst)

/-- R224, R240, R241: ATOM and ATOMS empty their destination and send an atomic access for each performing lane. -/
def Obligations.Atomics : Prop := ∀ s e d a p sf r (pl : Nat → List Place), Quiet s e → (∀ l ∈ performers e, pl l ≠ []) →
  (Issues (.atom d a p sf r) s e → SameAccess e (atomAccess .atom false [d.toNat] d a p sf r e s.fresh) →
    Reaches s e (atomAccess .atom false [d.toNat] d a p sf r e s.fresh) pl →
    LoadsBegin s e (.atom d a p sf r) d.toNat (fun _ => 1) (atomAccess .atom false [d.toNat] d a p sf r e s.fresh) pl) ∧
  (Issues (.atoms d a p sf r) s e → SameAccess e (atomAccess .atom true [d.toNat] d a p sf r e s.fresh) →
    Reaches s e (atomAccess .atom true [d.toNat] d a p sf r e s.fresh) pl →
    LoadsBegin s e (.atoms d a p sf r) d.toNat (fun _ => 1) (atomAccess .atom true [d.toNat] d a p sf r e s.fresh) pl)

/-- R242, R243: RED sends one reduction for each performing lane; REDC counts one operation in KC3 and leaves one contribution for each;
memory is as before until they are performed. -/
def Obligations.Reductions : Prop := ∀ s e d a p sf r (pl : Nat → List Place), Quiet s e →
  (Issues (.red d a p sf r) s e → SameAccess e (atomAccess .red false [] d a p sf r e s.fresh) →
    Reaches s e (atomAccess .red false [] d a p sf r e s.fresh) pl →
    ∃ t g, exec (.red d a p sf r) s = .next t ∧ t = { s.setGang e.id g with fresh := t.fresh } ∧ SameMemory s t ∧
      Advances e g ∧ g = { reads e (.red d a p sf r) with pc := g.pc, accesses := g.accesses } ∧
      Underway s e (atomAccess .red false [] d a p sf r e s.fresh) pl g) ∧
  (Issues (.redc d a p sf r) s e → SameAccess e (atomAccess .redc false [] d a p sf r e s.fresh) →
    Reaches s e (atomAccess .redc false [] d a p sf r e s.fresh) pl → (∀ c ∈ e.g.contribs, c.ticket ≠ s.fresh) →
    ∃ t g, exec (.redc d a p sf r) s = .next t ∧ t = { s.setGang e.id g with fresh := s.fresh + 1 } ∧ SameMemory s t ∧
      Advances e g ∧ g = { reads e (.redc d a p sf r) with pc := g.pc, contribs := g.contribs, kc := g.kc, counted := g.counted } ∧
      g.kcOf 3 = e.g.kcOf 3 + 1 ∧ (∀ k, k ≠ 3 → g.kcOf k = e.g.kcOf k) ∧
      (performers e = [] → g.contribs = e.g.contribs ∧
        g.counted = (completeOp { e.g with counted := e.g.counted ++ [⟨3, s.fresh, false⟩] } s.fresh).counted) ∧
      (performers e ≠ [] → g.counted = e.g.counted ++ [⟨3, s.fresh, false⟩] ∧
        ∃ c, g.contribs = e.g.contribs ++ [c] ∧ c.ticket = s.fresh ∧
          ∀ y, y ∈ c.accs ↔ ∃ l ∈ performers e, y = atomAccess .redc false [] d a p sf r e s.fresh l))

/-- R234, R235, R236, R237, R238: PREF changes nothing but time; a copy whose lanes or box pass their checks is counted in KC0 and joins
the copies under way, nothing being written yet; an ACPT of no lane but helpers is complete at once, and a descriptor with its top byte
set raises ILLOP. -/
def Obligations.CopiesBegin : Prop := ∀ s e d a b sf x n,
  let began := fun (i : Instr) (lanes : List CopyLane) (box : Option CopyBox) => ∃ g,
    exec i s = .next (({ s with fresh := s.fresh + 1 } : State).setGang e.id g) ∧ Advances e g ∧
    g = { reads e i with pc := g.pc, kc := g.kc, counted := g.counted, copies := g.copies } ∧ g.kcOf 0 = e.g.kcOf 0 + 1 ∧
    (lanes = [] → g.copies = e.g.copies ∧
      g.counted = (completeOp { e.g with counted := e.g.counted ++ [⟨0, s.fresh, false⟩] } s.fresh).counted) ∧
    (lanes ≠ [] → g.copies = e.g.copies ++ [⟨s.fresh, lanes, lanes, box, [], none, e.iss.iword, e.iss.ctl, e.iss.pc⟩] ∧
      g.counted = e.g.counted ++ [⟨0, s.fresh, false⟩])
  let laneOf := fun ds ss l => (⟨l, e.rd d l, ds, e.rd a l, ss, 0, fld (e.rd b l) 15 0 + 1⟩ : CopyLane)
  let agree := CopiesAgree e (e.active &&& ~~~e.g.helpers) fun l => (e.rd d l, e.rd a l, fld (e.rd b l) 15 0)
  let box : CopyBox := ⟨e.once a, e.once d, e.once b, e.g.read (b.toNat + 1) 0, x != 0, n⟩
  let off : W64 := word (fld (e.once d) 31 0)
  (Issues (.pref a sf) s e → ∃ g, exec (.pref a sf) s = .next (s.setGang e.id g) ∧ Advances e g ∧
    g = { reads e (.pref a sf) with pc := g.pc }) ∧
  (Quiet s e → Issues (.acp d a b) s e → agree → (∀ l ∈ performers e, copyCheck s e.g (laneOf false false l) = []) →
    began (.acp d a b) ((performers e).map (laneOf false false)) none) ∧
  (Quiet s e → Issues (.acps d a b x) s e → agree →
    (∀ l ∈ performers e, copyCheck s e.g (laneOf (x == 0) (x != 0) l) = []) →
    began (.acps d a b x) ((performers e).map (laneOf (x == 0) (x != 0))) none) ∧
  (Issues (.acpt d a b x) s e → fld (e.once d) 63 56 ≠ 0 → exec (.acpt d a b x) s = .next (trapStrand e .illop 0 s)) ∧
  (Quiet s e → Issues (.acpt d a b x) s e → fld (e.once d) 63 56 = 0 → e.strand &&& ~~~e.g.helpers = 0 → began (.acpt d a b x) [] none) ∧
  (Quiet s e → Issues (.acpt d a b x) s e → fld (e.once d) 63 56 = 0 → e.strand &&& ~~~e.g.helpers ≠ 0 →
    (isRemote s (e.once a) = true → n = remoteElem s (e.once a)) →
    (isRemote s (e.once a) = false →
      ∃ rec_, findRecord s e.g.cuKey e.g.ctx (ptrNode (e.once a)) (ptrObj (e.once a)) = .ok rec_ ∧ n = Record.esize rec_) →
    issueMisses [(off, spadPlaces s e.g (fld off 31 0) box.bytes),
      (e.once a, box.places s e.g ((List.range n).map fun j => 0 + j)),
      (e.once a, box.places s e.g ((List.range n).map fun j => box.bytes - n + j))] = [] →
    began (.acpt d a b x) [⟨0, off, x == 0, off, x != 0, 0, box.bytes⟩] (some box))

/-- R244, R247, R248, R249: an arrival counts at its word; the one that completes the phase flips it and lets the gang through, any
other parks it, and BARA never parks; BARW passes once the phase is no longer the token's. -/
def Obligations.Barriers : Prop := ∀ s e d (r : BitVec 7) a c p b cl,
  let w := BitVec.toNat b
  let v := barGet s cl e.g.block w
  let n := if barArr v ≠ 0 then barExp v else match barCount e a c with
    | none => countOf s (barGangs s cl e.g.block)
    | some n => if n = 0 ∨ 32 < n then 1 else n
  let done := n ≤ barArr v + 1 ∨ barAb v = true
  let i : Instr := if cl then .cbar d a c p b else .bar d a c p b
  let ready := Quiet s e ∧ e.strand = e.g.liveLanes ∧ e.id ∈ barGangs s cl e.g.block ∧ e.g.counts = true ∧
    (if cl then (find s.clusters (clusterOf s e.g.block)).isSome else (s.block? e.g.block).isSome)
  let word' := fun t => barGet t cl e.g.block w = if n ≤ barArr v + 1 ∨ barAb v = true then barWord (!barPhase v) (barAb v) 0 0
    else barWord (barPhase v) (barAb v) n (barArr v + 1)
  (ready → Issues i s e → hasArrived e.g cl w = false → ∃ t g, exec i s = .next t ∧ t.gang? e.id = some g ∧ word' t ∧
    (done → (∀ l < 32, lane e.strand l = true → g.pcOf l = nextSlot (e.g.pcOf l) ∧ g.parkOf l = .ready) ∧
      (d.toNat < 24 → ∀ l < 32, lane e.strand l = true → lane (g.pred d.toNat) l = barAb v) ∧
      g.gstat.getLsbD 1 = (barAb v || e.g.gstat.getLsbD 1)) ∧
    (¬done → ∀ l < 32, lane e.strand l = true → g.pcOf l = e.g.pcOf l ∧
      g.parkOf l = if cl then .cbar w (barPhase v) d.toNat else .bar w (barPhase v) d.toNat)) ∧
  (cl = false → ready → Issues (.bara r a c p b) s e → hasArrived e.g false w = false → (∀ l < 32, e.g.parkOf l = .ready) →
    ∃ t g, exec (.bara r a c p b) s = .next t ∧ t.gang? e.id = some g ∧ word' t ∧
      g.gstat.getLsbD 1 = (barAb v || e.g.gstat.getLsbD 1) ∧
      ∀ l < 32, lane e.strand l = true → g.pcOf l = nextSlot (e.g.pcOf l) ∧
        g.reg r.toNat l = ⟨if barPhase v then 1 else 0, .full⟩) ∧
  (cl = false → e.strand = e.g.liveLanes → Issues (.barw d a p b) s e → ∃ t g, exec (.barw d a p b) s = .next t ∧
    OnlyGang s t e.id g ∧
    (barPhase v ≠ (e.once a).getLsbD 0 → Advances e g ∧ g.parkOf = e.g.parkOf ∧
      (d.toNat < 24 → ∀ l < 32, lane e.strand l = true → lane (g.pred d.toNat) l = barAb v)) ∧
    (barPhase v = (e.once a).getLsbD 0 → ∀ l < 32, lane e.strand l = true → g.pcOf l = e.g.pcOf l ∧
      g.parkOf l = .bar w (barPhase v) d.toNat))

/-- R250, R208, R216, R251, R252: a FENCE of a gang with nothing under way goes on, an acquiring one emptying the CU's L1; a FENCE that
goes on leaves behind it, of its strand's accesses, on a release only stores that its scope has seen, and on an acquire no strong read.
FLUSH writes back and changes no byte's value; CKPT waits for releases at recovery scope, checks its image and parks until the commit. -/
def Obligations.FencesAndFlushes : Prop := ∀ s e p k sf a b x ck,
  (Issues (.fence p k sf) s e → e.g.accesses = [] → e.g.remotes = [] → shownTo s e.g = [] → Tidy s →
    ∃ t g, exec (.fence p k sf) s = .next t ∧ t.gang? e.id = some g ∧ Advances e g ∧ g = { e.g with pc := g.pc } ∧
      (k ≠ 1 → 1 ≤ sf.toNat → (t.cu e.g.cuKey).l1 = [] ∧ (t.cu e.g.cuKey).l1Since = t.writes) ∧
      (∀ j, NotMirror s j → coherent t j = coherent s j) ∧
      (k ≠ 0 → sf = 5 → ∀ y ∈ t.dies, ∀ j, inRind s j = true → find y.2.l2 j = none)) ∧
  (Issues (.fence p k sf) s e → ∀ t g, exec (.fence p k sf) s = .next t → t.cur ≠ none → t.gang? e.id = some g →
    (k ≠ 0 → ∀ y ∈ g.accesses, y.before &&& e.strand ≠ 0 → p = 0 ∧ y.shownAt sf.toNat = true) ∧
    (k ≠ 1 → ∀ y ∈ g.accesses, y.strongRead e.strand = false)) ∧
  (Issues (.flush a b x) s e → Quiet s e → Tidy s →
    (x = 0 → ∀ l < 32, lane e.strand l = true → invalidObject s e.g.cuKey e.g.ctx (e.rd a l) = none) →
    ∃ t g, exec (.flush a b x) s = .next t ∧ t.gang? e.id = some g ∧ Advances e g ∧
      g = { reads e (.flush a b x) with pc := g.pc } ∧ (∀ j, NotMirror s j → coherent t j = coherent s j) ∧
      (x = 0 → ∀ l < 32, e.strand = oneLane l → isRemote s (e.rd a l) = false → fld (e.rd b l) 31 0 ≠ 0 →
        ∀ ks, rangeKeys s e.g.cuKey e.g.ctx (e.rd a l) (fld (e.rd b l) 31 0) = some ks →
        ∀ j ∈ ks, ∀ y ∈ t.dies, find y.2.l2 j = none)) ∧
  (Issues (.ckpt a ck) s e → (a.toNat < 112 → CopiesAgree e e.strand (e.rd a)) →
    let s0 := settleFor s e.id fun x => x.toRind e.strand
    let e1 := e.renew s0
    let obj := fld (e1.once a) 50 32
    (∀ y ∈ e1.g.accesses, y.toRind e1.strand = false) → e1.g.checkpoint = none →
    ∀ tb ps, ckptMiss s0 e1 obj = none → readTable (readOnce e1 s0) obj = .ok tb →
    translateFrom s0 e1.g.cuKey e1.g.ctx (ownPtr obj) .write (imageSize s0 e1.g.cuKey e1.g.ctx obj - 256) 256 = .ok ps →
    ∃ t g, exec (.ckpt a ck) s = .next t ∧ OnlyGang s0 t e.id g ∧
      g = { reads e1 (.ckpt a ck) with park := g.park, checkpoint := some ⟨ck.toNat, obj, fld (e1.once a) 31 0, e1.strand⟩ } ∧
      ∀ l < 32, lane e.strand l = true → g.parkOf l = .ckpt)

/-- R333, R334, R336, R337, R339, R341, R342, R344: waiting for and reading a counter, declaring, removing and polling contribution
counters, block counts combined in the CU, performance counters, and arming a sample. -/
def Obligations.Counters : Prop := ∀ s e d a b x k n im pl,
  (Issues (.waitc k n) s e → ∃ t g, exec (.waitc k n) s = .next t ∧ OnlyGang s t e.id g ∧
    (if e.g.kcOf k.toNat ≤ n.toNat then Advances e g ∧ g = { e.g with pc := g.pc }
      else g = { e.g with park := g.park } ∧ ∀ l < 32, g.parkOf l =
        if lane e.strand l then .waitc k.toNat n.toNat else e.g.parkOf l)) ∧
  (Issues (.cntrd d x) s e → RegResult s e (.cntrd d x) d fun _ v => v = word (e.g.kcOf x.toNat)) ∧
  (Issues (.bbc d im) s e → e.strand &&& ~~~e.g.helpers = 0 → ∃ g, exec (.bbc d im) s = .next (s.setGang e.id g) ∧ Advances e g ∧
    g = { reads e (.bbc d im) with pc := g.pc }) ∧
  (Issues (.bbc d im) s e → e.strand &&& ~~~e.g.helpers ≠ 0 → ∀ p ps, p = withOff (e.once d) (fld (e.once d) 35 0 + 8 * im.toNat) →
    fld p 35 0 % 8 = 0 → translate s e.g.cuKey e.g.ctx p .atomic false true 8 = .ok ps → ps.any (placePoisoned s) = false →
    (s.cu e.g.cuKey).bbc.length < 64 → (∀ y ∈ (s.cu e.g.cuKey).bbc, y.1 = e.id → y.2.1 ≠ p) →
    ∃ t g, exec (.bbc d im) s = .next t ∧ t.gang? e.id = some g ∧ Advances e g ∧ g = { reads e (.bbc d im) with pc := g.pc } ∧
      SameMemory s t ∧ (t.cu e.g.cuKey).bbc = (s.cu e.g.cuKey).bbc ++ [(e.id, p, 1)]) ∧
  (Issues (.redset d a b x) s e → e.strand &&& ~~~e.g.helpers = 0 → ∃ g, exec (.redset d a b x) s = .next (s.setGang e.id g) ∧
    Advances e g ∧ g = { reads e (.redset d a b x) with pc := g.pc }) ∧
  (Issues (.redset d a b x) s e → Quiet s e → rising s.dies = true → e.strand &&& ~~~e.g.helpers ≠ 0 → (x = 0 → fld (e.once b) 35 0 % 8 = 0) →
    ∀ ps fs, translate s e.g.cuKey e.g.ctx (e.once a) .read false false 1 = .ok ps →
    (x = 0 → translate s e.g.cuKey e.g.ctx (e.once b) .write false true 8 = .ok fs) →
    let line := lineBase s e.g.cuKey e.g.ctx (e.once a)
    let c : Nat → ContribCounter := fun key => ⟨key, fld (e.once d) 31 0, 0, e.once b, e.g.ctx, fld (e.once d) 31 0 == 0, false, false⟩
    (x = 0 → ∀ key, line = some key → (s.die (homeDie key)).counters.length < 2 ^ 21) →
    ∃ t g, exec (.redset d a b x) s = .next t ∧ t.gang? e.id = some g ∧ Advances e g ∧ g = { reads e (.redset d a b x) with pc := g.pc } ∧
      (x ≠ 0 → SameMemory s t ∧ ∀ key, line = some key → counterOf t key = none) ∧
      (x = 0 → (∀ key, line = some key → counterOf t key = some (c key)) ∧
        ((∀ y ∈ s.dies, y.2.rennet = [] ∧ y.2.overflow = []) → (line ≠ none → fld (e.once d) 31 0 ≠ 0) → fs.length = 8 → fs.Nodup →
          (∀ q ∈ fs, ∃ j, q = .phys j ∧ inHbm j = true) → fs.map (byteNow t) = List.replicate 8 0))) ∧
  (Issues (.redpoll d a x) s e → Quiet s e → (∀ l ∈ performers e, pl l ≠ []) → Reaches s e (pollAccess d a x e s.fresh) pl →
    LoadsBegin s e (.redpoll d a x) d.toNat (fun _ => 1) (pollAccess d a x e s.fresh) pl) ∧
  (∀ m : BitVec 9, Issues (.perfrd d m) s e → rising s.dies = true → (32 ≤ m.toNat → e.sys = true) → ∃ t f g,
    exec (.perfrd d m) s = .next t ∧ t = { s.setGang e.id g with tick := t.tick, dies := t.dies } ∧ SameMemory s t ∧
    Wrote e (.perfrd d m) d f { g with perf := e.g.perf } ∧
    (∀ j, j ≠ 5 → j ≠ 6 → j ≠ m.toNat ∨ perfFree j = false → getAt 0 g.perf j = getAt 0 e.g.perf j) ∧
    (∀ j, j ≠ m.toNat ∨ perfFree j = false → getAt 0 (t.die e.g.die).perf j = getAt 0 (s.die e.g.die).perf j) ∧
    ∀ l < 32, lane (resultLanes e d) l = true → f l =
      if m = 0 then word (t.die e.g.die).clock - getAt 0 e.g.perf 0
      else if m.toNat < 12 then (if perfFree m.toNat then getAt 0 g.perf m.toNat else getAt 0 e.g.perf m.toNat)
      else getAt 0 (t.die e.g.die).perf m.toNat) ∧
  (∀ m : BitVec 9, Issues (.perfrd d m) s e → 32 ≤ m.toNat → e.sys = false → exec (.perfrd d m) s = .next (trapStrand e .illop 0 s)) ∧
  (∀ f : BitVec 1, f = 1 → Issues (.sample a f) s e → ∃ g, exec (.sample a f) s = .next (s.setGang e.id g) ∧ Advances e g ∧
    g = { reads e (.sample a f) with pc := g.pc, armed := none }) ∧
  (∀ f : BitVec 1, f = 0 → Issues (.sample a f) s e → fld (e.once a) 35 0 % 64 = 0 → ∀ ps,
    translate s e.g.cuKey e.g.ctx (e.once a) .write false false 64 = .ok ps →
    ∃ g, exec (.sample a f) s = .next (s.setGang e.id g) ∧ Advances e g ∧
    g = { reads e (.sample a f) with pc := g.pc, armed := some (e.once a) })

/-- R162, R169, R171, R176 to R180: a multiply or accumulator instruction that passes its checks joins its quarter's queue with its
operands as read at issue; at a full queue the strand stays where it is. -/
def Obligations.MatrixQueue : Prop := ∀ s e c a b f sf,
  let mac := fun (x : MacFields) i => Issues i s e → (e.g.c16 = false ∨ e.strand = e.g.liveLanes) → macCheck x e = none →
    Accepted s e i [] fun op => op.opcode = x.opcode ∧ op.acc = BitVec.toNat c ∧ op.fmt = e.g.read (BitVec.toNat f) 0 ∧
      op.a = groupWords e a ∧ op.b = [groupWords e b] ∧ op.booksA = e.g.books ∧ op.booksB = [e.g.books] ∧
      op.pa = laneWords e (BitVec.toNat f + 1) ∧ op.pb = [laneWords e (BitVec.toNat f + 2)] ∧ op.lanes = e.active ∧
      op.sparse = if x.sparse then laneNumbers.map (rowMeta x e) else []
  let acc := fun (i : Instr) (o : Nat) (regs : List W64) (fields : List Nat) => Issues i s e →
    Accepted s e i fields fun op => op.opcode = o ∧ op.acc = BitVec.toNat c ∧ op.sel = BitVec.toNat sf ∧ op.a = regs ∧
      op.lanes = e.active ∧ (fields ≠ [] → op.dest = fields.headD 0)
  let move := fun (i : Instr) (o : Nat) => Issues i s e → fld (e.once f) 31 0 % 256 = 0 → ∀ ps,
    spadPlaces s e.g (fld (e.once f) 31 0) (1024 * moveSize (BitVec.toNat sf)) = .ok ps →
    Accepted s e i [] fun op => op.opcode = o ∧ op.acc = BitVec.toNat c ∧ op.sel = BitVec.toNat sf ∧ op.off = fld (e.once f) 31 0
  (matrixFull s e.g = false →
    mac ⟨0x1C0, BitVec.toNat c, a, b, f, 0, false, false⟩ (.mma c a b f) ∧
    mac ⟨0x1C1, BitVec.toNat c, a, b, f, BitVec.toNat sf, false, true⟩ (.mmas c a b f sf) ∧
    acc (.accz c sf) 0x1C4 [] [] ∧
    acc (.accrd c a sf) 0x1C5 [] ((List.range 4).map fun r => 4 * BitVec.toNat a + r) ∧
    acc (.accwr c a sf) 0x1C6 (groupWords e a) [] ∧
    acc (.accsc c a sf) 0x1C7 (laneWords e (4 * BitVec.toNat a)) [] ∧
    acc (.accmax c a sf) 0x1C8 (laneWords e (4 * BitVec.toNat a)) [4 * BitVec.toNat a] ∧
    acc (.accsum c a sf) 0x1C9 (laneWords e (4 * BitVec.toNat a)) [4 * BitVec.toNat a] ∧
    move (.accst c f sf) 0x1CA ∧ move (.accld c f sf) 0x1CB) ∧
  (matrixFull s e.g = true → Issues (.accz c sf) s e → exec (.accz c sf) s = .next (stallQueue s)) ∧
  (Issues (.mma c a b f) s e → (e.g.c16 = false ∨ e.strand = e.g.liveLanes) → ~~~(e.active &&& ~~~e.g.halted) ≠ 0 →
    exec (.mma c a b f) s = .next (trapLanes e .conv 0 (~~~(e.active &&& ~~~e.g.halted)) s))

/-- R172: a gang that reaches MMAQ or MMAQS before its partners parks there; the last of the four to come has all four accepted. -/
def Obligations.Rendezvous : Prop := ∀ s e c a b f sf i (x : MacFields),
  (i = .mmaq c a b f sf ∧ x = ⟨0x1C2, c.toNat, a, b, f, sf.toNat, true, false⟩ ∨
    i = .mmaqs c a b f sf ∧ x = ⟨0x1C3, c.toNat, a, b, f, sf.toNat, true, true⟩) →
  Issues i s e → Tidy s → (e.g.c16 = false ∨ e.strand = e.g.liveLanes) → macCheck x e = none →
  (∀ p ∈ quadOf s e.g, absent p = false) → some (e.id, e.g) ∈ quadOf s e.g →
  ((∃ h, some h ∈ quadOf s e.g ∧ h.1 ≠ e.id ∧ atRendezvous h.2 = false) → ∃ t g, exec i s = .next t ∧ OnlyGang s t e.id g ∧
    g = { e.g with park := g.park, rendezvous := some { e.iss with lanes := e.strand } } ∧
    ∀ l < 32, g.parkOf l = if lane e.strand l then .rendezvous else e.g.parkOf l) ∧
  ((∀ h, some h ∈ quadOf s e.g → matrixFull s h.2 = false ∧ (h.1 ≠ e.id → atRendezvous h.2 = true ∧
      ∀ iss, h.2.rendezvous = some iss → (macFields iss).opcode = x.opcode ∧ (macFields iss).sel = x.sel ∧
        h.2.read (macFields iss).f.toNat 0 = e.g.read f.toNat 0)) →
    ∃ t, exec i s = .next t ∧ ∀ h, some h ∈ quadOf s e.g → ∃ g, t.gang? h.1 = some g ∧ g.rendezvous = none ∧
      g.kcOf 1 = h.2.kcOf 1 + 1 ∧ (∃ op ∈ (t.quarter h.2.qKey).matrix, op.gang = h.1 ∧ op.opcode = x.opcode ∧ op.b.length = 4) ∧
      (h.1 = e.id → Advances e g))

/-- R161, R162, R176, R177, R178, R180: what the array leaves in the tiles: zeros by ACCZ, a chunk rounded into them by ACCWR, products by
ACCSC, scratchpad's elements by ACCLD; and what ACCST leaves in scratchpad. Every other accumulator word is as before. -/
def Obligations.TilesWritten : Prop := ∀ s q op rest g b, AtHead s q op rest g b →
  let base := 1024 * (16 * (q % 4) + op.acc)
  let old := fun k => getAt 0 b.acc k
  (op.opcode = 0x1C4 → WritesTiles s q op rest g b fun k => if base ≤ k ∧ k < base + 1024 * 2 ^ op.sel then 0 else old k) ∧
  (op.opcode = 0x1C6 → WritesTiles s q op rest g b fun k => if base ≤ k ∧ k < base + 1024 then
      let i := (k - base) / 32
      let n := 256 / modeW op.mode
      let wide := tileFormat op.mode = .fp64
      let j := if wide then (k - base) % 32 / 2 else (k - base) % 32
      let x := accwrElem op.mode (quadRegs op.a i) (j - n * op.sel)
      if lane op.lanes i = true ∧ n * op.sel ≤ j ∧ j < n * op.sel + n then
        (if wide ∧ (k - base) % 2 = 1 then word32 (x / 2 ^ 32) else word32 x) else old k
    else old k) ∧
  (op.opcode = 0x1C7 → op.sel = 0 → WritesTiles s q op rest g b fun k => if base ≤ k ∧ k < base + 1024 then
      let i := (k - base) / 32
      if lane op.lanes i then word32 (roundFloat .fp32 0 false false
        (mulVal (valOf .fp32 (old k).toNat) (valOf .fp32 ((op.a.getD i 0).toNat % 2 ^ 32)))).1 else old k
    else old k) ∧
  (op.opcode = 0x1C7 → op.sel = 1 → WritesTiles s q op rest g b fun k => if base ≤ k ∧ k < base + 2048 then
      let i := (k - base) % 1024 / 32
      let lo := k - (k - base) % 2
      let x := (roundFloat .fp64 0 false false (mulVal (valOf .fp64 ((old lo).toNat + 2 ^ 32 * (old (lo + 1)).toNat))
        (valOf .fp64 (op.a.getD i 0).toNat))).1
      if lane op.lanes i then (if (k - base) % 2 = 1 then word32 (x / 2 ^ 32) else word32 x) else old k
    else old k) ∧
  (op.opcode = 0x1CB → ∀ ps, spadPlaces s g op.off (1024 * moveSize op.sel) = .ok ps → ps.any (placePoisoned s) = false →
    WritesTiles s q op rest g b fun k => if base ≤ k ∧ k < base + 1024 then
      let n := moveSize op.sel
      let x := bytesNat (((ps.map (byteNow s)).drop (n * (k - base))).take n)
      if op.sel = 0 then word32 x else word32 (roundFloat .fp32 0 false false (valOf (moveFormat op.sel) x)).1
    else old k) ∧
  (op.opcode = 0x1CA → ∀ blk off, spadPlaces s g op.off (1024 * moveSize op.sel) =
      .ok ((List.range (1024 * moveSize op.sel)).map fun j => .spad blk (off + j)) → (s.block? blk).isSome →
    ∃ t g', exec (.matrixExecute q) s = .next t ∧ t.gang? op.gang = some g' ∧ g' = completeOp g op.ticket ∧ SameMemory s t ∧
      ∀ n < 1024, bytesNat ((List.range (moveSize op.sel)).map fun j => byteNow t (.spad blk (off + moveSize op.sel * n + j))) =
        if op.sel = 0 then (old (base + n)).toNat
        else (roundFloat (moveFormat op.sel) 0 false false (valOf .fp32 (old (base + n)).toNat)).1)

/-- R43, R44, R45, R165, R169, R172: each element of a multiply's tiles is the one rounding of C and all products of row i and
column j, element by element of K; the tiles of other quarters and other words are as before. -/
def Obligations.TilesMultiplied : Prop := ∀ s q op rest g b, AtHead s q op rest g b → op.opcode < 0x1C4 → 0x1C0 ≤ op.opcode →
  ∀ k w c, formatOf op.fmt = some (k, w, c) →
  let base := 1024 * (16 * (q % 4) + op.acc)
  let old := fun k => getAt 0 b.acc k
  let row := fun i => if op.sparse = [] then denseRow (quadRegs op.a i) k w else sparseRow (quadRegs op.a i) (op.sparse.getD i 0) k w
  let col := fun m j => denseRow (quadRegs (op.b.getD m []) j) k w
  let pair := fun m i j => ((row i).zip (col m j)).map fun x => (slotValue (fwA op.fmt) (bookEntries op.booksA (fwBook op.fmt false)) x.1,
    slotValue (fwB op.fmt) (bookEntries (op.booksB.getD m []) (fwBook op.fmt true)) x.2)
  (c = 1 → fwGrp op.fmt = 0 → WritesTiles s q op rest g b fun n => if base ≤ n ∧ n < base + 1024 * op.b.length then
      let m := (n - base) / 1024
      word32 (roundFloat .fp32 0 false false (sumVals 0 (valOf .fp32 (old n).toNat ::
        (pair m ((n - base) % 1024 / 32) ((n - base) % 32)).map fun x => mulVal x.1 x.2))).1
    else old n) ∧
  (c = 1 → fwGrp op.fmt ≠ 0 → WritesTiles s q op rest g b fun n => if base ≤ n ∧ n < base + 1024 * op.b.length then
      let m := (n - base) / 1024
      let i := (n - base) % 1024 / 32
      let j := (n - base) % 32
      let ng := groupsMet op.fmt k
      word32 (roundFloat .fp32 0 false false (sumVals 0 (valOf .fp32 (old n).toNat :: (List.range ng).map
        (groupTerm op.fmt (k / ng) (op.pa.getD i 0) ((op.pb.getD m []).getD j 0) ((row i).zip (col m j)))))).1
    else old n) ∧
  (c = 0 → op.b.length = 1 → WritesTiles s q op rest g b fun n => if base ≤ n ∧ n < base + 2048 then
      let i := (n - base) % 1024 / 32
      let j := (n - base) / 1024 * 16 + (n - base) % 32 / 2
      let lo := n - (n - base) % 2
      let x := (pair 0 i j).foldl (fun d x => (roundFloat .fp64 0 false false (fmaVal 0 x.1 x.2 (valOf .fp64 d)).1).1)
        ((old lo).toNat + 2 ^ 32 * (old (lo + 1)).toNat)
      if (n - base) % 2 = 1 then word32 (x / 2 ^ 32) else word32 x
    else old n)

/-- R177, R179, R182: what accumulator reads owe: chunks converted under MODE, and row maxima and sums rounded once; and MTR's transposed
blocks. -/
def Obligations.MatrixReads : Prop := ∀ s q op rest g b e d a,
  let base := 1024 * (16 * (q % 4) + op.acc)
  let stay := op.moved = none ∧ op.wb + op.dest < 2 ^ 26
  let owes := fun (vs : List (Nat × W64)) (t : State) => ∃ g', t.gang? op.gang = some g' ∧
    g'.pending = g.pending ++ [⟨op.ticket, vs, []⟩] ∧ g'.v = g.v
  (AtHead s q op rest g b → stay → op.lanes ≠ 0 → (op.opcode = 0x1C8 ∨ op.opcode = 0x1C9) → ∃ t vs, exec (.matrixExecute q) s = .next t ∧
    owes vs t ∧ SameMemory s t ∧ ∀ i < 32, lane op.lanes i = true →
      let f : Format := if op.sel % 2 = 1 then .fp64 else .fp32
      let terms := (laneNumbers.map fun j => valOf f (if op.sel % 2 = 1 then pairElem b.acc base i j
          else (getAt 0 b.acc (base + 32 * i + j)).toNat)) ++
        (if 2 ≤ op.sel then [valOf f ((op.a.getD i 0).toNat % 2 ^ f.width)] else [])
      (32 * (op.wb + op.dest) + i, word (roundFloat f 0 false false
        (if op.opcode = 0x1C9 then sumVals 0 terms else terms.foldl maxVal .nan)).1) ∈ vs) ∧
  (AtHead s q op rest g b → stay → op.lanes ≠ 0 → op.opcode = 0x1C5 → ∃ t vs, exec (.matrixExecute q) s = .next t ∧ owes vs t ∧
    ∀ i < 32, lane op.lanes i = true → ∀ r < 4, ∃ v, (32 * (op.wb + op.dest + r) + i, v) ∈ vs ∧ ∀ j < 64 / modeW op.mode,
      modeW op.mode ≤ 64 → (modeType op.mode).width = modeW op.mode →
      sub v j (modeW op.mode) = (convert op.mode (.float (tileFormat op.mode)) (modeType op.mode)
        (chunkElem op.mode b.acc base op.sel i (64 / modeW op.mode * r + j))).1) ∧
  (Issues (.mtr d a) s e → d.toNat + 3 < 112 → ∃ g, exec (.mtr d a) s = .next (s.setGang e.id g) ∧ Advances e g ∧
    g = { reads e (.mtr d a) with v := g.v, pc := g.pc, bound := g.bound, boundOut := g.boundOut, perf := g.perf } ∧
    OnlyRowsCount (reads e (.mtr d a)) g ∧
    (∀ l < 32, lane e.active l = true → ∀ k < 256 / modeW e.mode,
      let w := modeW e.mode
      let base := 256 / w * (l / (256 / w))
      ∃ v, g.reg (d.toNat + k * w / 64) l = ⟨v, .full⟩ ∧ sub v (k % (64 / w)) w =
        sub (e.g.read (a.toNat + (l - base) * w / 64) (base + k)) ((l - base) % (64 / w)) w) ∧
    ∀ k, (∀ l < 32, lane e.active l = true → ∀ r < 4, k ≠ e.g.vKey (d.toNat + r) l) →
      getAt Reg.zero g.v k = getAt Reg.zero (reads e (.mtr d a)).v k)

/-- R302, R316, R317, R319: SAFEPT parks the strand of a gang whose transfer is pending where the target has the point, and is passed
over otherwise; XFER makes a request, or leaves the outcome NOVER; XFERQ reads the version, the request and its outcome. -/
def Obligations.TransferRequests : Prop := ∀ s e (n : BitVec 12) (a : BitVec 7) (sf : BitVec 1) (v : BitVec 8) (d : BitVec 7),
  let x := if sf = 1 then fld (e.once a) 7 0 else v.toNat
  let asked := fun (pend : Bool) (ver : Nat) => ∃ g, exec (.xfer a sf v) s = .next (s.setGang e.id g) ∧ Advances e g ∧
    g = { reads e (.xfer a sf v) with pc := g.pc, gstat := g.gstat } ∧ g.xferPend = pend ∧ g.xver = ver ∧
    ∀ k, (k < 8 ∨ 16 ≤ k) → k ≠ 2 → g.gstat.getLsbD k = (reads e (.xfer a sf v)).gstat.getLsbD k
  (Issues (.safept n) s e → e.g.xferPend = true → safePointParks s e.g n.toNat = true → ∃ t g, exec (.safept n) s = .next t ∧
    OnlyGang s t e.id g ∧ g = { e.g with park := g.park } ∧
    ∀ l < 32, g.parkOf l = if lane e.strand l then .safept (s.die e.g.die).clock else e.g.parkOf l) ∧
  (Issues (.safept n) s e → (e.g.xferPend = false ∨ safePointParks s e.g n.toNat = false) → ∃ g,
    exec (.safept n) s = .next (s.setGang e.id g) ∧ g = { e.g with pc := g.pc } ∧ Advances e g) ∧
  (Issues (.xfer a sf v) s e → e.g.xferPend = true → asked true e.g.xver) ∧
  (Issues (.xfer a sf v) s e → e.g.xferPend = false → (enterable s e.g x).isSome = true → asked true x) ∧
  (Issues (.xfer a sf v) s e → e.g.xferPend = false → enterable s e.g x = none → asked false 1) ∧
  (Issues (.xferq d) s e → RegResult s e (.xferq d) d fun _ r =>
    fld r 7 0 = (if e.g.xferPend then 1 else 0) ∧ fld r 15 8 = e.g.xver ∧ fld r 23 16 = e.g.curv ∧ fld r 63 24 = 0)

/-- R307, R320, R321: MCALL refuses a slot that fails any instruction's checks and changes nothing; a slot of one instruction has that
instruction's own effect on the parameters; MSTORE writes an accepted image into the slot and every CU's copy, and says by its
predicate whether it did. -/
def Obligations.Microprograms : Prop := ∀ s e (d a : BitVec 7) (k : BitVec 8) m fx ps,
  let c := slotOf s e.g.cuKey e.g.ctx k.toNat
  let code := microDecode ((List.range 4).map fun j => d.toNat + j) false c.1
  let em := microEnv e e.g m
  let ws := bytesWords 16 (ps.map (byteNow s))
  (Issues (.mcall d k) s e → (code = none ∨ ∃ ops, code = some ops ∧ microOk e false e.mode ops = false) →
    exec (.mcall d k) s = .next (trapStrand e .illop 0 c.2)) ∧
  (Issues (.mcall d k) s e → code = some [] → ∃ g, exec (.mcall d k) s = .next (c.2.setGang e.id g) ∧ Advances e g ∧
    g = { e.g with pc := g.pc }) ∧
  (Issues (.mcall d k) s e → code = some [m] → microSpecial m.i = none → microFx m.i = some fx → verdict em (operands em m.i) = .go →
    exec (.mcall d k) s = .next (logArith (finish e (fx em (reads em m.i)).1 { c.2 with fresh := s.fresh + 1 }) e.id e.iss.pc
      em.active em.mode (fx em (reads em m.i)).2)) ∧
  (Issues (.mstore d a k) s e → fld (e.once a) 35 0 % 128 ≠ 0 → exec (.mstore d a k) s = .next (trapStrand e .align 0 s)) ∧
  (Issues (.mstore d a k) s e → Quiet s e → fld (e.once a) 35 0 % 128 = 0 →
    translate s e.g.cuKey e.g.ctx (e.once a) .read false false 128 = .ok ps → ps.any (placePoisoned s) = false →
    (∀ p ∈ ps, p.isRemote = false ∧ Settled s e.g p) → ∃ t g, exec (.mstore d a k) s = .next t ∧ t.gang? e.id = some g ∧ Advances e g ∧
      g = { reads e (.mstore d a k) with pc := g.pc, p := g.p } ∧
      (d.toNat < 24 → ∀ l < 32, lane e.g.liveLanes l = true → lane (g.pred d.toNat) l = slotAccepted ws) ∧
      (slotAccepted ws = false → t = s.setGang e.id g) ∧
      (slotAccepted ws = true → (∀ y ∈ t.cus, ∀ z ∈ y.2.micro, z.1 = e.g.ctx → z.2.1 = k.toNat → z.2.2 = ws) ∧
        ∀ x qs, s.ctx? e.g.ctx = some x → rising s.dies = true → s.rind = [] →
          translate s e.g.cuKey e.g.ctx (x.cstore + word (128 * k.toNat)) .write false false 128 = .ok qs → qs.Nodup → qs.length = 128 →
          (∀ q ∈ qs, ∃ j, q = .phys j ∧ inHbm j = true) → bytesWords 16 (qs.map (byteNow t)) = ws))

/-- R308, R309, R322, R323, R326: DTLOAD takes a well-formed table into the quarter's context and refuses another by its predicate;
DTSET writes lane states; DSTATE reads state and class; an invalid context raises DTUND. -/
def Obligations.HarpTables : Prop := ∀ s e (d a : BitVec 7) (o c : BitVec 2) ps qs,
  let desc := bytesWords 8 (ps.map (byteNow s))
  let es := (groupsOf 2 (hdEntries desc) (qs.map (byteNow s))).map fun b => BitVec.ofNat 16 (bytesNat b)
  let noTable := fun i => Issues i s e → harpOf s e.g c.toNat = none →
    exec i s = .next (trapLanes e .dtund (dtundDetail c.toNat 0 0 1) e.active s)
  (∀ f x, Issues (.dtload d a c) s e → Quiet s e → fld (e.once a) 35 0 % 64 = 0 →
    translate s e.g.cuKey e.g.ctx (e.once a) .read false false 64 = .ok ps → ps.length = 64 →
    (∀ p ∈ ps, p.isRemote = false ∧ placePoisoned s p = false ∧ Settled s e.g p) →
    translate s e.g.cuKey e.g.ctx (e.once a + 64) .read false false (2 * hdEntries desc) = .error (.fault f x) → f.kills = false →
    exec (.dtload d a c) s = .next (trapStrand e f x s)) ∧
  (Issues (.dtload d a c) s e → Quiet s e → fld (e.once a) 35 0 % 64 = 0 → (s.block? e.g.block).isSome = true →
    translate s e.g.cuKey e.g.ctx (e.once a) .read false false 64 = .ok ps → ps.length = 64 →
    translate s e.g.cuKey e.g.ctx (e.once a + 64) .read false false (2 * hdEntries desc) = .ok qs → qs.length = 2 * hdEntries desc →
    (∀ p ∈ ps ++ qs, p.isRemote = false ∧ placePoisoned s p = false ∧ Settled s e.g p) →
    ∃ t g, exec (.dtload d a c) s = .next t ∧ t.gang? e.id = some g ∧ Advances e g ∧ SameMemory s t ∧
      g = { reads e (.dtload d a c) with pc := g.pc, p := g.p } ∧
      (d.toNat < 24 → ∀ l < 32, lane e.g.liveLanes l = true → lane (g.pred d.toNat) l = tableOk desc es) ∧
      (tableOk desc es = false → t = s.setGang e.id g) ∧
      (tableOk desc es = true → ∃ h, harpOf t g c.toNat = some h ∧ h.desc = desc.take 4 ∧
        ∀ j < hdEntries desc, getAt 0 h.trans j = es.getD j 0)) ∧
  (∀ h, harpOf s e.g c.toNat = some h → o ≠ 3 → Issues (.dtset a o c) s e →
    (o = 2 → ∀ l < 32, lane e.active l = true → fld (e.rd a l) 4 0 < hdStates h.desc) → ∃ g,
    exec (.dtset a o c) s = .next (s.setGang e.id g) ∧ Advances e g ∧ g = { reads e (.dtset a o c) with pc := g.pc, harp := g.harp } ∧
    HarpStates e c.toNat (fun l => if o = 0 then hdStart h.desc else if o = 2 then fld (e.rd a l) 4 0 else harpState e.g c.toNat l) g) ∧
  (∀ h, harpOf s e.g c.toNat = some h → Issues (.dtset a 2 c) s e →
    (∃ l < 32, lane e.active l = true ∧ hdStates h.desc ≤ fld (e.rd a l) 4 0) → ∃ x tl,
    exec (.dtset a 2 c) s = .next (trapLanes e .dtund x tl s) ∧
    ∀ l < 32, (lane tl l = true ↔ lane e.active l = true ∧ hdStates h.desc ≤ fld (e.rd a l) 4 0)) ∧
  (∀ h, harpOf s e.g c.toNat = some h → Issues (.dstate d c) s e → RegResult s e (.dstate d c) d fun l v =>
    v = word (hdClass h.desc (harpState e.g c.toNat l) * 256 + harpState e.g c.toNat l)) ∧
  noTable (.dtset a o c) ∧ noTable (.dadd d a a c) ∧ noTable (.dsub d a a c) ∧ noTable (.dconv d a c) ∧ noTable (.dcmp d a a c) ∧
  noTable (.dstate d c)

/-- R310, R324, R325: DADD, DSUB and DCONV run a table over the digits of every active lane, DSUB on complemented digits, and owe the
emitted digits; DCMP keeps no digits and writes three predicates from the classes reached; a lane with no valid transition raises
DTUND and nothing changes. -/
def Obligations.Transductions : Prop := ∀ s e (d a b : BitVec 7) (c : BitVec 2) h st r',
  let owes := fun (i : Instr) (flip : Bool) (y : Nat → W64) =>
    (∀ l < 32, lane e.active l = true →
      Transduces h flip false (harpState e.g c.toNat l) (e.rd a l) (y l) (e.rd d l) (st l) (r' l)) →
    ∃ g, exec i s = .next (({ s with fresh := s.fresh + 1 } : State).setGang e.id g) ∧
      Owed e i d s.fresh r' { g with harp := e.g.harp } ∧ HarpStates e c.toNat st g
  let traps := fun (i : Instr) (flip keep : Bool) (y r : Nat → W64) =>
    let fails := fun l => ∀ st' r', ¬Transduces h flip keep (harpState e.g c.toNat l) (e.rd a l) (y l) (r l) st' r'
    (∃ l < 32, lane e.active l = true ∧ fails l) → ∃ x tl, exec i s = .next (trapLanes e .dtund x tl s) ∧
      ∀ l < 32, (lane tl l = true ↔ lane e.active l = true ∧ fails l)
  let mismatch := fun (i : Instr) => exec i s = .next (trapLanes e .dtund (dtundDetail c.toNat 0 0 2) e.active s)
  harpOf s e.g c.toNat = some h →
  (Issues (.dadd d a b c) s e → (hdUnary h.desc = false → owes (.dadd d a b c) false (e.rd b) ∧
    traps (.dadd d a b c) false false (e.rd b) (e.rd d)) ∧ (hdUnary h.desc = true → mismatch (.dadd d a b c))) ∧
  (Issues (.dsub d a b c) s e → (hdUnary h.desc = false → owes (.dsub d a b c) true (e.rd b) ∧
    traps (.dsub d a b c) true false (e.rd b) (e.rd d)) ∧ (hdUnary h.desc = true → mismatch (.dsub d a b c))) ∧
  (Issues (.dconv d a c) s e → (hdUnary h.desc = true → owes (.dconv d a c) false (fun _ => 0) ∧
    traps (.dconv d a c) false false (fun _ => 0) (e.rd d)) ∧ (hdUnary h.desc = false → mismatch (.dconv d a c))) ∧
  (Issues (.dcmp d a b c) s e → (hdUnary h.desc = true → mismatch (.dcmp d a b c)) ∧ (hdUnary h.desc = false →
    traps (.dcmp d a b c) false true (e.rd b) (fun _ => 0) ∧ (d.toNat + 2 < 24 → (∀ l < 32, lane e.active l = true →
      Transduces h false true (harpState e.g c.toNat l) (e.rd a l) (e.rd b l) 0 (st l) 0) →
    ∃ g, exec (.dcmp d a b c) s = .next (s.setGang e.id g) ∧ Advances e g ∧ HarpStates e c.toNat st g ∧
      g = { reads e (.dcmp d a b c) with pc := g.pc, p := g.p, harp := g.harp } ∧
      (∀ q, (q < d.toNat ∨ d.toNat + 2 < q) → g.pred q = e.g.pred q) ∧
      ∀ j < 3, ∀ l < 32, lane (g.pred (d.toNat + j)) l =
        if lane e.active l then hdClass h.desc (st l) == 2 + j else lane (e.g.pred (d.toNat + j)) l)))

/-- R63, R64, R312, R327, R328: CBLOAD writes one or both codebooks; CBRD reads four entries; SYSRD and SYSWR act in a system context
and raise ILLOP elsewhere or for a number outside the table; TLOG logs the lowest active lane's value. -/
def Obligations.CodebooksAndSystem : Prop := ∀ s e (d a : BitVec 7) (x q : BitVec 2) (b : BitVec 1) (n : BitVec 9) ps,
  let byte := fun j => (ps.map (byteNow s)).getD j 0
  (Issues (.cbload a x) s e → Quiet s e → x ≠ 3 → fld (e.once a) 35 0 % (if x = 2 then 64 else 32) = 0 →
    translate s e.g.cuKey e.g.ctx (e.once a) .read false false (if x = 2 then 64 else 32) = .ok ps →
    ps.length = (if x = 2 then 64 else 32) →
    (∀ p ∈ ps, p.isRemote = false ∧ placePoisoned s p = false ∧ Settled s e.g p) → ∃ g,
    exec (.cbload a x) s = .next (s.setGang e.id g) ∧ Advances e g ∧
    g = { reads e (.cbload a x) with pc := g.pc, books := g.books } ∧ ∀ k < 32, getAt 0 g.books k =
      if x = 2 ∨ k / 16 = x.toNat then byte (2 * (if x = 2 then k else k % 16) + 1) ++ byte (2 * (if x = 2 then k else k % 16))
      else getAt 0 e.g.books k) ∧
  (Issues (.cbrd d q b) s e → RegResult s e (.cbrd d q b) d fun _ v =>
    ∀ j < 4, sub v j 16 = (getAt 0 e.g.books (16 * b.toNat + 4 * q.toNat + j)).toNat) ∧
  (Issues (.sysrd d n) s e → 112 ≤ d.toNat → e.sys = true → (n = 5 → rising s.dies = true) →
    (n.toNat < 6 ∨ 0x10 ≤ n.toNat ∧ n.toNat ≤ 0x17) → ∃ t g v,
    exec (.sysrd d n) s = .next t ∧ t = { s.setGang e.id g with tick := t.tick, dies := t.dies } ∧ SameMemory s t ∧ Advances e g ∧
    g = { reads e (.sysrd d n) with pc := g.pc, sreg := g.sreg } ∧ (n ≠ 5 → t = s.setGang e.id g) ∧
    (∀ r, getAt Reg.zero g.sreg r = if r = d.toNat - 112 then ⟨v, .full⟩ else getAt Reg.zero (reads e (.sysrd d n)).sreg r) ∧
    (n.toNat < 5 → v = word ([e.g.die, e.g.cu, e.g.quarter, e.g.slot, e.g.ctx].getD n.toNat 0)) ∧
    (n = 5 → v = word (t.die e.g.die).clock ∧ (s.die e.g.die).clock < (t.die e.g.die).clock) ∧
    (0x10 ≤ n.toNat → v = getAt 0 (s.die e.g.die).scr (n.toNat - 0x10))) ∧
  (Issues (.sysrd d n) s e → (e.sys = false ∨ 6 ≤ n.toNat ∧ n.toNat < 0x10 ∨ 0x17 < n.toNat) →
    exec (.sysrd d n) s = .next (trapStrand e .illop 0 s)) ∧
  (Issues (.syswr a n) s e → e.sys = true → 0x10 ≤ n.toNat → n.toNat ≤ 0x17 → ∃ t g y, exec (.syswr a n) s = .next t ∧
    t = { s.setGang e.id g with dies := t.dies } ∧ Advances e g ∧ g = { reads e (.syswr a n) with pc := g.pc } ∧
    (∀ k, t.die k = if k = e.g.die then y else s.die k) ∧ y = { s.die e.g.die with scr := y.scr } ∧
    ∀ j, getAt 0 y.scr j = if j = n.toNat - 0x10 then e.once a else getAt 0 (s.die e.g.die).scr j) ∧
  (Issues (.syswr a n) s e → (e.sys = false ∨ n.toNat < 0x10 ∨ 0x17 < n.toNat) →
    exec (.syswr a n) s = .next (trapStrand e .illop 0 s)) ∧
  (Issues (.tlog a) s e → ∃ g, Advances e g ∧ g = { reads e (.tlog a) with pc := g.pc } ∧ exec (.tlog a) s = .next
    (if e.active = 0 then s.setGang e.id g
     else logGang (s.setGang e.id g) e.g 1 Code.trapsw.num e.iss.pc e.active (e.rd a (lowestLane e.active))))

/-- R20, R22, R23: a quarter between runs chooses, among its eligible gangs, the earliest promoted one, or else one of the highest
priority, next in that priority's round robin; in it the strand next in turn begins a run; a gang that has stayed eligible through 48
choices is promoted; a packet that arrives makes the strands that wait for it compete again. R77, R152, R162, R195, R230, R302, R332: a
result fills the registers that still wait for it, and no other; a waiting access takes a free replay slot; a counter falls by one for
the oldest operation of its class once that is complete, and strands that wait for it go on unless the transfer sequencer runs; an
acknowledgement completes its remote writes. -/
def Obligations.SchedulingAndResults : Prop := ∀ s q id g l bs,
  (rising s.gangs = true → (s.quarter q).run = none → (∀ x ∈ gangsOn s q, x.2.waited < 48) → eligibleGangs s q false ≠ [] → ∃ t r h k,
    exec (.runArbitration q) s = .next t ∧ (t.quarter q).run = some r ∧ t.focus = some q ∧ (r.gang, h) ∈ eligibleGangs s q false ∧
    r.count = 0 ∧ r.packet = none ∧ k ∈ eligibleStrands s r.gang h false ∧ r.lanes = h.runnable k ∧
    (∀ j ∈ eligibleStrands s r.gang h false,
      let start := match h.lastLane with
        | some n => n + 1
        | none => 0
      roundFrom start 32 k ≤ roundFrom start 32 j) ∧
    ((∃ x ∈ eligibleGangs s q false, x.2.promoted.isSome = true) → h.promoted.isSome = true ∧
      ∀ x ∈ eligibleGangs s q false, x.2.promoted.isSome = true → h.promoted.getD 0 ≤ x.2.promoted.getD 0) ∧
    ((∀ x ∈ eligibleGangs s q false, x.2.promoted = none) → ∀ x ∈ eligibleGangs s q false, x.2.prio ≤ h.prio ∧
      (x.2.prio = h.prio → roundFrom (getAt 0 (s.quarter q).rr h.prio) 16 h.slot ≤ roundFrom (getAt 0 (s.quarter q).rr h.prio) 16 x.2.slot))) ∧
  (s.gang? id = some g → 48 ≤ g.waited → g.promoted = none → ∃ t x, exec (.gangPromotion id) s = .next t ∧
    t = (s.setQuarter g.qKey x).setGang id { g with promoted := some (s.quarter g.qKey).promotions } ∧
    x = { s.quarter g.qKey with promotions := (s.quarter g.qKey).promotions + 1 }) ∧
  (s.gang? id = some g → g.parkOf l = .fetchWait → fetchPacket s g (g.pcOf l) = .ok bs → rising g.park = true → ∃ h,
    exec (.instructionFetchFill id l) s = .next (s.setGang id h) ∧ h = { g with park := h.park } ∧
    ∀ k < 32, h.parkOf k = if lane (g.strandOf l) k = true ∧ g.parkOf k = .fetchWait then .ready else g.parkOf k) ∧
  (s.gang? id = some g → g.parkOf l = .fetchWait → ∀ m, fetchPacket s g (g.pcOf l) = .error m →
    (∃ j n, m = .notres j n) ∨ (∃ t, m = .hold t) → exec (.instructionFetchFill id l) s = .next s) ∧
  (∀ p h rest c cu k r,
    (s.gang? id = some g → g.pending.find? (fun x => x.ticket == p.ticket) = some p → ∃ g',
      exec (.resultReturn id p.ticket) s = .next (s.setGang id g') ∧
      g' = { g with v := g'.v, sreg := g'.sreg, pending := g.pending.erase p, counted := g'.counted } ∧
      g'.counted = (if g.counted.any fun y => y.ticket == p.ticket && y.cls == 1 then completeOp g p.ticket else g).counted ∧
      ((p.vs.map Prod.fst).Nodup → ∀ x ∈ p.vs, lane g.exited (x.1 % 32) = false → (getAt Reg.zero g.v x.1).st = .empty p.ticket →
        getAt Reg.zero g'.v x.1 = ⟨x.2, .full⟩) ∧
      ((p.ss.map Prod.fst).Nodup → ∀ x ∈ p.ss, (getAt Reg.zero g.sreg x.1).st = .empty p.ticket →
        getAt Reg.zero g'.sreg x.1 = ⟨x.2, .full⟩) ∧
      (∀ n, ((∀ x ∈ p.vs, x.1 ≠ n) ∨ (getAt Reg.zero g.v n).st ≠ .empty p.ticket ∨ lane g.exited (n % 32) = true) →
        getAt Reg.zero g'.v n = getAt Reg.zero g.v n) ∧
      (∀ n, ((∀ x ∈ p.ss, x.1 ≠ n) ∨ (getAt Reg.zero g.sreg n).st ≠ .empty p.ticket) →
        getAt Reg.zero g'.sreg n = getAt Reg.zero g.sreg n)) ∧
    ((s.cu cu).replayWait = h :: rest → (s.cu cu).replay.length < 64 → exec (.replaySlotFree cu) s = .next (s.setCu cu
      { s.cu cu with replay := (s.cu cu).replay ++ [h], replayWait := rest })) ∧
    ((s.cu cu).replay.length = 64 → exec (.replaySlotFree cu) s = .next s) ∧
    (s.gang? id = some g → k < 4 → g.counted.find? (fun x => x.cls == k) = some c → c.done = true → 0 < g.kcOf k → ∃ t g',
      exec (.counterReport id k) s = .next t ∧ t = s.setGang id g' ∧
      g' = { g with counted := g.counted.erase c, kc := g'.kc, pc := g'.pc, park := g'.park } ∧
      (∀ n, g'.kcOf n = if n = k then g.kcOf k - 1 else g.kcOf n) ∧
      ∀ l < 32, match g.parkOf l, g.sequencing with
        | .waitc n m, false => if g'.kcOf n ≤ m then g'.pcOf l = nextSlot (g.pcOf l) ∧ g'.parkOf l = .ready
            else g'.pcOf l = g.pcOf l ∧ g'.parkOf l = g.parkOf l
        | .yieldw n m dest, false => if g'.kcOf n ≤ m then g'.pcOf l = dest ∧ g'.parkOf l = .ready
            else g'.pcOf l = g.pcOf l ∧ g'.parkOf l = g.parkOf l
        | _, _ => g'.pcOf l = g.pcOf l ∧ g'.parkOf l = g.parkOf l) ∧
    (s.gang? id = some g → g.counted.find? (fun x => x.cls == k) = some c → c.done = false →
      ∃ t, exec (.counterReport id k) s = .next t ∧ t.gang? id = some g ∧ t = { s with gangs := t.gangs }) ∧
    (s.gang? id = some g → g.sampled = [] → g.remotes.find? (fun x => x.ticket == r.ticket) = some r → ∃ g',
      exec (.remoteWriteAck id r.ticket) s = .next (s.setGang id g') ∧ g' = { g with remotes := g.remotes.erase r, counted := g'.counted } ∧
      ((∀ x ∈ g.accesses, x.acc.ticket = r.ticket → x.held = false ∧ ∀ b ∈ x.bytes, b.1.isRemote = false) →
        (∀ x ∈ g.remotes.erase r, x.ticket ≠ r.ticket) → (∀ x ∈ g.contribs, x.ticket ≠ r.ticket) →
        (∀ x ∈ (s.cu g.cuKey).replay ++ (s.cu g.cuKey).replayWait, x.gang = id → x.acc.ticket ≠ r.ticket) →
        g'.counted = g.counted.map fun y => if y.ticket = r.ticket then { y with done := true } else y) ∧
      ((∃ x ∈ (s.cu g.cuKey).replay ++ (s.cu g.cuKey).replayWait, x.gang = id ∧ x.acc.ticket = r.ticket) → g'.counted = g.counted)))

/-- R138, R208, R216, R219, R220, R225, R228, R241, R257, R259, R337: what becomes of an access on its way. A store that no order keeps
back is performed and its bytes are the coherent ones, a release at recovery scope leaving the Rind in memory; a load fills what waits
for it with the bytes as they then are, an acquire emptying the CU's L1; a poll reads its counter; an atomic or reduction changes its
variable alone, in one step, and an atomic brings the old value back. An access that order keeps back stays; a release at scope BLK or
CLU shows the stores before it, and is performed. -/
def Obligations.AccessesPerformed : Prop := ∀ s id n g x, Performs s id n g x →
  let P := fun k => x.acc.release = false ∨ x.acc.scope ≠ 5 ∨ NotMirror s k
  let ps := x.bytes.map Prod.fst
  let regs := x.acc.dests.Nodup ∧ ∀ k ∈ x.acc.dests, k < 2 ^ 32
  let emptied := fun t : State => x.acc.acquire = true → 1 ≤ x.acc.scope → (t.cu g.cuKey).l1 = [] ∧ (t.cu g.cuKey).l1Since = t.writes
  let w := atomWidth x.acc.mode
  let new := fun old => atomNew x.acc.mode x.acc.aop old x.acc.v0.toNat x.acc.v1.toNat % 2 ^ (8 * w)
  (x.acc.kind = .store → x.acc.dests = [] → Tidy s → (∀ p ∈ ps, Writable s p) → Apart x.bytes → ∃ t,
    exec (.writeAccepted id n) s = .next t ∧ t.gang? id = some (without g x) ∧ StoredAs s t x.bytes P ∧
    ((∀ y ∈ (without g x).accesses, y.acc.ticket ≠ x.acc.ticket) → (∀ p ∈ x.clears, p ∉ t.poison) ∧
      (x.acc.release = true → x.acc.scope = 5 → ∀ k, inRind s k = true → NotMirror s k → rennetVar s (k / 8 * 8) = none →
        memRead t k = coherent t k ∧ ∀ y ∈ t.dies, find y.2.l2 k = none))) ∧
  (x.acc.kind = .load → regs → (∀ p ∈ ps, Settled s g p) → ∃ t g', exec (.writeAccepted id n) s = .next t ∧ SameMemory s t ∧
    t.gang? id = some g' ∧ Fills g x (loadWords (ps.map (byteNow s))) g' ∧ emptied t) ∧
  (x.acc.kind = .poll → regs → ∃ t g', exec (.writeAccepted id n) s = .next t ∧ SameMemory s t ∧ t.gang? id = some g' ∧
    Fills g x [counterStatus ((lineBase s g.cuKey g.ctx x.acc.ptr).bind (counterOf s))] g' ∧ emptied t) ∧
  ((x.acc.kind = .atom ∧ regs ∨ x.acc.kind = .red ∧ x.acc.dests = []) → Tidy s →
    (∀ base, x.acc.scratch = false → ps = ((List.range w).map fun i => .phys (base + i)) → base % w = 0 → base + w ≤ 2 ^ 40 →
      RennetTakes s (base / 8 * 8) → ∃ t g', exec (.writeAccepted id n) s = .next t ∧ t.gang? id = some g' ∧
      Fills g x [word (bytesNat (ps.map (byteNow s)))] g' ∧ emptied t ∧
      bytesNat (ps.map (byteNow t)) = new (bytesNat (ps.map (byteNow s))) ∧
      ∀ k, (k < base ∨ base + w ≤ k) → coherent t k = coherent s k) ∧
    (∀ blk off, ps = ((List.range w).map fun i => .spad blk (off + i)) → (s.block? blk).isSome = true →
      ∃ t g', exec (.writeAccepted id n) s = .next t ∧ t.gang? id = some g' ∧ SameMemory s t ∧
      Fills g x [word (bytesNat (ps.map (byteNow s)))] g' ∧ emptied t ∧
      bytesNat (ps.map (byteNow t)) = new (bytesNat (ps.map (byteNow s))) ∧
      ∀ b o, .spad b o ∉ ps → byteNow t (.spad b o) = byteNow s (.spad b o)))

/-- R216, R235, R243, R252, R257, R259, R335: an access that order keeps back stays; a release at scope BLK or CLU shows the stores before
it to the gangs in its scope and is performed, memory being otherwise as it was. A piece of a copy moves its bytes; pieces split no
aligned destination word; a copy without bytes left is complete. A contribution is performed once and counted; a checkpoint commits its
recovery point. -/
def Obligations.WorkPerformed : Prop := ∀ s id g, s.gang? id = some g → g.sampled = [] → Tidy s →
  (∀ n x, g.accesses[n]? = some x → (g.accesses.map Waiting.ticket).Nodup → mayPerform s g (g.accesses.take n) x = false →
    (x.acc.release = false ∨ 1 < x.acc.scope) → exec (.writeAccepted id n) s = .next s) ∧
  (∀ n x, g.accesses[n]? = some x → (g.accesses.map Waiting.ticket).Nodup → x.acc.kind = .store → x.acc.dests = [] →
    x.acc.release = true → x.acc.scope ≤ 1 → x.held = false → shownTo s g = [] → g.remotes = [] → (∀ b ∈ x.bytes, Writable s b.1) →
    Apart x.bytes →
    (∀ o ∈ g.accesses.take n, precedes o x = true → o.simple = true ∧ o.acc.kind = .store ∧ o.acc.ticket ≠ x.acc.ticket ∧
      o.acc.acquire = false ∧ (o.toHost && x.toHost) = false ∧ meets o.bytes (x.bytes.map Prod.fst) = false) →
    ∃ t g', exec (.writeAccepted id n) s = .next t ∧ t.gang? id = some g' ∧ StoredAs s t x.bytes (fun _ => True) ∧
      g' = { g with accesses := g'.accesses } ∧ (∀ y ∈ g'.accesses, y.ticket ≠ x.ticket) ∧
      ∀ m o, g.accesses[m]? = some o → m ≠ n → ∃ y ∈ g'.accesses, y = { o with shown := y.shown } ∧
        (m < n → precedes o x = true → y.shownAt x.acc.scope = true) ∧ (¬(m < n ∧ precedes o x = true) → y = o)) ∧
  (∀ op k c ps from_ dest, g.copies.find? (fun y => y.ticket == op.ticket) = some op → choosePiece s g op k = some (c, ps) →
    piecePlaces s g op c ps = (.ok from_, .ok dest) → from_.length = dest.length →
    (∀ p ∈ from_, p.isRemote = false ∧ placePoisoned s p = false) → (∀ p ∈ dest, p ≠ .zero → Writable s p) →
    (∀ p ∈ dest, p ∉ clashes s g op c.lane) →
    let bs := (dest.zip (from_.map (byteNow s))).filter fun b => !decide (b.1 = .zero)
    Apart bs → ∃ t g' held, exec (.copyPiece id op.ticket k) s = .next t ∧ t.gang? id = some g' ∧ StoredAs s t bs (fun _ => True) ∧
    (∀ h, h ∈ held ↔ h ∈ op.held ∧ stillMissing s g.cuKey g.ctx h.1 h.2.1 h.2.2 = true) ∧
    (op.without c ps = [] → g' = completeOp { g with copies := g.copies.filter fun y => y.ticket != op.ticket } op.ticket) ∧
    (op.without c ps ≠ [] → g' = { g with copies := g.copies.map fun y =>
      if y.ticket = op.ticket then { op with lanes := op.without c ps, held := held } else y })) ∧
  (∀ (op : CopyOp) (c : CopyLane), op.box = none → op.lanes = [c] → 0 < c.len → c.len ≤ 256 →
    choosePiece s g op 0 = some (c, c.positions) ∧ op.without c c.positions = []) ∧
  (∀ (c : CopyLane) q, c.pos ≤ q → q < c.pos + c.len → q ∈ c.piece q ∧ (c.piece q).length ≤ 256 ∧
    ∀ p ∈ c.piece q, c.pos ≤ p ∧ p < c.pos + c.len ∧ ∀ p', c.pos ≤ p' → p' < c.pos + c.len → c.target p' / 4 = c.target p / 4 →
      p' ∈ c.piece q) ∧
  (∀ ticket a ps base key c, g.contribs = [⟨ticket, [a]⟩] → g.accesses = [] → g.remotes = [] → shownTo s g = [] →
    (s.cu g.cuKey).replay = [] → (s.cu g.cuKey).replayWait = [] → a.scratch = false → isRemote s a.ptr = false →
    checkAccess s g a = .ok ps → ps = ((List.range (atomWidth a.mode)).map fun i => .phys (base + i)) →
    base % atomWidth a.mode = 0 → base + atomWidth a.mode ≤ 2 ^ 40 → RennetTakes s (base / 8 * 8) →
    lineBase (rmwAccess s g a ps).1 g.cuKey g.ctx a.ptr = some key → counterOf s key = some c → c.ready = false →
    c.landed + 1 ≠ c.declared → ∃ t, exec (.redcContribution id ticket a.lane) s = .next t ∧
    t.gang? id = some (completeOp { g with contribs := [] } ticket) ∧
    bytesNat (ps.map (byteNow t)) = atomNew a.mode a.aop (bytesNat (ps.map (byteNow s))) a.v0.toNat a.v1.toNat % 2 ^ (8 * atomWidth a.mode) ∧
    (∀ k, (k < base ∨ base + atomWidth a.mode ≤ k) → coherent t k = coherent s k) ∧
    counterOf t key = some { c with landed := c.landed + 1 }) ∧
  (∀ c x tb ps, g.checkpoint = some c → g.accesses = [] → g.remotes = [] → shownTo s g = [] → s.ctx? g.ctx = some x →
    c.obj < 2 ^ 19 → c.gen < 2 ^ 32 → readTable (readObject s g.cuKey g.ctx) c.obj = .ok tb →
    translateFrom s g.cuKey g.ctx (ownPtr c.obj) .write (imageSize s g.cuKey g.ctx c.obj - 256) 256 = .ok ps → ∃ t g' y,
    exec (.ckptCommit id) s = .next t ∧ t.gang? id = some g' ∧ g' = { g with pc := g'.pc, park := g'.park, checkpoint := none } ∧
    (∀ l < 32, if lane c.lanes l = true then g'.pcOf l = nextSlot (g.pcOf l) ∧ g'.parkOf l = .ready
      else g'.pcOf l = g.pcOf l ∧ g'.parkOf l = g.parkOf l) ∧
    t.ctx? g.ctx = some y ∧ y = { x with ckp := y.ckp } ∧ (∀ n, n ≠ c.slot → getAt 0 y.ckp n = getAt 0 x.ckp n) ∧
    ((getAt 0 x.ckp c.slot).getLsbD 63 = false ∨ fld (getAt 0 x.ckp c.slot) 31 0 < c.gen → (getAt 0 y.ckp c.slot).getLsbD 63 = true ∧
      fld (getAt 0 y.ckp c.slot) 50 32 = c.obj ∧ fld (getAt 0 y.ckp c.slot) 31 0 = c.gen) ∧
    ((getAt 0 x.ckp c.slot).getLsbD 63 = true → c.gen ≤ fld (getAt 0 x.ckp c.slot) 31 0 →
      getAt 0 y.ckp c.slot = getAt 0 x.ckp c.slot) ∧
    ∀ (i k : Nat), ps[i]? = some (.phys k) → ps.Nodup → (∀ p ∈ ps, ∃ j, p = .phys j ∧ inHbm j = true) → inRind s k = true →
      NotMirror s k → rennetVar s (k / 8 * 8) = none → (∀ a, directoryAt s x.slot = some a → k < a ∨ a + 64 ≤ k) →
      some (memRead t k) = (commitRecord c.obj c.gen tb.1 g.ctx tb.2)[i]?)

/-- R154, R302, R304, R306, R367, R372, R373, R374, R380, R391: the fault service maps a sub-tile or declines it; kills; the debug
service's stops, resumptions, steps, writes and breakpoints; the outcome of a transfer; a CLAIM served late; a gang's end. -/
def Obligations.FaultsDebugAndTransfers : Prop := ∀ s id g, s.gang? id = some g →
  let lanesMove := fun (h : Gang) (m : Mask) => ∀ l < 32, if lane m l = true then h.pcOf l = nextSlot (g.pcOf l) ∧ h.parkOf l = .ready
    else h.pcOf l = g.pcOf l ∧ h.parkOf l = g.parkOf l
  (∀ ctx x obj tile sub frame fill, s.ctx? ctx = some x → (∀ c ∈ s.cus, c.2.replay = [] ∧ c.2.replayWait = []) → s.rind = [] →
    rising s.dies = true → s.poison = [] → (∀ y ∈ s.dies, y.2.flags = []) →
    let r := recordNow s x obj
    r.state = 1 → r.wf = true → r.sysm = false → r.du = false → tile < r.tmlen → sub < 16 → frame < 2 ^ 24 → fill.length = 4096 →
    entState false (entryNow s r tile) = 0 → entDamaged false (entryNow s r tile) = false → ∃ t,
      exec (.faultAck ctx obj tile sub frame fill) s = .next t ∧
    coherentW64 t (r.tmap + 8 * tile) = word (2 ^ 56 + entGen false (entryNow s r tile) * 2 ^ 48 + frame * 2 ^ 16 + 2 ^ sub) ∧
    (∀ i < 4096, (frame * 65536 + sub * 4096 + i < r.tmap + 8 * tile ∨ r.tmap + 8 * tile + 8 ≤ frame * 65536 + sub * 4096 + i) →
      coherent t (frame * 65536 + sub * 4096 + i) = fill.getD i 0) ∧
    (∀ n y, find s.grids n = some y → y.ctx = ctx → ∃ z, find t.grids n = some z ∧ z = { y with saved := z.saved } ∧
      ∀ b ∈ z.saved, b.wait ≠ some (obj, tile, sub))) ∧
  (∀ obj tile sub l, s.gangs = [(id, g)] → (∀ c ∈ s.cus, c.2.replay = [] ∧ c.2.replayWait = [] ∧ c.2.shadows = []) → s.grids = [] →
    g.copies = [] → g.killed = false → g.tmask.getLsbD 0 = false → l < 32 → lowestLane (g.runnable l) = l → g.runnable l ≠ 0 →
    (∀ k < 32, lane (g.runnable l) k = false → g.parkOf k ≠ .fetchWait) → g.parkOf l = .fetchWait → ptrObj (g.pcOf l) = obj →
    fetchPacket s g (g.pcOf l) = .error (.notres tile sub) → exec (.faultDecline g.ctx obj tile sub) s =
      .next (takeTrap s id (g.runnable l) (g.pcOf l) .notres 0 (g.runnable l))) ∧
  (∀ die b, die < 4 → exec (.faultModeSet die b) s = .next (s.setDie die { s.die die with normal := b })) ∧
  (∀ code c detail, killCode code = some c → g.killed = false → g.liveLanes ≠ 0 → ∃ t h, exec (.gangKill id code detail) s = .next t ∧
    t.gang? id = some h ∧ h.killed = true ∧ h.halted = g.halted ||| g.liveLanes ∧ h.exited = g.exited ∧
    h.tcause = causeWord c.num detail (decide (c = .regue ∨ c = .sdc)) ∧
    h.pending = [] ∧ h.accesses = (g.accesses.filter fun y => y.shown.isSome) ∧ h.copies = [] ∧ h.counted = [] ∧
    h.sampled = [] ∧ h.v = g.v ∧ h.sreg = g.sreg ∧ h.tmask = g.tmask ∧
    ∀ l < 32, lane g.liveLanes l = true → getAt .none h.haltReason l = .killed) ∧
  (∀ r a, g.killed = false → g.remotes.head? = some r → r.accs.head? = some a → reaches s (ptrNode a.ptr) = false → ∃ t h,
    exec (.remoteTimeout id) s = .next t ∧ t.gang? id = some h ∧ h.killed = true ∧ h.tcause = causeWord Code.memue.num 0 false ∧
    h.tpc = a.pc ∧ getAt 0 t.errors 7 = getAt 0 s.errors 7 + 1) ∧
  (g.killed = false → ∃ t h, exec (.debugStop 0 id) s = .next t ∧ OnlyGang s t id h ∧
    h = { g with debugStop := true, stepOne := none, haltReason := h.haltReason, waited := 0, promoted := none } ∧
    (∀ q r, find t.quarters q = some r → ∀ u, r.run = some u → u.gang ≠ id) ∧
    ∀ l < 32, getAt .none h.haltReason l = if lane g.liveLanes l = true ∧ getAt .none g.haltReason l = .none then .debug
      else getAt .none g.haltReason l) ∧
  (g.killed = false → ∃ h, exec (.debugResume id) s = .next (s.setGang id h) ∧
    h = { g with pc := h.pc, park := h.park, halted := h.halted, haltReason := h.haltReason, debugStop := false, stepOne := none } ∧
    (rising g.park = true → ∀ l < 32, h.parkOf l = if g.parkOf l = .rendezvous then .ready else g.parkOf l) ∧
    ∀ l < 32, match getAt .none g.haltReason l with
      | .halt => lane g.liveLanes l = true → h.pcOf l = nextSlot (g.pcOf l) ∧ lane h.halted l = false ∧ getAt .none h.haltReason l = .none
      | .debug => h.pcOf l = g.pcOf l ∧ lane h.halted l = lane g.halted l ∧ getAt .none h.haltReason l = .none
      | x => h.pcOf l = g.pcOf l ∧ lane h.halted l = lane g.halted l ∧ getAt .none h.haltReason l = x) ∧
  (g.killed = true → exec (.debugResume id) s = .next (s.setGang id g)) ∧
  (∀ l < 32, g.debugStop = true → g.killed = false → lane g.liveLanes l = true →
    (∀ k < 32, lane (g.strandOf l) k = true → getAt .none g.haltReason k ≠ .halt) →
    exec (.debugSingleStep id l) s = .next (s.setGang id { g with stepOne := some l })) ∧
  (∀ item idx l v, g.debugStop = false → exec (.debugWrite id item idx l v) s = .next s) ∧
  (∀ item idx l v, g.debugStop = true → g.sequencing = false → item < 12 → ∃ h,
    exec (.debugWrite id item idx l v) s = .next { s.setGang id h with fresh := s.fresh + 1 } ∧
    (item = 0 → idx < g.wsize → idx < 112 → l < 32 → h.reg idx l = ⟨v, .full⟩ ∧ OnlyRowsCount g h ∧
      h = { g with v := h.v, bound := h.bound, boundOut := h.boundOut, perf := h.perf }) ∧
    (item = 1 → idx < 16 → h = { g with sreg := h.sreg } ∧ ∀ n, getAt Reg.zero h.sreg n = if n = idx then ⟨v, .full⟩ else getAt Reg.zero g.sreg n) ∧
    (item = 2 → idx < 24 → l < 32 → h = { g with p := h.p } ∧ lane (h.pred idx) l = v.getLsbD 0) ∧
    (item = 3 → h = { g with mode := modeBits (v.setWidth 32) }) ∧
    (item = 4 → idx < 8 → h = { g with cb := h.cb } ∧ ∀ n, getAt 0 h.cb n = if n = idx then v.setWidth 32 else getAt 0 g.cb n) ∧
    (item = 5 → l < 32 → lane g.liveLanes l = true → goodTarget s (g.pcOf l) v = true → h = { g with pc := h.pc, park := h.park } ∧ h.pcOf l = v) ∧
    (item = 5 → goodTarget s (g.pcOf l) v = false → h = g) ∧
    (item = 8 → h = { g with tcause := causeBits (v.setWidth 32) }) ∧ (item = 9 → h = { g with tpc := v }) ∧
    (item = 10 → h = { g with tlanes := v.setWidth 32 }) ∧
    (item = 11 → h = { g with tmask := v.setWidth 32 &&& 1, handlerLanes := if v.getLsbD 0 then g.handlerLanes else 0 })) ∧
  (∀ idx l v, g.debugStop = true → g.sequencing = false → idx < 1024 * tilesFor s g → ∀ b, s.block? g.block = some b → ∃ t d,
    exec (.debugWrite id 12 idx l v) s = .next t ∧ t.block? g.block = some d ∧ d = { b with acc := d.acc } ∧
    ∀ k, getAt 0 d.acc k = if k = 16384 * g.quarter + idx then v.setWidth 32 else getAt 0 b.acc k) ∧
  (∀ ctx x n bp, s.ctx? ctx = some x → n < 4 → (∀ b, bp = some b → b.1 < 256 ∧ b.2 < 2 ^ 36) → ∃ t y,
    exec (.breakpointSet ctx n bp) s = .next t ∧ t.ctx? ctx = some y ∧ y = { x with breakpoints := y.breakpoints } ∧
    ∀ k, find y.breakpoints k = if k = n then bp else find x.breakpoints k) ∧
  (g.xferPend = true → g.killed = false → g.debugStop = false → g.liveLanes ≠ 0 → hasHeld s id g.cuKey (fun _ => true) = false →
    (enterable s g g.xver = none → (∀ l < 32, if lane g.moving l = true then atSafept (g.parkOf l) = true else
        (∀ k n, g.parkOf l ≠ .waitc k n) ∧ ∀ k n c, g.parkOf l ≠ .yieldw k n c) → ∃ h,
      exec (.transferSequence id) s = .next (s.setGang id h) ∧ h = { g with pc := h.pc, park := h.park, gstat := h.gstat, sequencing := false } ∧
      lanesMove h g.moving ∧ h.xferPend = false ∧ h.xver = 1 ∧ h.curv = g.curv) ∧
    (∀ w src tgt ms cs, enterable s g g.xver = some w → runningMap s g = .ok src →
      readMap s g (verMap w) (fpWindow (verFoot w)) ((s.block? g.block).map Block.spb |>.getD 0) = .ok tgt →
      (∀ l < 32, lane g.moving l = true → atSafept (g.parkOf l) = true) → transferCheck s g w = none → movers s src tgt g = .ok ms →
      badIds ms = false → badPlaces g ms = false →
      ((∃ k < 4, drained g ms k = false) → exec (.transferSequence id) s = .next (s.setGang id { g with sequencing := true })) ∧
      ((∀ k < 4, drained g ms k = true) → fetchAll s id g src tgt ms = .ok cs → khProt w = g.prot →
      ∃ t h, exec (.transferSequence id) s = .next t ∧ t.gang? id = some h ∧ h.curv = g.xver ∧ h.xferPend = false ∧ h.xver = 0 ∧
        h.sequencing = false ∧
        h.c16 = khC16 w ∧ h.prot = g.prot ∧ h.exited = g.exited ∧ h.wb = g.wb ∧
        (∀ m ∈ ms, ∀ l, lane m.lanes l = true → h.pcOf l = nextSlot (withOff (verCode w) m.tgt.pc) ∧ h.parkOf l = .ready) ∧
        ∀ c, cs = [c] → c.desc.kind = 0 → c.desc.loc < 112 → ∀ l, lane c.lanes l = true → h.reg c.desc.loc l = c.val l))) ∧
  (∀ l, g.sequencing = true ∨ g.xferPend = false → exec (.transferReleaseTimeout id l) s = .next s) ∧
  (∀ l < 32, ∀ since, g.parkOf l = .safept since → g.sequencing = false → g.xferPend = true → ∃ t h,
    exec (.transferReleaseTimeout id l) s = .next t ∧ t.gang? id = some h ∧
    h = { g with pc := h.pc, park := h.park } ∧ lanesMove h (g.strandOf l &&& ~~~g.halted) ∧
    since + 4096 ≤ (t.die g.die).clock ∧ (s.die g.die).clock ≤ (t.die g.die).clock) ∧
  (∀ b q c rest, s.block? g.block = some b → waitingClaims s b q = c :: rest → c.2.1 = id → claimTooWide g c.2.2.2 = false →
    poolHas s g c.2.2.2 = true → g.nrows = g.wsize → ∃ t h d,
    exec (.claimGrant g.block q) s = .next t ∧ t.gang? id = some h ∧ t.block? g.block = some d ∧
    h = { g with v := h.v, nrows := g.nrows + c.2.2.2, wsize := g.wsize + c.2.2.2, pc := h.pc, park := h.park } ∧ lanesMove h c.2.2.1 ∧
    (∀ k, k < 32 * g.wsize → getAt Reg.zero h.v k = getAt Reg.zero g.v k) ∧
    (∀ k, 32 * g.wsize ≤ k → k < 32 * h.wsize → getAt Reg.zero h.v k = Reg.zero) ∧
    d = { b with claims := b.claims.erase c, pool := d.pool } ∧
    getAt 0 d.pool g.quarter = getAt 0 b.pool g.quarter - c.2.2.2) ∧
  (∀ b, g.killed = false → gangGone s id g = true → s.block? g.block = some b → ∃ t, exec (.gangEnd id) s = .next t ∧ t.gang? id = none ∧
    ((∃ n ∈ b.gangs, n ≠ id ∧ ∃ h, s.gang? n = some h ∧ h.killed = false) →
      t = { s with gangs := t.gangs, quarters := t.quarters, focus := t.focus } ∧
      ∀ n, n ≠ id → t.gang? n = s.gang? n) ∧
    ((∀ n ∈ b.gangs, n ≠ id → s.gang? n = none) → (∀ n ∈ b.gangs, bbcOwed s n (48 * b.die + b.cu) = false) →
      (∀ y ∈ s.quarters, y.2.matrix = []) → t.block? g.block = none)) ∧
  (gangGone s id g = false → g.killed = false → (g.liveLanes ≠ 0 ∨ bbcOwed s id g.cuKey = false) → exec (.gangEnd id) s = .next s)

/-- R16, R25, R46, R71, R260, R278, R283, R289, R290, R291, R292, R293: a CU takes its own newest task, else steals the oldest that it may,
else takes a spilled one; a task whose inputs are copied starts as a block of one gang, its CU's L1 emptied; a block is placed in its
die's order, at its context's turn and where it fits, and each of its gangs starts at the version's entry; a grid that is over pays what it
owes; a context that is stopped leaves its grids in its save area (R378), a slice pays off what its context owes, and emergency areas are
copied out (R379). -/
def Obligations.PlacementAndSaves : Prop := ∀ s cu q slot ctx name x,
  (∀ t b, (s.cu cu).shadows.length < 8 → objectWords s cu t.ctx t.ptr 16 = .ok b → taskFits s cu q slot b = true →
    let entered := fun (u : State) => u.setCu cu { u.cu cu with shadows := (s.cu cu).shadows ++
      [⟨t, b, q, slot, (List.range 4).filter fun j => lbSource b j != 0, [], none⟩] }
    (∀ ts, (s.cu cu).tasks = ts ++ [t] → exec (.taskDispatch cu q slot) s = .next (entered (s.setCu cu { s.cu cu with tasks := ts }))) ∧
    (∀ c ts, (s.cu cu).tasks = [] → c ≠ cu → (stealOrder cu).find? (fun k => match (s.cu k).tasks.head? with
        | some u => s.blocks.any fun b => b.2.ctx == u.ctx && 48 * b.2.die + b.2.cu == cu
        | none => false) = some c → (s.cu c).tasks = t :: ts →
      exec (.taskDispatch cu q slot) s = .next (entered (s.setCu c { s.cu c with tasks := ts }))) ∧
    (∀ y, (s.cu cu).tasks = [] → (stealOrder cu).find? (mayLose s cu) = none →
      s.contexts.find? (fun u => u.2.taskSpilled.any fun v => v.mayCome cu) = some (ctx, y) →
      y.taskSpilled.find? (fun v => v.mayCome cu) = some t → exec (.taskDispatch cu q slot) s = .next (entered (s.onCtx ctx fun u =>
        { u with taskSpilled := u.taskSpilled.erase t })))) ∧
  (∀ y j ps, (s.cu cu).shadows[slot]? = some y → y.inputs = [j] → inputPlaces s cu y j = .ok ps → (∀ p ∈ ps, p.isRemote = false) →
    y.spad = [] → rising s.gangs = true → ∃ t g b, exec (.taskRunnable cu slot) s = .next t ∧ t.block? s.fresh = some b ∧
    t.gang? (s.fresh + 2) = some g ∧ b.task = true ∧ b.gangs = [s.fresh + 2] ∧ b.cu = cu % 48 ∧ b.die = cu / 48 ∧ b.q0 = y.quarter ∧
    (∀ i < ps.length, getAt 0 b.spad (lbOffset y.words j + i) = byteNow s (ps.getD i .zero)) ∧
    g.block = s.fresh ∧ g.quarter = y.quarter ∧ g.slot = y.slot ∧ g.ctx = y.task.ctx ∧ g.wsize = lbWindow y.words ∧
    g.nrows = lbRows y.words ∧ g.curv = y.task.ver % 256 ∧ g.carried = y.fault ∧ (t.cu cu).l1 = [] ∧
    (t.cu cu).l1Since = t.writes ∧ g.v = [] ∧ g.p = [] ∧ g.mode = 0x1F ∧ g.exited = 0 ∧
    (∀ l < 32, g.pcOf l = lbEntry y.words ∧ g.parkOf l = .ready) ∧
    ∀ r < 4, getAt Reg.zero g.sreg r = ⟨(y.words.drop 12).getD r 0, .full⟩) ∧
  (∀ i e q0 slots, s.grid? name = some x → x.away = false → x.coop = false → together s x i = some [.start i] → startEntry s x = some e →
    frontNext s x (cu / 48) = some i → ctxTurn s x.ctx = true → khMir e = false → cu < 192 → q0 < 4 →
    fits s cu q0 (ihNeed x.header i) false = true →
    slotsGood s cu q0 (ihNeed x.header i).gangs slots = true →
    vatAllowed { s with fresh := s.fresh + 2 + ihBlocks x.header } x
      (vatFits { s with fresh := s.fresh + 2 + ihBlocks x.header } name e (clusterName s.fresh x) [.start i]) (cu / 48, cu % 48 / 4) = true →
    ∃ t b y, exec (.blockPlace name i [cu] [q0] slots) s = .next t ∧ t.block? (s.fresh + 2 + ihBlocks x.header) = some b ∧
    b.grid = name ∧ b.index = i ∧ b.die = cu / 48 ∧ b.cu = cu % 48 ∧ b.q0 = q0 ∧ b.task = false ∧ b.mirrored = false ∧
    b.gangs.length = (ihStarted x.header i).length ∧
    t.grid? name = some y ∧
    y = { x with unstarted := x.unstarted.erase i, live := x.live + 1, fronts := setAt 0 x.fronts (cu / 48) (tileKey x.header i + 1) } ∧
    ∀ (k gid : Nat), (ihStarted x.header i)[k]? = some gid → ∃ id g, b.gangs[k]? = some id ∧ t.gang? id = some g ∧
      g.block = s.fresh + 2 + ihBlocks x.header ∧ g.special = gangSpecial x i gid ∧ g.quarter = (q0 + gid) % 4 ∧
      g.slot = slots.getD k 0 ∧ g.ctx = x.ctx ∧ g.wsize = fpWindow (ihFoot x.header) ∧ g.nrows = fpRows (ihFoot x.header) ∧
      (∀ l < 32, g.pcOf l = entryPc (verCode e)) ∧ ∀ r < 16, getAt Reg.zero g.sreg r = ⟨(ihRegs x.header).getD r 0, .full⟩) ∧
  (∀ i cus q0s slots, s.grid? name = some x → (x.away = true ∨ ctxTurn s x.ctx = false ∨
      ∀ bs, together s x i = some bs → inOrder s x (cus.headD 0 / 48) bs = false) →
    exec (.blockPlace name i cus q0s slots) s = .next s) ∧
  (∀ c, s.grid? name = some x → gridOver x = true → x.completions = [c] →
    (c.signal = 0 → exec (.gridEnd name) s = .next { (if c.async then s else completeResume s c.queue) with
      grids := drop s.grids name }) ∧
    (c.signal ≠ 0 → ∀ ps, translate s frontEnd x.ctx c.signal .write false true 8 = .ok ps → ps.length = 8 → ps.Nodup →
      (∀ p ∈ ps, ∃ k, p = .phys k ∧ inHbm k = true) → s.rind = [] → rising s.dies = true → ∃ t, exec (.gridEnd name) s = .next t ∧
      find t.grids name = none ∧ bytesW64 (ps.map (byteNow t)) = c.value)) ∧
  (s.grid? name = some x → gridOver x = false → exec (.gridEnd name) s = .next s) ∧
  ((∀ g ∈ s.grids, g.2.ctx = ctx → g.2.away = true) → exec (.stopRequest ctx) s = .next s) ∧
  (s.grids = [(name, x)] → x.ctx = ctx → x.away = false → x.saved = [] → (∀ g ∈ s.gangs, g.2.ctx ≠ ctx) → (∀ b ∈ s.blocks, b.2.grid ≠ name) →
    ∀ c, s.ctx? ctx = some c → ∃ t y d, exec (.stopRequest ctx) s = .next t ∧ t.grid? name = some y ∧ t.ctx? ctx = some d ∧
    y.away = true ∧ y.image = saveObject s ctx ∧ y.unstarted = [] ∧ y.saved = [] ∧ y.live = 0 ∧ y.tasks = 0 ∧
    y.completions = x.completions ∧ y.header = x.header ∧ d.savedImage = true ∧ waitingTasks t name = [] ∧ t.gangs = s.gangs) ∧
  (∀ c, s.ctx? ctx = some c →
    let owed := c.overrun - min c.overrun c.slice
    let turn := setAt 0 s.ctxRr c.prio (ctx + 1)
    ((∃ y ∈ s.contexts, y.1 ≠ ctx ∧ c.prio ≤ y.2.prio ∧ wantsCus s y.1 = true) → ∃ u w, exec (.stopRequest ctx) s = .next u ∧
      ((∀ g ∈ u.gangs, g.2.ctx ≠ ctx) → exec (.sliceEnd ctx) s =
        .next (({ u with tick := u.tick + 1, ctxRr := turn } : State).onCtx ctx fun d => { d with overrun := owed + w })) ∧
      ((∃ g ∈ u.gangs, g.2.ctx = ctx) → exec (.sliceEnd ctx) s = .next u)) ∧
    ((∀ y ∈ s.contexts, y.1 ≠ ctx → c.prio ≤ y.2.prio → wantsCus s y.1 = false) →
      exec (.sliceEnd ctx) s = .next (({ s with ctxRr := turn } : State).onCtx ctx fun d => { d with overrun := owed }))) ∧
  ((s.cu cu).emergency = none → exec (.emergencyCopyOut cu) s = .next s) ∧
  (∀ c p bs ps, (s.cu cu).emergency = some (ctx, [(p, bs)]) → (∀ u ∈ s.cus, u.1 ≠ cu → u.2.emergency = none) → rising s.cus = true →
    s.ctx? ctx = some c → ptrOff p + bs.length ≤ imageRoom s ctx p → translate s frontEnd ctx p .write false false bs.length = .ok ps →
    ps.length = bs.length → ps.Nodup → (∀ y ∈ ps, ∃ k, y = .phys k ∧ inHbm k = true) → ∃ t d,
    exec (.emergencyCopyOut cu) s = .next t ∧ (t.cu cu).emergency = none ∧ ps.map (byteNow t) = bs ∧ t.ctx? ctx = some d ∧
    d = { c with held := none })

/-- R273, R274, R275, R276, R277, R278, R279, R280, R281: the served queue's packet at rd has its effect and rd passes it, or it waits, or
the queue halts with rd at it and its sibling is told; wake words; handler packets; a waiting WAITV goes on
when its word meets the condition; and the queue service, which acts once the firmware serves the mailbox. -/
def Obligations.Queues : Prop := (∀ s q x ws, s.queue? q = some x → x.state = 1 →
  let w := fun i => List.getD ws i 0
  let direct := fun (ps : List Place) => ps.Nodup ∧ ∀ p ∈ ps, ∃ k, p = .phys k ∧ inHbm k = true
  let done := fun (u t : State) => t = { u with queues := t.queues, queueRr := t.queueRr } ∧
    t.queue? q = some { x with rd := x.rd + 1, waitGrid := none } ∧ ∀ k, k ≠ q → t.queue? k = s.queue? k
  let halts := fun (t : State) => ∃ y, t.queue? q = some y ∧ y.state = 3 ∧ y.rd = x.rd
  let told := fun (t : State) (code detail : Nat) => ∀ y, x.hasSib = true → x.sib ≠ q → s.queue? x.sib = some y → y.state ≠ 0 →
    y.handlers.length < 4 → t.queue? x.sib = some { y with handlers := y.handlers ++
      [[word (7 + 256 * code), word (q + 2 ^ 32 * x.rd.toNat), word detail, w 0, word x.ctx, 0, 0, 0]] }
  let here := servedQueue s = some q ∧ x.handlers = [] ∧ wakeBad x (wakeWord s q) = false ∧ ringPacket s x = .ok ws
  let good := fun (n : Nat) => here ∧ pkType ws = n ∧ packetBad ws = none
  (good 0 → ∃ t, exec (.queueNop q) s = .next t ∧ done s t) ∧
  (∀ ps, good 2 → fld (w 0) 9 8 = 0 → translate s frontEnd x.ctx (w 1) .write (fld (w 0) 12 10 == 5) true 8 = .ok ps → ps.length = 8 →
    direct ps → s.rind = [] → rising s.dies = true → ∃ t, exec (.signal q) s = .next t ∧
    t.queue? q = some { x with rd := x.rd + 1, waitGrid := none } ∧ bytesW64 (ps.map (byteNow t)) = w 2 ∧
    ∀ k, inHbm k = true → .phys k ∉ ps → coherent t k = coherent s k) ∧
  (∀ base, good 2 → fld (w 0) 9 8 = 1 → translate s frontEnd x.ctx (w 1) .write (fld (w 0) 12 10 == 5) true 8 =
      .ok ((List.range 8).map fun i => .phys (base + i)) → base % 8 = 0 → base + 8 ≤ 2 ^ 40 → s.rind = [] →
    (∀ y ∈ s.dies, y.2.l2 = [] ∧ y.2.rennet = [] ∧ y.2.overflow = []) → rising s.dies = true → ∃ t, exec (.signal q) s = .next t ∧
    t.queue? q = some { x with rd := x.rd + 1, waitGrid := none } ∧ coherentW64 t base = coherentW64 s base + w 2 ∧
    ∀ k, (k < base ∨ base + 8 ≤ k) → coherent t k = coherent s k) ∧
  (∀ bs, good 3 → frontRead s x.ctx (w 1) 8 = .ok bs →
    (waitHolds ws (bytesW64 bs) = true → ∃ t, exec (.waitv q) s = .next t ∧ done s t) ∧
    (waitHolds ws (bytesW64 bs) = false → ∃ t, exec (.waitv q) s = .next t ∧ t.queue? q = some { x with state := 2 } ∧
      t = { s with queues := t.queues, queueRr := t.queueRr })) ∧
  (∀ ps, good 4 → w 3 = 0 → translate s frontEnd x.ctx (w 1) .write false true (2 ^ fld (w 0) 10 8) = .ok ps →
    ps.length = 2 ^ fld (w 0) 10 8 → direct ps → rising s.dies = true → ∃ t, exec (.writev q) s = .next t ∧
    t.queue? q = some { x with rd := x.rd + 1, waitGrid := none } ∧
    bytesNat (ps.map (byteNow t)) = (w 2).toNat % 2 ^ (8 * 2 ^ fld (w 0) 10 8) ∧
    ∀ k, inHbm k = true → .phys k ∉ ps → coherent t k = coherent s k) ∧
  (good 5 → w 3 = 0 → (w 1 ≠ 0 → invalidObject s frontEnd x.ctx (w 1) = none) → Tidy s → ∃ t, exec (.flushc q) s = .next t ∧
    t.queue? q = some { x with rd := x.rd + 1, waitGrid := none } ∧ (∀ k, NotMirror s k → coherent t k = coherent s k) ∧
    (w 1 ≠ 0 → isRemote s (w 1) = false → w 2 ≠ 0 → ∀ ks, rangeKeys s frontEnd x.ctx (w 1) (w 2).toNat = some ks →
      ∀ k ∈ ks, ∀ d ∈ t.dies, find d.2.l2 k = none)) ∧
  (∀ d, good 5 → w 1 ≠ 0 → invalidObject s frontEnd x.ctx (w 1) = some d → ∃ t, exec (.flushc q) s = .next t ∧ halts t ∧
    told t 8 Code.objinv.num) ∧
  (∀ c ps, good 6 → s.ctx? x.ctx = some c → c.system = true →
    translate s frontEnd x.ctx (w 1) .write false false (resyncSummary s).length = .ok ps → ps.length = (resyncSummary s).length →
    direct ps → rising s.dies = true → ∃ t, exec (.resync q) s = .next t ∧
    t.queue? q = some { x with rd := x.rd + 1, waitGrid := none } ∧ t.resyncSeq = s.resyncSeq + 1 ∧
    ps.map (byteNow t) = resyncSummary s) ∧
  (∀ c, good 6 → s.ctx? x.ctx = some c → c.system = false → ∃ t, exec (.resync q) s = .next t ∧ halts t ∧ told t 3 0) ∧
  (∀ i, here → packetBad ws = some i → ∃ t, exec (.pktbad q) s = .next t ∧ halts t ∧ told t 1 i) ∧
  (∀ u h, good 1 → checkPoints s x.ctx = some u → resumable u x.ctx (w 1) = .ok () → checkImage u x.ctx (w 1) = .ok h →
    unstartedOf h ≠ [] → ∃ t name y z, exec (.resume q) s = .next t ∧ t.grid? name = some y ∧ y.ctx = x.ctx ∧ y.image = w 1 ∧
    y.unstarted = unstartedOf h ∧ y.away = false ∧ y.live = 0 ∧ y.order = s.gridOrder ∧
    y.completions.head? = some ⟨q, (w 0).getLsbD 8, w 2, w 3⟩ ∧ t.queue? q = some z ∧
    ((w 0).getLsbD 8 = true → z = { x with rd := x.rd + 1, waitGrid := none }) ∧
    ((w 0).getLsbD 8 = false → z = { x with waitGrid := some name })) ∧
  (∀ u c d, good 1 → checkPoints s x.ctx = some u → resumable u x.ctx (w 1) = .ok () → checkImage u x.ctx (w 1) = .error (.code c d) →
    ∃ t, exec (.resume q) s = .next t ∧ halts t ∧ told t c d) ∧
  (∀ h rest ps, servedQueue s = some q → x.handlers = h :: rest → h.length = 8 →
    translate s frontEnd x.ctx x.hrec .write false false 64 = .ok ps →
    ps.length = 64 → direct ps → rising s.dies = true → ∃ t, exec (.handler q) s = .next t ∧
    t.queue? q = some { x with handlers := rest, delivered := x.delivered + 1 } ∧
    bytesWords 8 (ps.map (byteNow t)) = h.take 7 ++ [x.delivered + 1]) ∧
  (∀ h rest j k, servedQueue s = some q → x.handlers = h :: rest →
    translate s frontEnd x.ctx x.hrec .write false false 64 = .error (.notres j k) → ∃ t, exec (.handler q) s = .next t ∧ halts t) ∧
  (∀ v, q < 4096 → s.powered = true → (∀ d ∈ s.dies, ∀ y ∈ d.2.l2, inFlags y.1 = false) → ∃ t, exec (.wakeWord q v) s = .next t ∧
    (wakeBad x v = false → wakeWord t q = v ∧ t.queue? q = some x) ∧ (wakeBad x v = true → halts t)) ∧
  (s.rdy = true → exec (.queueDestroy q) s = .next { s with queues := drop s.queues q }) ∧
  (s.rdy = true → ∀ d, exec (.queueCreate q d) s = .next s)) ∧
  ∀ s q x ws bs desc,
  (s.queue? q = some x → x.state = 2 → ringPacket s x = .ok ws → frontRead s x.ctx (ws.getD 1 0) 8 = .ok bs →
    ∀ i, (i = .waitvRecheck q ∨ i = .waitvPollTimer q) →
    (waitHolds ws (bytesW64 bs) = true → ∃ t, exec i s = .next t ∧ t.queue? q = some { x with rd := x.rd + 1, state := 1, waitGrid := none } ∧
      t = { s with queues := t.queues, queueRr := t.queueRr }) ∧
    (waitHolds ws (bytesW64 bs) = false → exec i s = .next s)) ∧
  (s.rdy = true → q < 4096 → s.queue? q = none → ∀ y, queueOf s desc = some y → exec (.queueCreate q desc) s =
      .next { s with queues := put s.queues q y } ∧ y.state = 1 ∧ y.rd = 0 ∧ y.ring = desc.getD 0 0 ∧ y.k = fld (desc.getD 1 0) 36 32 ∧
      y.prio = fld (desc.getD 1 0) 42 40 ∧ y.ctx = fld (desc.getD 2 0) 51 32 ∧ y.hrec = desc.getD 3 0 ∧ y.handlers = []) ∧
  (s.rdy = true → queueOf s desc = none → exec (.queueCreate q desc) s = .next s) ∧
  (s.rdy = true → s.queue? q = some x → (x.state ≠ 3 → exec (.queueResume q) s = .next s) ∧
    (x.state = 3 → ∃ t, exec (.queueResume q) s = .next t ∧ t = { s with queues := t.queues, queueRr := t.queueRr } ∧
      ((∀ g, x.waitGrid = some g → (s.grid? g).isSome = true ∨ s.recoveries ≠ []) → t.queue? q = some { x with state := 1 }) ∧
      ∀ g, x.waitGrid = some g → s.grid? g = none → s.recoveries = [] →
        t.queue? q = some { x with rd := x.rd + 1, state := 1, waitGrid := none })) ∧
  (s.rdy = false → exec (.queueCreate q desc) s = .next s ∧ exec (.queueResume q) s = .next s ∧ exec (.queueDestroy q) s = .next s)

/-- R184, R186, R190, R195, R197, R198, R199, R214, R215, R221, R282, R291, R340, R343, R388, R391, R393, R394, R395, R405: the firmware's
services, which act once the mailbox is served, and the work they lead to: shootdowns, moves, rebuilds, scrubbing. -/
def Obligations.FirmwareServices : Prop := ∀ s ctx obj x,
  let r := recordNow s x obj
  let still := s.ctx? ctx = some x ∧ obj < x.otLen ∧ s.publishing = [] ∧ s.moves = [] ∧ s.rebuilds = [] ∧ s.poison = [] ∧ s.rind = [] ∧
    recordAt x obj + 128 ≤ 2 ^ 40
  (∀ i, (∃ a b c d, i = .objectRecordWrite a b c d) ∨ i = .objectRetire ctx obj ∨ (∃ a b c, i = .rindDesignate a b c) ∨
      (∃ a b c d e, i = .exportSet a b c d e) ∨ (∃ a b c, i = .contextCreate a b c) ∨ i = .contextDestroy ctx ∨
      (∃ a, i = .contextRecover ctx a) ∨ (∃ a b, i = .xferRequest ctx a b) ∨ (∃ a b, i = .curveSet a b) ∨ (∃ a b, i = .budgetSet a b) ∨
      (∃ a, i = .samplerSet ctx a) ∨ (∃ a b, i = .fabricTopology a b) ∨ (∃ a, i = .attestationQuote a) →
    s.rdy = false → exec i s = .next s) ∧
  (s.rdy = true → still → ∀ record, record.length = 16 → Record.state record = 1 → Record.mirror record = 0 →
    (r.state = 0 ∨ r.state = 1 ∨ r.state = 4) →
    let new : Record := word ((if r.state = 1 then r.rgen else r.rgen + 1) % 2 ^ 32 * 2 ^ 32 + fld (record.getD 0 0) 31 0) :: record.drop 1
    let map := fun (k : Nat) => new.tmap ≤ k ∧ k < new.tmap + 8 * new.tmlen
    new.tmap % 8 = 0 → (∀ k, recordAt x obj ≤ k → k < recordAt x obj + 128 → ¬map k) →
    framesGood (newMap (putRecord s x obj new) ctx obj r new) new = true → ∃ t, exec (.objectRecordWrite ctx obj record []) s = .next t ∧
    recordNow t x obj = new ∧ t.publishing = [(ctx, obj)] ∧
    (r.state ≠ 1 → new.shared = false → ∀ j < new.tmlen, entryNow t new j = 0) ∧
    ∀ k, (k < recordAt x obj ∨ recordAt x obj + 128 ≤ k) → (r.state = 1 ∨ ¬map k) → coherent t k = coherent s k) ∧
  (s.rdy = true → still → r.state = 1 → ∀ j e e', serviceEntry s r (j, e) = some (j, e') → framesGood (putEntry s r j e') r = true →
    ∃ t, exec (.objectRecordWrite ctx obj [] [(j, e)]) s = .next t ∧ entryNow t r j = e' ∧
    t.publishing = if quietChange r.sysm (entryNow s r j) e' then [] else [(ctx, obj)]) ∧
  (s.rdy = true → s.ctx? ctx = some x → obj < x.otLen → s.publishing = [] → s.rind = [] → recordAt x obj + 128 ≤ 2 ^ 40 →
    1 ≤ r.state → r.state ≤ 3 → r.mirror = 0 → ∃ t, exec (.objectRetire ctx obj) s = .next t ∧
    recordNow t x obj = r.withState 4 ∧ t.publishing = [(ctx, obj)] ∧ t.moves = s.moves ∧ t.rebuilds = s.rebuilds ∧
    ∀ k, (k < recordAt x obj ∨ recordAt x obj + 128 ≤ k) → coherent t k = coherent s k) ∧
  (epochQuiet (drainAll s) = false → exec (.shootdown ctx obj) s = .next (drainAll s)) ∧
  (epochQuiet (drainAll s) = true → ∃ t, exec (.shootdown ctx obj) s = .next t ∧ (ctx, obj) ∉ t.publishing ∧
    (∀ p, p ≠ (ctx, obj) → (p ∈ t.publishing ↔ p ∈ (drainAll s).publishing)) ∧ t.epoch = !(drainAll s).epoch ∧
    ∀ c o, sameObject (drainAll s) ctx obj c o = true →
      (∀ u ∈ t.cus, (∀ y ∈ u.2.orc, ¬(y.1 = c ∧ y.2.1 = o)) ∧ ∀ y ∈ u.2.ttc, ¬(y.1 = c ∧ y.2.1 = o)) ∧
      ∀ d ∈ t.dies, (∀ y ∈ d.2.dtcRec, ¬(y.1 = c ∧ y.2.1 = o)) ∧ ∀ y ∈ d.2.dtcEnt, ¬(y.1 = c ∧ y.2.1 = o)) ∧
  (∀ j target, settledRecord s ctx obj = some (x, r) → s.moves = [] → (∀ g ∈ s.gangs, g.2.accesses = []) → s.rind = [] → s.poison = [] →
    (∀ d ∈ s.dies, d.2.l2 = [] ∧ d.2.rennet = [] ∧ d.2.overflow = []) → rising s.dies = true → r.sysm = false → r.du = false →
    j < r.tmlen → entState false (entryNow s r j) = 1 → entDamaged false (entryNow s r j) = false → target < 2 ^ 24 →
    entFrame (entryNow s r j) < 2 ^ 24 → target ≠ entFrame (entryNow s r j) → r.tmap + 8 * j + 8 ≤ 2 ^ 40 →
    (r.tmap + 8 * j + 8 ≤ target * 65536 ∨ (target + 1) * 65536 ≤ r.tmap + 8 * j) →
    (r.tmap + 8 * j + 8 ≤ recordAt x obj ∨ recordAt x obj + 128 ≤ r.tmap + 8 * j) →
    ∃ t, exec (.relocation ctx obj (some j) target) s = .next t ∧ t.moves = [⟨ctx, obj, some j, target⟩] ∧
    entState false (entryNow t r j) = 2 ∧ entGen false (entryNow t r j) = entGen false (entryNow s r j) ∧
    ∀ sub < 16, entPresent (entryNow s r j) sub = true → ∀ i < 4096,
      (entFrame (entryNow s r j) * 65536 + 4096 * sub + i < r.tmap + 8 * j ∨
        r.tmap + 8 * j + 8 ≤ entFrame (entryNow s r j) * 65536 + 4096 * sub + i) →
      coherent t (target * 65536 + 4096 * sub + i) = coherent s (entFrame (entryNow s r j) * 65536 + 4096 * sub + i)) ∧
  (∀ m j, s.ctx? ctx = some x → s.moves = [m] → m.ctx = ctx → m.obj = obj → m.tile = some j →
    (∀ c ∈ s.cus, c.2.replay = [] ∧ c.2.replayWait = []) → s.rind = [] → (∀ d ∈ s.dies, d.2.flags = []) → rising s.dies = true → ∃ t,
    exec (.relocationPublish ctx obj (some j)) s = .next t ∧ t.moves = [] ∧ t.outside = [] ∧
    t.agenda = s.outside.map .event ++ s.agenda ∧ (r.state = 4 → SameMemory s t) ∧
    ((r.state = 1 ∨ r.state = 2) → r.sysm = false → entState false (entryNow s r j) = 2 → m.target < 2 ^ 24 →
      r.tmap + 8 * j + 8 ≤ 2 ^ 40 → entState false (entryNow t r j) = 1 ∧
      entFrame (entryNow t r j) = m.target ∧ entGen false (entryNow t r j) = (entGen false (entryNow s r j) + 1) % 256 ∧
      ∀ sub < 16, entPresent (entryNow t r j) sub = entPresent (entryNow s r j) sub)) ∧
  (∀ b, s.ctx? ctx = some x → s.rebuilds = [b] → b.ctx = ctx → b.obj = obj → b.tile = none → b.addr = recordAt x obj →
    x.otBase % 128 = 0 → recordAt x obj + 128 ≤ 2 ^ 40 → s.rind = [] → (∀ c ∈ s.cus, c.2.replay = [] ∧ c.2.replayWait = []) →
    (∀ d ∈ s.dies, d.2.flags = []) → rising s.dies = true → ∃ t,
    exec (.recordRebuild ctx obj none false) s = .next t ∧ t.rebuilds = [] ∧ t.outside = [] ∧
    t.agenda = s.outside.map .event ++ s.agenda ∧ (damagedAt s (recordAt x obj) 128 = false → SameMemory s t) ∧
    (damagedAt s (recordAt x obj) 128 = true → recordNow t x obj = r.withState 3 ∧ damagedAt t (recordAt x obj) 128 = false)) ∧
  (∀ sector, 128 * sector < 2 ^ 40 → s.rind = [] →
    let u := chargeBudget s (homeDie (128 * sector)) 3 1
    exec (.scrub sector true) s = .next (countError (addPoison u [sector]) 1) ∧
    (sector ∈ s.poison → exec (.scrub sector false) s = .next u) ∧
    (sector ∉ s.poison → exec (.scrub sector false) s = .next (countError u 0))) ∧
  (∀ base size mirror, s.rdy = true → s.stage = 3 →
    (size = 0 → exec (.rindDesignate base size mirror) s = .next { s with stage := 4, heldContexts := readDirectory s }) ∧
    (size ≠ 0 → 2 ^ 40 ≤ mirror → rindGood s base size none = true →
      exec (.rindDesignate base size mirror) s = .next (sealAll { s with rind := put s.rind base (size, none) })) ∧
    (size ≠ 0 → 2 ^ 40 ≤ mirror → rindGood s base size none = false → exec (.rindDesignate base size mirror) s = .next s)) ∧
  (∀ slot off len ptr, s.rdy = true → slot < 64 →
    (len = 0 → exec (.exportSet slot ctx off len ptr) s = .next { s with exports := drop s.exports slot }) ∧
    (len ≠ 0 → off % 65536 = 0 → len % 65536 = 0 → off + len ≤ 2 ^ 38 →
      (∀ e ∈ s.exports, e.1 ≠ slot → off + len ≤ e.2.off ∨ e.2.off + e.2.len ≤ off) →
      exec (.exportSet slot ctx off len ptr) s = .next { s with exports := put s.exports slot ⟨off, len, ptr, ctx⟩ })) ∧
  (∀ slot attrs y, s.rdy = true → 5 ≤ s.stage → ctx < 2 ^ 20 → slot < 64 → s.ctx? ctx = none → (∀ z ∈ s.contexts, z.2.slot ≠ slot) →
    contextOf slot attrs [] = some y → s.rind = [] → ∃ t,
    exec (.contextCreate ctx slot attrs) s = .next t ∧ t.ctx? ctx = some y ∧ t.stage = 6 ∧
    ∀ k, y.otBase ≤ k → k < y.otBase + 128 * y.otLen → coherent t k = blankByte) ∧
  (∀ slot attrs y ckp, s.rdy = true → 5 ≤ s.stage → ctx < 2 ^ 20 → slot < 64 → s.ctx? ctx = none → (∀ z ∈ s.contexts, z.2.slot ≠ slot) →
    s.heldContexts.find? (fun h => h.1 == ctx) = some (ctx, slot, ckp) → contextOf slot attrs ckp = some y → ∃ t,
    exec (.contextRecover ctx attrs) s = .next t ∧ t.ctx? ctx = some y ∧ y.ckp = ckp ∧ ∀ h ∈ t.heldContexts, h.1 ≠ ctx) ∧
  (s.rdy = true → s.ctx? ctx = some x → ∃ t, exec (.contextDestroy ctx) s = .next t ∧ t.ctx? ctx = none ∧ (∀ g ∈ t.gangs, g.2.ctx ≠ ctx) ∧
    (∀ b ∈ t.blocks, b.2.ctx ≠ ctx) ∧ (∀ g ∈ t.grids, g.2.ctx ≠ ctx) ∧ (∀ q ∈ t.queues, q.2.ctx ≠ ctx) ∧
    (∀ m ∈ t.moves, m.ctx ≠ ctx) ∧ (∀ b ∈ t.rebuilds, b.ctx ≠ ctx) ∧ (∀ p ∈ t.publishing, p.1 ≠ ctx) ∧ t.outside = [] ∧
    t.agenda = s.outside.map .event ++ s.agenda ∧
    (∀ g, g.2.ctx ≠ ctx → (g ∈ t.gangs ↔ g ∈ s.gangs))) ∧
  (∀ vtab target, s.rdy = true → target < 256 → ∃ t, exec (.xferRequest ctx vtab target) s = .next t ∧
    t = { s with gangs := t.gangs, answers := natBytes 4 (s.gangs.filter fun g => xferTakes ctx vtab g.2).length :: s.answers } ∧
    (∀ id g, s.gang? id = some g → g.ctx = ctx → g.vtab = vtab → g.xferPend = false → ∃ h, t.gang? id = some h ∧
      h = { g with gstat := h.gstat } ∧ h.xferPend = true ∧ h.xver = target) ∧
    ∀ id g, s.gang? id = some g → (g.ctx ≠ ctx ∨ g.vtab ≠ vtab ∨ g.xferPend = true) → t.gang? id = some g) ∧
  (∀ die table, s.rdy = true → die < 4 →
    (curveGood table = true → exec (.curveSet die table) s = .next (s.setDie die { s.die die with curve := table })) ∧
    (curveGood table = false → exec (.curveSet die table) s = .next s)) ∧
  (∀ n lim, s.rdy = true → n < 8 → lim < 65536 → exec (.budgetSet n lim) s = .next { s with budgets := setAt 0 s.budgets n lim }) ∧
  (∀ period, s.rdy = true → (period = 0 ∨ 1024 ≤ period ∧ period < 2 ^ 24) → exec (.samplerSet ctx period) s =
    .next (s.onCtx ctx fun y => { y with sampler := period })) ∧
  (∀ routes, s.rdy = true → 4 ≤ s.stage → topologyGood routes = true →
    (∃ t, exec (.fabricTopology routes false) s = .next t ∧ t = { s with routes := t.routes, ports := t.ports, stage := max s.stage 5 } ∧
      (∀ p < 16, t.port p = { s.port p with up := true, resends := 0 }) ∧
      ∀ r ∈ routes, (∀ r' ∈ routes, r'.1 = r.1 → r' = r) → find t.routes r.1 = some r.2) ∧
    exec (.fabricTopology routes true) s = .next { s with bootErr := 4 }) ∧
  (∀ nonce, s.rdy = true → exec (.attestationQuote nonce) s = .next { s with answers := quote s.resyncSeq nonce [] :: s.answers })

/-- R218, R219, R220, R264, R291, R292, R340, R343, R381, R382, R383, R384, R386, R387, R388, R390, R391, R394, R396: budget periods,
sensors and samples; the resets of a die and of the device, and power; what the host and other devices do to this one. The form of a
fault's answer to another device, and which of its transactions are strong, are the model's choices (log 73), and so is the order in which
what waits outside is taken up (log 72); under a limit, the requests of classes 0 and 5 withheld are free (log 42). -/
def Obligations.PowerAndHost : Prop := ∀ s,
  let clear := ∀ d ∈ s.dies, d.2.l2 = [] ∧ d.2.rennet = [] ∧ d.2.overflow = []
  let heard := s.powered = true ∧ s.outside.any isHost = false
  let blank := fun (t : State) => t.gangs = [] ∧ t.contexts = [] ∧ t.queues = [] ∧ t.grids = [] ∧ t.dies = [] ∧ t.cus = [] ∧
    t.hostMem = s.hostMem ∧ t.node = 511
  let up := fun (t : State) => t.stage = 3 ∧ t.bootErr = 0 ∧ t.rdy = true
  (∀ die < 4, (∀ g ∈ s.gangs, g.2.die = die → ∀ x ∈ g.2.sampled, x.finished = none) → ∃ y,
    exec (.budgetPeriod die) s = .next { s.setDie die y with tick := s.tick + 6 } ∧
    y = { s.die die with clock := ((s.die die).clock / 4096 + 1) * 4096, periodCycle := 0, spent := y.spent, waiting := y.waiting,
                         withheld := y.withheld, limits := s.budgets, vats := y.vats } ∧
    (∀ n < 8, (n ≠ 0 ∧ n ≠ 5 → getAt 0 y.withheld n = getAt 0 (s.die die).waiting n) ∧
      (n = 0 ∨ n = 5 → getAt 0 (s.die die).limits n = 0 → getAt 0 y.withheld n = 0)) ∧
    (∀ n < 8, getAt 0 y.spent n + getAt 0 y.waiting n = getAt 0 (s.die die).waiting n ∧
      (getAt 0 s.budgets n = 0 → getAt 0 y.waiting n = 0) ∧
      (getAt 0 s.budgets n ≠ 0 → getAt 0 y.spent n = min (getAt 0 (s.die die).waiting n) (getAt 0 s.budgets n))) ∧
    ∀ (i : Nat) v, (s.die die).vats[i]? = some v → y.vats[i]? = some { v with
      droops := 0, droopBan := if 3 < v.droops then 8 else v.droopBan - 1 }) ∧
  (∀ die vat v, die < 4 → vat < 12 → (s.die die).vats.length = 12 → (s.die die).vats[vat]? = some v →
    (∃ t, exec (.droopEvent die vat) s = .next t ∧ t = { s with dies := t.dies } ∧
      (t.die die).vats = (s.die die).vats.set vat { v with droops := v.droops + 1 } ∧
      getAt 0 (t.die die).perf 41 = getAt 0 (s.die die).perf 41 + 1) ∧
    ∀ c : Int, ∃ t w, exec (.vatThermal die vat c) s = .next t ∧ t = { s with dies := t.dies } ∧
      (t.die die).vats = (s.die die).vats.set vat w ∧ w = { v with celsius := c, eligible := w.eligible } ∧
      (95 < c → w.eligible = false) ∧ (c < 88 → w.eligible = true) ∧ (88 ≤ c → c ≤ 95 → w.eligible = v.eligible)) ∧
  (∀ ctx q x id g, s.ctx? ctx = some x → x.sampler ≠ 0 →
    leastBy (fun y => roundFrom (s.quarter q).samplePos 16 y.2.slot) ((gangsOn s q).filter fun y => y.2.ctx == ctx && !y.2.killed) =
      some (id, g) →
    let s1 := s.setQuarter q { s.quarter q with samplePos := (g.slot + 1) % 16 }
    let lim := getAt 0 (s.die g.die).limits 4
    let spent := getAt 0 (s.die g.die).spent 4
    (lim ≠ 0 → lim ≤ spent → exec (.pcSample ctx q) s = .next (countDie s1 g.die 40 1)) ∧
    ((lim = 0 ∨ spent < lim) → ∃ u clk cause pc mask, exec (.pcSample ctx q) s = .next (logGang u g 3 cause pc mask (word clk)) ∧
      u = { s1 with dies := u.dies, tick := s.tick + 1 } ∧ getAt 0 (u.die g.die).spent 4 = spent + 1 ∧
      (s.die g.die).clock < clk ∧ cause < 6 ∧
      (∀ r, (s.quarter q).run = some r → r.gang = id → cause = 0 ∧ pc = g.pcOf (lowestLane r.lanes) ∧
        mask = g.strandOf (lowestLane r.lanes)) ∧
      ((s.quarter q).run = none → g.liveLanes = 0 → cause = 2 ∧ pc = g.exitPc ∧ mask = 0))) ∧
  (∀ d < 4, s.rdy = true → exec (.dieResetRequest d) s = exec (.dieReset d) s ∧
    (s.contexts = [] → s.recoveries = [] → ∃ t, exec (.dieReset d) s = .next t ∧ (t.die d).resets = ((s.die d).resets + 1) % 256 ∧
      (t.die d).l2 = [] ∧ (t.die d).rennet = [] ∧ (t.die d).overflow = (s.die d).overflow ∧ (t.die d).clock = 0 ∧
      (t.die d).periodCycle = 0 ∧ (t.die d).scr = [] ∧ (t.die d).perf = [] ∧ (t.die d).curve = hilbertTable ∧
      (t.die d).normal = true ∧ (t.die d).limits = s.budgets ∧ (∀ c, c / 48 = d → (t.cu c).l1 = [] ∧ (t.cu c).replay = []) ∧
      (∀ q, q / 192 = d → t.quarter q = Quarter.reset) ∧ (∀ c, c ≠ d → t.die c = s.die c) ∧ t.gangs = s.gangs ∧
      (∀ k, s.rind = [] → rising (s.die d).l2 = true → (d = 0 → inFlags k = false) →
        memRead t k = (find (s.die d).l2 k).getD (memRead s k)) ∧
      (d = 0 → (∀ k, inFlags k = true → memRead t k = 0) ∧ t.queueRr = [])) ∧
    (∀ ctx x, s.contexts = [(ctx, x)] → s.recoveries = [] → affected s d (ctx, x) = true → x.ckp = [] → s.rind = [] →
      ∃ t, exec (.dieReset d) s = .next t ∧ (∀ g ∈ t.gangs, g.2.ctx ≠ ctx) ∧ (∀ b ∈ t.blocks, b.2.ctx ≠ ctx) ∧
      (∀ g ∈ t.grids, g.2.ctx ≠ ctx) ∧ (t.die d).resets = ((s.die d).resets + 1) % 256 ∧ t.recoveries = [] ∧ (t.die d).normal = true)) ∧
  (s.powered = true →
    (∃ t, exec (.deviceReset 0) s = .next t ∧ blank t ∧ up t ∧ t.powered = true ∧
      (heard → exec (.rstkey 0x4B345253) s = .next t ∧ exec (.registerWrite 0x100030 0x4B345253) s = .next t) ∧
      ∀ k < 2 ^ 64, memRead t k = if (rindRanges s.rind).any (fun r => keySpan r.1 r.2 k) then memRead s k else 0) ∧
    (∀ n, n = 1 ∨ n = 2 ∨ n = 3 → ∃ t, exec (.deviceReset n) s = .next t ∧ blank t ∧ t.stage = n / 3 ∧ t.bootErr = n ∧ t.rdy = false)) ∧
  (∀ v, v ≠ 0x4B345253 → s.outside.any isHost = false → exec (.rstkey v) s = .next s ∧ exec (.registerWrite 0x100030 v) s = .next s) ∧
  (∃ t, exec .powerLoss s = .next t ∧ exec .thermalShutdown s = .next t ∧ blank t ∧ t.powered = false ∧ ∀ k < 2 ^ 64, memRead t k = 0) ∧
  ((s.powered = false ∨ s.stage = 0) → ∃ t, exec .powerOn s = .next t ∧ blank t ∧ up t ∧ t.powered = true ∧
    ∀ k < 2 ^ 64, memRead t k = 0) ∧
  (∃ t, exec .firmwareRestart s = .next t ∧ exec .queueCoreRestart s = .next t ∧ t = { s with errors := t.errors } ∧
    ∀ n, getAt 0 t.errors n = getAt 0 s.errors n + if n = 6 then 1 else 0) ∧
  (∀ i t, s.powered = true → s.outside.any isHost = true → isHost i = true → exec i s = .next t →
    t = { s with outside := s.outside ++ [i] }) ∧
  (∀ off v, heard →
    (off = 0x100010 → s.stage = 4 → exec (.registerWrite off v) s = .next { s with node := v }) ∧
    (off = 0x100018 → exec (.registerWrite off v) s = .next { s with mbxBase := v }) ∧
    (off = 0x100020 → exec (.registerWrite off v) s = .next { s with mbxWr := v }) ∧
    ((off = 0x100010 ∧ s.stage ≠ 4 ∨ off < 0x100010 ∨ off = 0x100028 ∨ 0x100030 < off) →
      exec (.registerWrite off v) s = .next s)) ∧
  (∀ off bytes, heard → off + bytes.length ≤ 2 ^ 20 → (∀ d ∈ s.dies, ∀ k, inFlags k = true → find d.2.l2 k = none) → ∃ t,
    exec (.hostFlagWrite off bytes) s = .next t ∧
    (∀ i < bytes.length, coherent t (flagBase + off + i) = bytes.getD i 0) ∧
    ∀ k, (k < flagBase + off ∨ flagBase + off + bytes.length ≤ k) → coherent t k = coherent s k) ∧
  (∀ e off, heard → s.exports = [e] → e.2.off ≤ off →
    let p := e.2.ptr + word (off - e.2.off)
    let reach := fun (k : Kind) (n : Nat) => translate s frontEnd e.2.ctx p k false false n
    let goes := fun (k : Kind) (n : Nat) (ps : List Place) => off + n ≤ e.2.off + e.2.len ∧
      reach k n = .ok ps ∧ ∀ q ∈ ps, q.isRemote = false
    let refused := fun (t : State) => t = { s with errors := t.errors, answers := t.answers } ∧
      ∀ n, getAt 0 t.errors n = getAt 0 s.errors n + if n = 7 then 1 else 0
    (∀ len ps, goes .read len ps → exec (.hostBar2Read off len) s = .next { s with answers := ps.map (hostByte s) :: s.answers }) ∧
    (∀ len, (e.2.off + e.2.len < off + len ∨ (∃ c n, reach .read len = .error (.fault c n)) ∨
        ∃ j k, reach .read len = .error (.notres j k)) →
      ∃ t, exec (.hostBar2Read off len) s = .next t ∧ refused t ∧ t.answers = [] :: s.answers) ∧
    (∀ len h, off + len ≤ e.2.off + e.2.len → reach .read len = .error (.hold h) →
      exec (.hostBar2Read off len) s = .next { s with outside := s.outside ++ [.hostBar2Read off len] }) ∧
    (∀ bytes ps, goes .write bytes.length ps → Tidy s → (∀ d ∈ s.dies, d.2.rennet = [] ∧ d.2.overflow = []) → s.rind = [] →
      ps.length = bytes.length → ps.Nodup →
      (∀ q ∈ ps, ∃ k, q = .phys k ∧ k < 2 ^ 64) → ∃ t, exec (.hostBar2Write off bytes) s = .next t ∧ ps.map (byteNow t) = bytes ∧
      ps.map (hostByte t) = bytes ∧ t.gangs = s.gangs ∧ ∀ k < 2 ^ 64, .phys k ∉ ps → coherent t k = coherent s k) ∧
    (∀ bytes h, off + bytes.length ≤ e.2.off + e.2.len → reach .write bytes.length = .error (.hold h) →
      exec (.hostBar2Write off bytes) s = .next { s with outside := s.outside ++ [.hostBar2Write off bytes] }) ∧
    (∀ bytes, e.2.off + e.2.len < off + bytes.length → ∃ t, exec (.hostBar2Write off bytes) s = .next t ∧ refused t ∧
      t.answers = s.answers) ∧
    (∀ op w v c base, goes .atomic w ((List.range w).map fun i => .phys (base + i)) → (w = 4 ∨ w = 8) → off % w = 0 → op ≤ 2 →
      base % w = 0 → base + w ≤ 2 ^ 40 → clear → s.rind = [] → rising s.dies = true →
      let old := bytesNat (coherentBytes s base w)
      ∃ t, exec (.pcieAtomicop off op w v c) s = .next t ∧ t.answers = natBytes w old :: s.answers ∧
      bytesNat (coherentBytes t base w) = (if op = 0 then (old + v.toNat) % 2 ^ (8 * w) else if op = 1 then v.toNat % 2 ^ (8 * w)
        else if old = v.toNat % 2 ^ (8 * w) then c.toNat % 2 ^ (8 * w) else old) ∧
      ∀ k, (k < base ∨ base + w ≤ k) → coherent t k = coherent s k)) ∧
  (∀ port tag ctx kind ptr v c, s.powered = true → port < 16 → (s.port port).up = true →
    (kind % 256 = 255 → exec (.remoteRequest port tag ctx kind ptr v c) s = .next { s with
      ports := put s.ports port { s.port port with tags := (s.port port).tags.filter (· != tag) } }) ∧
    (kind % 256 ≠ 255 → tag ∈ (s.port port).tags → exec (.remoteRequest port tag ctx kind ptr v c) s = .next s) ∧
    (kind % 256 ≠ 255 → tag ∉ (s.port port).tags →
      let size := 2 ^ (kind / 256 % 4)
      let seen : Port := { s.port port with resends := 0, tags := if tag < 4096 then tag :: (s.port port).tags else (s.port port).tags }
      let u : State := { s with ports := put s.ports port seen }
      let reach := fun (k : Kind) => translate s frontEnd ctx (word (fld ptr 54 0 + 511 * 2 ^ 55)) k false (decide (tag < 4096)) size
      (∀ ps, kind % 256 = 0 → reach .read = .ok ps → ps.any (placePoisoned s) = false →
        exec (.remoteRequest port tag ctx kind ptr v c) s = .next { u with answers := ps.map (byteNow s) :: s.answers }) ∧
      (∀ k f n, (kind % 256 = 0 ∧ k = .read ∨ kind % 256 = 1 ∧ k = .write) → reach k = .error (.fault f n) →
        exec (.remoteRequest port tag ctx kind ptr v c) s =
          .next { u with answers := (natBytes 4 f.num ++ natBytes 8 n) :: s.answers }) ∧
      (∀ k h, (kind % 256 = 0 ∧ k = .read ∨ kind % 256 = 1 ∧ k = .write) → reach k = .error (.hold h) →
        exec (.remoteRequest port tag ctx kind ptr v c) s =
          .next { s with outside := s.outside ++ [.remoteRequest port tag ctx kind ptr v c] }) ∧
      ∀ ps, kind % 256 = 1 → reach .write = .ok ps → ps.Nodup → ps.length = size →
        (∀ q ∈ ps, ∃ k, q = .phys k ∧ inHbm k = true) → rising s.dies = true → ∃ t,
        exec (.remoteRequest port tag ctx kind ptr v c) s = .next t ∧ t.port port = seen ∧
        ps.map (byteNow t) = (w64Bytes v).take ps.length ∧ ∀ k < 2 ^ 64, .phys k ∉ ps → coherent t k = coherent s k)) ∧
  (∀ port < 16, let p := s.port port
    (p.resends < 16 → exec (.flitResend port) s = .next { s with ports := put s.ports port { p with resends := p.resends + 1 } }) ∧
    (16 ≤ p.resends → exec (.flitResend port) s = .next { s with
      ports := put s.ports port { p with resends := p.resends + 1, up := false } }) ∧
    exec (.portDown port) s = .next { s with ports := put s.ports port { p with up := false } })

/-- R57, R59, R60: words written out field by field from the encodings of the spec, one or more of every family, decode to what they stand
for. -/
def Obligations.DecodeWords : Prop :=
  decode 0b000000000_0000011_0000100_0000101_00#32 = .ok (.iadd 3 4 5) ∧
  decode 0b000100001_0000010_0000000001100100#32 = .ok (.iaddi 2 100) ∧
  decode 0b000100111_0000001_0000000_001000010#32 = .ok (.icmpi 1 0 16 2) ∧
  decode 0b001001110_0000000_0000000_000000000#32 = .ok (.specr 0 0) ∧
  decode 0b010000011_0000001_0000010_0000011_00#32 = .ok (.fma 1 2 3) ∧
  decode 0b100000000_00001_0_000000000000001_01#32 = .ok (.bra 1 0 5) ∧
  decode 0b100000101_0000001_0000000_000000000#32 = .ok (.meet 1 0 0) ∧
  decode 0b101000000_0000110_0000010_010_010_011#32 = .ok (.ld 6 2 2 2 3) ∧
  decode 0b101001010_0000101_0000010_0010_010_00#32 = .ok (.atom 5 2 2 2 0) ∧
  decode 0b101010010_0000000000000000_01_01_000#32 = .ok (.fence 1 1 0) ∧
  decode 0b110000000_01_0000_00000000000000000#32 = .ok (.waitc 1 0) ∧
  decode 0b111000000_0000_00000_00001_0001100_00#32 = .ok (.mma 0 0 1 12) ∧
  decode 0b111100000_0000000_0000000_000000111#32 = .ok (.safept 7) ∧
  decode 0b111100100_0000011_1110110_0_00000011#32 = .ok (.mstore 3 118 3) ∧
  decode 0b111101101_0000110_0000000_000000_10_1#32 = .ok (.cbrd 6 2 1) ∧
  decode 0b111110000_1110011_0000000_000000101#32 = .ok (.sysrd 115 5) ∧
  decode 0b001100000_0000000_0000000_000000000#32 = .ok (.unassignedOpcode 0x18000000)

/-- R57, R58, R60, R61: decoding a well-formed instruction's word gives it back with every operand, and a word that decodes is the word of
what it decodes to: no bit of an encoding is dropped, no bit that must be zero is let through. -/
def Obligations.EncodingRoundTrip : Prop := ∀ w,
  (∀ i, Sys2Proof.wellFormed i = true → encode i = some w → decode w = .ok i) ∧
  ∀ i, decode w = .ok i → Sys2Proof.wellFormed i = true ∧ encode i = some w

/-- R20, R46, R48, R50: when the packet at the strand's PC is fetched and its slot decodes to i, a step is exec of i for that strand; after it
the run counts the instruction and goes on, or ends by the E bit, at 24 instructions, or where the instruction did not issue. -/
def Obligations.StepRunsDecodedInstruction : Prop := ∀ s q r g bs i,
  urgent s = none → s.agenda = [] → s.focus = some q → (s.quarter q).run = some r → s.gang? r.gang = some g → g.killed = false →
  r.lanes &&& g.liveLanes &&& ~~~g.halted ≠ 0 →
  let l := lowestLane (r.lanes &&& g.liveLanes &&& ~~~g.halted)
  let m := g.runnable l
  let pc := g.pcOf l
  let slot := fld pc 3 2
  let iss : Issue := ⟨r.gang, m, pc, bs.getD (slot - 1) 0, word32 (bytesNat ((bs.drop (4 * slot)).take 4))⟩
  let s1 := ((s.setQuarter q { s.quarter q with run := some { r with lanes := m, packet := some (packetOf pc) } }).setGang r.gang
    (g.setPark m .ready))
  (∀ c d p tl, g.parkOf l ≠ .trapped c d p tl) → goodPc pc = true → breakpointAt s g pc = false → g.carried = none →
  fetchPacket s g pc = .ok bs → badControl bs = false →
  decode iss.iword = .ok i →
  ∃ u, exec i { s1 with cur := some iss } = .next u ∧ (u.cur = none → step s = .next u) ∧
    (u.cur ≠ none → ∀ h x, u.gang? r.gang = some h → h.debugStop = false → (u.quarter q).run = some x → x.gang = r.gang →
      ∃ t k, step s = .next t ∧ t.gang? r.gang = some k ∧ t.cur = none ∧
      k = { h with stepOne := none, perf := k.perf } ∧ getAt 0 k.perf 1 = getAt 0 h.perf 1 + 1 ∧
      t = { u with cur := none, gangs := t.gangs, quarters := t.quarters, focus := t.focus } ∧
      (t.quarter q).run = if iss.ctl.getLsbD 0 = true ∨ 24 ≤ x.count + 1 then none else some { x with count := x.count + 1 })

/-- R20, R62: a step always answers a next state; the machine never stops, whatever state it is in. -/
def Obligations.StepNeverStops : Prop := ∀ s, ∃ t, step s = .next t

/-- R9, R209, R215: every step keeps the memories in their canonical form, the parts of the machine in order, and each dirty byte in one L2. -/
def Obligations.TidinessKept : Prop := ∀ s t, Tidy s → step s = .next t → Tidy t

/-- R63, R80, R207, R274, R281, R291, R331, R340, R386: the machine after reset. -/
def Obligations.ResetState : Prop :=
  let s := State.reset
  Tidy s ∧ s.node = 511 ∧ s.mbxWr = 0 ∧ s.mbxRd = 0 ∧ s.rdy = false ∧ s.errors = [] ∧ s.contexts = [] ∧ s.gangs = [] ∧ s.queues = [] ∧
  s.exports = [] ∧ s.rind = [] ∧
  (∀ n < 8, getAt 0 s.budgets n = if n = 3 then 64 else if n = 4 then 512 else 0) ∧
  (∀ k, memRead s k = blankByte) ∧
  ∀ d, (s.die d).clock = 0 ∧ (s.die d).scr = [] ∧ (s.die d).perf = [] ∧ (s.die d).l2 = [] ∧ (s.die d).rennet = [] ∧
    (s.die d).curve = hilbertTable ∧ curveGood hilbertTable = true ∧ (s.die d).limits = s.budgets ∧
    (s.die d).vats.length = 12 ∧ ∀ v ∈ (s.die d).vats, v.eligible = true

/-- R20, R21, R49, R51, R52, R54, R62, R84, R370, R374: the checks that every instruction passes before its own effect, in their order; what
a trap of an instruction does, and an empty source; what a last-use hint leaves. -/
def Obligations.ChecksAndTraps : Prop := ∀ s e i, isEvent i = false → envOf s = some e →
  let o := operands e i
  let whole := e.g.c16 = false ∨ needsWhole i = false ∨ e.strand = e.g.liveLanes
  (verdict e o = .go ↔ fieldsOk e o = true ∧ (∀ t, o.target = some t → badTarget e.iss.pc t = false) ∧
    ∀ x ∈ o.reads, ∀ f ∈ x.regs, ∀ l < 32, lane (if x.readers = .once then hintLanes e o x else readLanes e o x) l = true →
      (e.g.reg f l).isEmpty = false) ∧
  (e.g.c16 = true → needsWhole i = true → e.strand ≠ e.g.liveLanes → (∃ l < 32, lane e.g.liveLanes l = true ∧ e.g.pcOf l ≠ e.iss.pc) →
    exec i s = .next (holdAs e .c16meet s)) ∧
  (∀ w, Sys2Proof.wellFormed i = true → encode i = some w → opcodeUnassigned (opcodeOf w) = false →
    (o.uOk = true ↔ opcodeOf w < 0x40 ∨ (0x80 ≤ opcodeOf w ∧ opcodeOf w ≤ 0xCA) ∨ ∃ d k, i = .specr d k)) ∧
  (whole → fieldsOk e o = false → exec i s = .next (trapStrand e .illop 0 s)) ∧
  (∀ t, whole → fieldsOk e o = true → o.target = some t → badTarget e.iss.pc t = true → exec i s = .next (trapStrand e .illpk 0 s)) ∧
  (∀ x xs ys, whole → fieldsOk e o = true → o.target = none → o.reads = xs ++ x :: ys → (∀ y ∈ xs, sourceEmpty e o y = false) →
    sourceEmpty e o x = true →
    (trapsEmpty e o x = true → exec i s = .next (trapStrand e .empty x.slot.num s)) ∧
    (trapsEmpty e o x = false → ∃ t g, exec i s = .next t ∧ OnlyGang s t e.id g ∧ t.cur = none ∧ g = { e.g with park := g.park } ∧
      ∀ l < 32, g.parkOf l = if lane e.strand l then .regWait else e.g.parkOf l)) ∧
  (∀ c d, e.g.killed = false →
    (∀ off, e.g.tmask.getLsbD 0 = false → handlerOf s e.g = some off → Entered s (trapStrand e c d s) e off c.num d e.strand) ∧
    (e.g.tmask.getLsbD 0 = false → handlerHeld s e.g = true → handlerOf s e.g = none → ∃ t g, trapStrand e c d s = t ∧
      OnlyGang s t e.id g ∧ t.cur = none ∧ g = { e.g with park := g.park } ∧
      ∀ l < 32, g.parkOf l = if lane e.strand l then .trapped c.num d e.iss.pc e.strand else e.g.parkOf l) ∧
    (e.g.tmask.getLsbD 0 = false → handlerOf s e.g = none → handlerHeld s e.g = false → ∃ g,
      (trapStrand e c d s).gang? e.id = some g ∧ g.killed = true ∧
      g.halted = e.g.halted ||| e.g.liveLanes ∧ g.tcause = word32 (c.num + 2 ^ 7 + d % 2 ^ 24 * 2 ^ 8) ∧ g.tpc = e.iss.pc ∧
      g.tlanes = e.strand ∧ g.pending = [] ∧ g.sampled = [] ∧
      g.accesses = e.g.accesses.filter fun x => x.shown.isSome) ∧
    (e.g.tmask.getLsbD 0 = true → ∃ g, (trapStrand e c d s).gang? e.id = some g ∧
      g = { e.g with halted := e.g.halted ||| e.g.liveLanes, haltReason := g.haltReason } ∧
      ∀ l < 32, getAt .none g.haltReason l = if lane e.g.liveLanes l = true ∧ getAt .none e.g.haltReason l = .none then .nested
        else getAt .none e.g.haltReason l)) ∧
  (∀ x, o.reads = [x] → x.readers = .active → o.guarded = true →
    let last := hintOf e.iss.ctl x.slot = 2
    (∀ f < 112, ∀ l < 32, (reads e i).reg f l = if f ∈ x.regs ∧ lane e.active l = true ∧ last then ⟨(e.g.reg f l).val, .dead⟩
      else e.g.reg f l) ∧
    (∀ f, 112 ≤ f → (reads e i).reg f 0 = if f ∈ x.regs ∧ e.active ≠ 0 ∧ last then ⟨(e.g.reg f 0).val, .dead⟩ else e.g.reg f 0) ∧
    ((reads e i).gstat.getLsbD 0 = true ↔ e.g.gstat.getLsbD 0 = true ∨ ∃ f ∈ x.regs, ∃ l < 32, lane e.active l = true ∧
      (e.g.reg f l).st = .dead))
end

