-- ==== Sys2Proof/Laws/Maps.lean ====
section
/-! SUPPORT. The laws of sparse maps and memories: a read after a write, and the canonical form kept by every update. -/

namespace Sys2Proof.Machine

variable {β γ : Type}

/-- Every key of a list lies above k. -/
def above (k : Nat) (m : List (Nat × β)) : Prop := ∀ e ∈ m, k < e.1

@[simp] theorem find_nil (k : Nat) : find ([] : List (Nat × β)) k = none := rfl
@[simp] theorem drop_nil (k : Nat) : drop ([] : List (Nat × β)) k = [] := rfl
@[simp] theorem put_nil (k : Nat) (v : β) : put [] k v = [(k, v)] := rfl

@[simp] theorem find_put_self (m : List (Nat × β)) (k : Nat) (v : β) : find (put m k v) k = some v := by
  induction m with
  | nil => simp [put, find]
  | cons e m ih =>
    obtain ⟨j, u⟩ := e
    simp only [put]
    split
    · simp [find]
    · split
      · simp [find]
      · rw [find, if_neg (by omega)]
        exact ih

theorem find_put_other (m : List (Nat × β)) {j k : Nat} (v : β) (h : j ≠ k) : find (put m k v) j = find m j := by
  induction m with
  | nil => simp [put, find, Ne.symm h]
  | cons e m ih =>
    obtain ⟨i, u⟩ := e
    simp only [put]
    split
    · simp [find, Ne.symm h]
    · split
      · rw [find, find, if_neg (by omega), if_neg (by omega)]
      · simp [find, ih]

@[simp] theorem find_drop_self (m : List (Nat × β)) (k : Nat) : find (drop m k) k = none := by
  induction m with
  | nil => rfl
  | cons e m ih =>
    obtain ⟨j, u⟩ := e
    by_cases h : j = k <;> simp [drop, find, h, ih]

theorem find_drop_other (m : List (Nat × β)) {j k : Nat} (h : j ≠ k) : find (drop m k) j = find m j := by
  induction m with
  | nil => rfl
  | cons e m ih =>
    obtain ⟨i, u⟩ := e
    by_cases hi : i = k
    · simp [drop, find, hi, ih, Ne.symm h]
    · simp [drop, find, hi, ih]

@[simp] theorem getAt_nil (z : β) (k : Nat) : getAt z [] k = z := rfl

@[simp] theorem getAt_setAt_self [DecidableEq β] (z : β) (m : SMap β) (k : Nat) (v : β) : getAt z (setAt z m k v) k = v := by
  unfold setAt getAt
  split <;> simp [*]

theorem getAt_setAt_other [DecidableEq β] (z : β) (m : SMap β) {j k : Nat} (v : β) (h : j ≠ k) :
    getAt z (setAt z m k v) j = getAt z m j := by
  unfold setAt getAt
  split
  · rw [find_drop_other m h]
  · rw [find_put_other m v h]

theorem getAt_setAt [DecidableEq β] (z : β) (m : SMap β) (j k : Nat) (v : β) :
    getAt z (setAt z m k v) j = if j = k then v else getAt z m j := by
  split
  · subst j; simp
  · exact getAt_setAt_other z m v ‹_›

theorem rising_cons (e : Nat × β) (m : List (Nat × β)) : rising (e :: m) = true ↔ above e.1 m ∧ rising m = true := by
  induction m generalizing e with
  | nil => simp [rising, above]
  | cons f m ih =>
    have hf := ih f
    obtain ⟨j, u⟩ := f
    obtain ⟨k, v⟩ := e
    simp only [rising, Bool.and_eq_true, decide_eq_true_eq] at hf ⊢
    constructor
    · rintro ⟨hk, hr⟩
      refine ⟨?_, hr⟩
      intro e he
      rcases List.mem_cons.mp he with rfl | he
      · exact hk
      · exact Nat.lt_trans hk ((hf.mp hr).1 e he)
    · rintro ⟨ha, hr⟩
      exact ⟨ha _ (List.mem_cons_self ..), hr⟩

theorem above_put (m : List (Nat × β)) {i k : Nat} (v : β) (h : above i m) (hk : i < k) : above i (put m k v) := by
  induction m with
  | nil => simpa [put, above] using hk
  | cons e m ih =>
    obtain ⟨j, u⟩ := e
    have hj : i < j := h _ (List.mem_cons_self ..)
    have hm : above i m := fun e he => h e (List.mem_cons_of_mem _ he)
    simp only [put]
    split
    · intro e he
      rcases List.mem_cons.mp he with rfl | he
      · exact hk
      · exact h e he
    · split
      · intro e he
        rcases List.mem_cons.mp he with rfl | he
        · exact hk
        · exact hm e he
      · intro e he
        rcases List.mem_cons.mp he with rfl | he
        · exact hj
        · exact ih hm e he

theorem rising_put (m : List (Nat × β)) (k : Nat) (v : β) (h : rising m = true) : rising (put m k v) = true := by
  induction m with
  | nil => rfl
  | cons e m ih =>
    obtain ⟨j, u⟩ := e
    obtain ⟨ha, hr⟩ := (rising_cons _ _).mp h
    simp only [put]
    split
    · refine (rising_cons _ _).mpr ⟨?_, h⟩
      intro e he
      rcases List.mem_cons.mp he with rfl | he
      · assumption
      · exact Nat.lt_trans ‹k < j› (ha e he)
    · split
      · subst k
        exact (rising_cons _ _).mpr ⟨ha, hr⟩
      · exact (rising_cons _ _).mpr ⟨above_put m v ha (by simp only at *; omega), ih hr⟩

theorem mem_drop {m : List (Nat × β)} {k : Nat} {e : Nat × β} (h : e ∈ drop m k) : e ∈ m ∧ e.1 ≠ k := by
  induction m with
  | nil => cases h
  | cons f m ih =>
    obtain ⟨j, u⟩ := f
    by_cases hj : j = k
    · rw [drop, if_pos hj] at h
      exact ⟨List.mem_cons_of_mem _ (ih h).1, (ih h).2⟩
    · rw [drop, if_neg hj] at h
      rcases List.mem_cons.mp h with rfl | h
      · exact ⟨List.mem_cons_self .., hj⟩
      · exact ⟨List.mem_cons_of_mem _ (ih h).1, (ih h).2⟩

theorem rising_drop (m : List (Nat × β)) (k : Nat) (h : rising m = true) : rising (drop m k) = true := by
  induction m with
  | nil => rfl
  | cons e m ih =>
    obtain ⟨j, u⟩ := e
    obtain ⟨ha, hr⟩ := (rising_cons _ _).mp h
    by_cases hj : j = k
    · rw [drop, if_pos hj]
      exact ih hr
    · rw [drop, if_neg hj]
      exact (rising_cons _ _).mpr ⟨fun e he => ha e (mem_drop he).1, ih hr⟩

theorem rising_filter (m : List (Nat × β)) (p : Nat × β → Bool) (h : rising m = true) : rising (m.filter p) = true := by
  induction m with
  | nil => rfl
  | cons e m ih =>
    obtain ⟨ha, hr⟩ := (rising_cons _ _).mp h
    rw [List.filter_cons]
    split
    · exact (rising_cons _ _).mpr ⟨fun e he => ha e (List.mem_filter.mp he).1, ih hr⟩
    · exact ih hr

/-- A map that keeps the keys keeps their order. -/
theorem rising_map (m : List (Nat × β)) (f : Nat × β → Nat × γ) (hf : ∀ e, (f e).1 = e.1) (h : rising m = true) :
    rising (m.map f) = true := by
  induction m with
  | nil => rfl
  | cons e m ih =>
    obtain ⟨ha, hr⟩ := (rising_cons _ _).mp h
    refine (rising_cons _ _).mpr ⟨?_, ih hr⟩
    intro x hx
    obtain ⟨y, hy, rfl⟩ := List.mem_map.mp hx
    rw [hf, hf]
    exact ha y hy

theorem mem_put {m : List (Nat × β)} {k : Nat} {v : β} {e : Nat × β} (h : e ∈ put m k v) : e = (k, v) ∨ e ∈ m := by
  induction m with
  | nil => exact .inl (List.mem_singleton.mp h)
  | cons f m ih =>
    obtain ⟨j, u⟩ := f
    simp only [put] at h
    split at h
    · rcases List.mem_cons.mp h with rfl | h
      · exact .inl rfl
      · exact .inr h
    · split at h
      · rcases List.mem_cons.mp h with rfl | h
        · exact .inl rfl
        · exact .inr (List.mem_cons_of_mem _ h)
      · rcases List.mem_cons.mp h with rfl | h
        · exact .inr (List.mem_cons_self ..)
        · exact (ih h).imp id fun h => List.mem_cons_of_mem _ h

theorem find_change_self (m : List (Nat × β)) (k : Nat) (f : β → β) : find (change m k f) k = (find m k).map f := by
  unfold change
  split <;> simp [*]

theorem find_change_other (m : List (Nat × β)) {j k : Nat} (f : β → β) (h : j ≠ k) : find (change m k f) j = find m j := by
  unfold change
  split
  · exact find_put_other m _ h
  · rfl

theorem canonical_iff [DecidableEq β] (z : β) (m : SMap β) : canonical z m = true ↔ rising m = true ∧ ∀ e ∈ m, e.2 ≠ z := by
  simp [canonical]

/-- Writing a sparse map keeps its canonical form. -/
theorem canonical_setAt [DecidableEq β] (z : β) (m : SMap β) (k : Nat) (v : β) (h : canonical z m = true) :
    canonical z (setAt z m k v) = true := by
  rw [canonical_iff] at h ⊢
  unfold setAt
  split
  · exact ⟨rising_drop m k h.1, fun e he => h.2 e (mem_drop he).1⟩
  · refine ⟨rising_put m k v h.1, fun e he => ?_⟩
    rcases mem_put he with rfl | he
    · assumption
    · exact h.2 e he

/-- Two canonical maps that read alike everywhere are equal. -/
theorem canonical_ext [DecidableEq β] (z : β) (m n : SMap β) (hm : canonical z m = true) (hn : canonical z n = true)
    (h : ∀ k, getAt z m k = getAt z n k) : m = n := by
  have miss : ∀ (l : SMap β) (k : Nat), above k l → getAt z l k = z := by
    intro l
    induction l with
    | nil => intro k _; rfl
    | cons e l ih =>
      intro k hk
      have := hk e (List.mem_cons_self ..)
      simp only [getAt, find]
      rw [if_neg (by omega)]
      exact ih k fun x hx => hk x (List.mem_cons_of_mem _ hx)
  induction m generalizing n with
  | nil =>
    cases n with
    | nil => rfl
    | cons f n =>
      have := h f.1
      simp [getAt, find] at this
      exact absurd this.symm (((canonical_iff _ _).mp hn).2 f (List.mem_cons_self ..))
  | cons e m ih =>
    obtain ⟨hr, hz⟩ := (canonical_iff _ _).mp hm
    obtain ⟨ha, hr'⟩ := (rising_cons _ _).mp hr
    cases n with
    | nil =>
      have := h e.1
      simp [getAt, find] at this
      exact absurd this (hz e (List.mem_cons_self ..))
    | cons f n =>
      obtain ⟨hs, hy⟩ := (canonical_iff _ _).mp hn
      obtain ⟨hb, hs'⟩ := (rising_cons _ _).mp hs
      have he := h e.1
      have hf := h f.1
      obtain ⟨j, u⟩ := e
      obtain ⟨k, v⟩ := f
      have hjk : j = k := by
        rcases Nat.lt_trichotomy j k with hlt | heq | hgt
        · have : getAt z ((k, v) :: n) j = z :=
            miss _ j fun x hx => by
              rcases List.mem_cons.mp hx with rfl | hx
              · exact hlt
              · exact Nat.lt_trans hlt (hb x hx)
          rw [this] at he
          simp [getAt, find] at he
          exact absurd he (hz (j, u) (List.mem_cons_self ..))
        · exact heq
        · have : getAt z ((j, u) :: m) k = z :=
            miss _ k fun x hx => by
              rcases List.mem_cons.mp hx with rfl | hx
              · exact hgt
              · exact Nat.lt_trans hgt (ha x hx)
          rw [this] at hf
          simp [getAt, find] at hf
          exact absurd hf.symm (hy (k, v) (List.mem_cons_self ..))
      subst k
      simp [getAt, find] at he
      subst v
      rw [ih n ((canonical_iff _ _).mpr ⟨hr', fun e he => hz e (List.mem_cons_of_mem _ he)⟩)
        ((canonical_iff _ _).mpr ⟨hs', fun e he => hy e (List.mem_cons_of_mem _ he)⟩) fun i => ?_]
      by_cases hij : i = j
      · subst i
        rw [miss m j ha, miss n j hb]
      · have := h i
        simpa [getAt, find, Ne.symm hij] using this

@[simp] theorem readByte_writeByte_self (m : List Host.Cell) (a : Nat) (b : Byte) : readByte (writeByte m a b) a = b :=
  getAt_setAt_self ..

theorem readByte_writeByte_other (m : List Host.Cell) {a c : Nat} (b : Byte) (h : c ≠ a) :
    readByte (writeByte m a b) c = readByte m c :=
  getAt_setAt_other _ _ _ h

theorem wf_writeByte (m : List Host.Cell) (a : Nat) (b : Byte) (h : Memory.wf m = true) : Memory.wf (writeByte m a b) = true :=
  canonical_setAt _ _ _ _ h

theorem wf_writeBytes (m : List Host.Cell) (a : Nat) (bs : List Byte) (h : Memory.wf m = true) :
    Memory.wf (writeBytes m a bs) = true := by
  induction bs generalizing m a with
  | nil => exact h
  | cons b bs ih => exact ih _ _ (wf_writeByte m a b h)

/-- A byte read after a run of writes. -/
theorem readByte_writeBytes (m : List Host.Cell) (a : Nat) (bs : List Byte) (c : Nat) :
    readByte (writeBytes m a bs) c = if a ≤ c ∧ c < a + bs.length then bs.getD (c - a) 0 else readByte m c := by
  induction bs generalizing m a with
  | nil =>
    rw [if_neg (by simp only [List.length_nil]; omega)]
    rfl
  | cons b bs ih =>
    simp only [writeBytes, ih, List.length_cons]
    by_cases hc : c = a
    · subst c
      rw [if_neg (by omega), if_pos (by omega)]
      simp
    · rw [readByte_writeByte_other _ _ hc]
      by_cases h1 : a + 1 ≤ c ∧ c < a + 1 + bs.length
      · rw [if_pos h1, if_pos (by omega)]
        obtain ⟨n, rfl⟩ : ∃ n, c = a + 1 + n := ⟨c - (a + 1), by omega⟩
        rw [show a + 1 + n - a = n + 1 from by omega, show a + 1 + n - (a + 1) = n from by omega]
        rfl
      · rw [if_neg h1, if_neg (by omega)]

end Sys2Proof.Machine
end

