-- ==== Sys2Proof/Laws/State.lean ====
section
/-! SUPPORT. One lemma for each field after each of the named updates of the machine and of a gang. -/

namespace Sys2Proof.Machine

/-! setGang changes gangs alone. -/

@[simp] theorem State.setGang_tick (s : State) (n : Nat) (x : Gang) : (s.setGang n x).tick = s.tick := rfl
@[simp] theorem State.setGang_agenda (s : State) (n : Nat) (x : Gang) : (s.setGang n x).agenda = s.agenda := rfl
@[simp] theorem State.setGang_focus (s : State) (n : Nat) (x : Gang) : (s.setGang n x).focus = s.focus := rfl
@[simp] theorem State.setGang_cur (s : State) (n : Nat) (x : Gang) : (s.setGang n x).cur = s.cur := rfl
@[simp] theorem State.setGang_fresh (s : State) (n : Nat) (x : Gang) : (s.setGang n x).fresh = s.fresh := rfl
@[simp] theorem State.setGang_gangs (s : State) (n : Nat) (x : Gang) : (s.setGang n x).gangs = put s.gangs n x := rfl
@[simp] theorem State.setGang_blocks (s : State) (n : Nat) (x : Gang) : (s.setGang n x).blocks = s.blocks := rfl
@[simp] theorem State.setGang_clusters (s : State) (n : Nat) (x : Gang) : (s.setGang n x).clusters = s.clusters := rfl
@[simp] theorem State.setGang_grids (s : State) (n : Nat) (x : Gang) : (s.setGang n x).grids = s.grids := rfl
@[simp] theorem State.setGang_contexts (s : State) (n : Nat) (x : Gang) : (s.setGang n x).contexts = s.contexts := rfl
@[simp] theorem State.setGang_queues (s : State) (n : Nat) (x : Gang) : (s.setGang n x).queues = s.queues := rfl
@[simp] theorem State.setGang_quarters (s : State) (n : Nat) (x : Gang) : (s.setGang n x).quarters = s.quarters := rfl
@[simp] theorem State.setGang_cus (s : State) (n : Nat) (x : Gang) : (s.setGang n x).cus = s.cus := rfl
@[simp] theorem State.setGang_dies (s : State) (n : Nat) (x : Gang) : (s.setGang n x).dies = s.dies := rfl
@[simp] theorem State.setGang_mem (s : State) (n : Nat) (x : Gang) : (s.setGang n x).mem = s.mem := rfl
@[simp] theorem State.setGang_hostMem (s : State) (n : Nat) (x : Gang) : (s.setGang n x).hostMem = s.hostMem := rfl
@[simp] theorem State.setGang_writes (s : State) (n : Nat) (x : Gang) : (s.setGang n x).writes = s.writes := rfl
@[simp] theorem State.setGang_replaced (s : State) (n : Nat) (x : Gang) : (s.setGang n x).replaced = s.replaced := rfl
@[simp] theorem State.setGang_poison (s : State) (n : Nat) (x : Gang) : (s.setGang n x).poison = s.poison := rfl
@[simp] theorem State.setGang_mended (s : State) (n : Nat) (x : Gang) : (s.setGang n x).mended = s.mended := rfl
@[simp] theorem State.setGang_rind (s : State) (n : Nat) (x : Gang) : (s.setGang n x).rind = s.rind := rfl
@[simp] theorem State.setGang_crcs (s : State) (n : Nat) (x : Gang) : (s.setGang n x).crcs = s.crcs := rfl
@[simp] theorem State.setGang_heldContexts (s : State) (n : Nat) (x : Gang) : (s.setGang n x).heldContexts = s.heldContexts := rfl
@[simp] theorem State.setGang_epoch (s : State) (n : Nat) (x : Gang) : (s.setGang n x).epoch = s.epoch := rfl
@[simp] theorem State.setGang_publishing (s : State) (n : Nat) (x : Gang) : (s.setGang n x).publishing = s.publishing := rfl
@[simp] theorem State.setGang_moves (s : State) (n : Nat) (x : Gang) : (s.setGang n x).moves = s.moves := rfl
@[simp] theorem State.setGang_rebuilds (s : State) (n : Nat) (x : Gang) : (s.setGang n x).rebuilds = s.rebuilds := rfl
@[simp] theorem State.setGang_recoveries (s : State) (n : Nat) (x : Gang) : (s.setGang n x).recoveries = s.recoveries := rfl
@[simp] theorem State.setGang_outside (s : State) (n : Nat) (x : Gang) : (s.setGang n x).outside = s.outside := rfl
@[simp] theorem State.setGang_exports (s : State) (n : Nat) (x : Gang) : (s.setGang n x).exports = s.exports := rfl
@[simp] theorem State.setGang_stage (s : State) (n : Nat) (x : Gang) : (s.setGang n x).stage = s.stage := rfl
@[simp] theorem State.setGang_bootErr (s : State) (n : Nat) (x : Gang) : (s.setGang n x).bootErr = s.bootErr := rfl
@[simp] theorem State.setGang_rdy (s : State) (n : Nat) (x : Gang) : (s.setGang n x).rdy = s.rdy := rfl
@[simp] theorem State.setGang_node (s : State) (n : Nat) (x : Gang) : (s.setGang n x).node = s.node := rfl
@[simp] theorem State.setGang_mbxBase (s : State) (n : Nat) (x : Gang) : (s.setGang n x).mbxBase = s.mbxBase := rfl
@[simp] theorem State.setGang_mbxWr (s : State) (n : Nat) (x : Gang) : (s.setGang n x).mbxWr = s.mbxWr := rfl
@[simp] theorem State.setGang_mbxRd (s : State) (n : Nat) (x : Gang) : (s.setGang n x).mbxRd = s.mbxRd := rfl
@[simp] theorem State.setGang_rstkey (s : State) (n : Nat) (x : Gang) : (s.setGang n x).rstkey = s.rstkey := rfl
@[simp] theorem State.setGang_powered (s : State) (n : Nat) (x : Gang) : (s.setGang n x).powered = s.powered := rfl
@[simp] theorem State.setGang_budgets (s : State) (n : Nat) (x : Gang) : (s.setGang n x).budgets = s.budgets := rfl
@[simp] theorem State.setGang_errors (s : State) (n : Nat) (x : Gang) : (s.setGang n x).errors = s.errors := rfl
@[simp] theorem State.setGang_resyncSeq (s : State) (n : Nat) (x : Gang) : (s.setGang n x).resyncSeq = s.resyncSeq := rfl
@[simp] theorem State.setGang_routes (s : State) (n : Nat) (x : Gang) : (s.setGang n x).routes = s.routes := rfl
@[simp] theorem State.setGang_ports (s : State) (n : Nat) (x : Gang) : (s.setGang n x).ports = s.ports := rfl
@[simp] theorem State.setGang_queueRr (s : State) (n : Nat) (x : Gang) : (s.setGang n x).queueRr = s.queueRr := rfl
@[simp] theorem State.setGang_ctxRr (s : State) (n : Nat) (x : Gang) : (s.setGang n x).ctxRr = s.ctxRr := rfl
@[simp] theorem State.setGang_gridOrder (s : State) (n : Nat) (x : Gang) : (s.setGang n x).gridOrder = s.gridOrder := rfl
@[simp] theorem State.setGang_answers (s : State) (n : Nat) (x : Gang) : (s.setGang n x).answers = s.answers := rfl

/-! onGang changes gangs alone. -/

@[simp] theorem State.onGang_tick (s : State) (n : Nat) (f : Gang → Gang) : (s.onGang n f).tick = s.tick := rfl
@[simp] theorem State.onGang_agenda (s : State) (n : Nat) (f : Gang → Gang) : (s.onGang n f).agenda = s.agenda := rfl
@[simp] theorem State.onGang_focus (s : State) (n : Nat) (f : Gang → Gang) : (s.onGang n f).focus = s.focus := rfl
@[simp] theorem State.onGang_cur (s : State) (n : Nat) (f : Gang → Gang) : (s.onGang n f).cur = s.cur := rfl
@[simp] theorem State.onGang_fresh (s : State) (n : Nat) (f : Gang → Gang) : (s.onGang n f).fresh = s.fresh := rfl
@[simp] theorem State.onGang_gangs (s : State) (n : Nat) (f : Gang → Gang) : (s.onGang n f).gangs = change s.gangs n f := rfl
@[simp] theorem State.onGang_blocks (s : State) (n : Nat) (f : Gang → Gang) : (s.onGang n f).blocks = s.blocks := rfl
@[simp] theorem State.onGang_clusters (s : State) (n : Nat) (f : Gang → Gang) : (s.onGang n f).clusters = s.clusters := rfl
@[simp] theorem State.onGang_grids (s : State) (n : Nat) (f : Gang → Gang) : (s.onGang n f).grids = s.grids := rfl
@[simp] theorem State.onGang_contexts (s : State) (n : Nat) (f : Gang → Gang) : (s.onGang n f).contexts = s.contexts := rfl
@[simp] theorem State.onGang_queues (s : State) (n : Nat) (f : Gang → Gang) : (s.onGang n f).queues = s.queues := rfl
@[simp] theorem State.onGang_quarters (s : State) (n : Nat) (f : Gang → Gang) : (s.onGang n f).quarters = s.quarters := rfl
@[simp] theorem State.onGang_cus (s : State) (n : Nat) (f : Gang → Gang) : (s.onGang n f).cus = s.cus := rfl
@[simp] theorem State.onGang_dies (s : State) (n : Nat) (f : Gang → Gang) : (s.onGang n f).dies = s.dies := rfl
@[simp] theorem State.onGang_mem (s : State) (n : Nat) (f : Gang → Gang) : (s.onGang n f).mem = s.mem := rfl
@[simp] theorem State.onGang_hostMem (s : State) (n : Nat) (f : Gang → Gang) : (s.onGang n f).hostMem = s.hostMem := rfl
@[simp] theorem State.onGang_writes (s : State) (n : Nat) (f : Gang → Gang) : (s.onGang n f).writes = s.writes := rfl
@[simp] theorem State.onGang_replaced (s : State) (n : Nat) (f : Gang → Gang) : (s.onGang n f).replaced = s.replaced := rfl
@[simp] theorem State.onGang_poison (s : State) (n : Nat) (f : Gang → Gang) : (s.onGang n f).poison = s.poison := rfl
@[simp] theorem State.onGang_mended (s : State) (n : Nat) (f : Gang → Gang) : (s.onGang n f).mended = s.mended := rfl
@[simp] theorem State.onGang_rind (s : State) (n : Nat) (f : Gang → Gang) : (s.onGang n f).rind = s.rind := rfl
@[simp] theorem State.onGang_crcs (s : State) (n : Nat) (f : Gang → Gang) : (s.onGang n f).crcs = s.crcs := rfl
@[simp] theorem State.onGang_heldContexts (s : State) (n : Nat) (f : Gang → Gang) : (s.onGang n f).heldContexts = s.heldContexts := rfl
@[simp] theorem State.onGang_epoch (s : State) (n : Nat) (f : Gang → Gang) : (s.onGang n f).epoch = s.epoch := rfl
@[simp] theorem State.onGang_publishing (s : State) (n : Nat) (f : Gang → Gang) : (s.onGang n f).publishing = s.publishing := rfl
@[simp] theorem State.onGang_moves (s : State) (n : Nat) (f : Gang → Gang) : (s.onGang n f).moves = s.moves := rfl
@[simp] theorem State.onGang_rebuilds (s : State) (n : Nat) (f : Gang → Gang) : (s.onGang n f).rebuilds = s.rebuilds := rfl
@[simp] theorem State.onGang_recoveries (s : State) (n : Nat) (f : Gang → Gang) : (s.onGang n f).recoveries = s.recoveries := rfl
@[simp] theorem State.onGang_outside (s : State) (n : Nat) (f : Gang → Gang) : (s.onGang n f).outside = s.outside := rfl
@[simp] theorem State.onGang_exports (s : State) (n : Nat) (f : Gang → Gang) : (s.onGang n f).exports = s.exports := rfl
@[simp] theorem State.onGang_stage (s : State) (n : Nat) (f : Gang → Gang) : (s.onGang n f).stage = s.stage := rfl
@[simp] theorem State.onGang_bootErr (s : State) (n : Nat) (f : Gang → Gang) : (s.onGang n f).bootErr = s.bootErr := rfl
@[simp] theorem State.onGang_rdy (s : State) (n : Nat) (f : Gang → Gang) : (s.onGang n f).rdy = s.rdy := rfl
@[simp] theorem State.onGang_node (s : State) (n : Nat) (f : Gang → Gang) : (s.onGang n f).node = s.node := rfl
@[simp] theorem State.onGang_mbxBase (s : State) (n : Nat) (f : Gang → Gang) : (s.onGang n f).mbxBase = s.mbxBase := rfl
@[simp] theorem State.onGang_mbxWr (s : State) (n : Nat) (f : Gang → Gang) : (s.onGang n f).mbxWr = s.mbxWr := rfl
@[simp] theorem State.onGang_mbxRd (s : State) (n : Nat) (f : Gang → Gang) : (s.onGang n f).mbxRd = s.mbxRd := rfl
@[simp] theorem State.onGang_rstkey (s : State) (n : Nat) (f : Gang → Gang) : (s.onGang n f).rstkey = s.rstkey := rfl
@[simp] theorem State.onGang_powered (s : State) (n : Nat) (f : Gang → Gang) : (s.onGang n f).powered = s.powered := rfl
@[simp] theorem State.onGang_budgets (s : State) (n : Nat) (f : Gang → Gang) : (s.onGang n f).budgets = s.budgets := rfl
@[simp] theorem State.onGang_errors (s : State) (n : Nat) (f : Gang → Gang) : (s.onGang n f).errors = s.errors := rfl
@[simp] theorem State.onGang_resyncSeq (s : State) (n : Nat) (f : Gang → Gang) : (s.onGang n f).resyncSeq = s.resyncSeq := rfl
@[simp] theorem State.onGang_routes (s : State) (n : Nat) (f : Gang → Gang) : (s.onGang n f).routes = s.routes := rfl
@[simp] theorem State.onGang_ports (s : State) (n : Nat) (f : Gang → Gang) : (s.onGang n f).ports = s.ports := rfl
@[simp] theorem State.onGang_queueRr (s : State) (n : Nat) (f : Gang → Gang) : (s.onGang n f).queueRr = s.queueRr := rfl
@[simp] theorem State.onGang_ctxRr (s : State) (n : Nat) (f : Gang → Gang) : (s.onGang n f).ctxRr = s.ctxRr := rfl
@[simp] theorem State.onGang_gridOrder (s : State) (n : Nat) (f : Gang → Gang) : (s.onGang n f).gridOrder = s.gridOrder := rfl
@[simp] theorem State.onGang_answers (s : State) (n : Nat) (f : Gang → Gang) : (s.onGang n f).answers = s.answers := rfl

/-! onBlock changes blocks alone. -/

@[simp] theorem State.onBlock_tick (s : State) (n : Nat) (f : Block → Block) : (s.onBlock n f).tick = s.tick := rfl
@[simp] theorem State.onBlock_agenda (s : State) (n : Nat) (f : Block → Block) : (s.onBlock n f).agenda = s.agenda := rfl
@[simp] theorem State.onBlock_focus (s : State) (n : Nat) (f : Block → Block) : (s.onBlock n f).focus = s.focus := rfl
@[simp] theorem State.onBlock_cur (s : State) (n : Nat) (f : Block → Block) : (s.onBlock n f).cur = s.cur := rfl
@[simp] theorem State.onBlock_fresh (s : State) (n : Nat) (f : Block → Block) : (s.onBlock n f).fresh = s.fresh := rfl
@[simp] theorem State.onBlock_gangs (s : State) (n : Nat) (f : Block → Block) : (s.onBlock n f).gangs = s.gangs := rfl
@[simp] theorem State.onBlock_blocks (s : State) (n : Nat) (f : Block → Block) : (s.onBlock n f).blocks = change s.blocks n f := rfl
@[simp] theorem State.onBlock_clusters (s : State) (n : Nat) (f : Block → Block) : (s.onBlock n f).clusters = s.clusters := rfl
@[simp] theorem State.onBlock_grids (s : State) (n : Nat) (f : Block → Block) : (s.onBlock n f).grids = s.grids := rfl
@[simp] theorem State.onBlock_contexts (s : State) (n : Nat) (f : Block → Block) : (s.onBlock n f).contexts = s.contexts := rfl
@[simp] theorem State.onBlock_queues (s : State) (n : Nat) (f : Block → Block) : (s.onBlock n f).queues = s.queues := rfl
@[simp] theorem State.onBlock_quarters (s : State) (n : Nat) (f : Block → Block) : (s.onBlock n f).quarters = s.quarters := rfl
@[simp] theorem State.onBlock_cus (s : State) (n : Nat) (f : Block → Block) : (s.onBlock n f).cus = s.cus := rfl
@[simp] theorem State.onBlock_dies (s : State) (n : Nat) (f : Block → Block) : (s.onBlock n f).dies = s.dies := rfl
@[simp] theorem State.onBlock_mem (s : State) (n : Nat) (f : Block → Block) : (s.onBlock n f).mem = s.mem := rfl
@[simp] theorem State.onBlock_hostMem (s : State) (n : Nat) (f : Block → Block) : (s.onBlock n f).hostMem = s.hostMem := rfl
@[simp] theorem State.onBlock_writes (s : State) (n : Nat) (f : Block → Block) : (s.onBlock n f).writes = s.writes := rfl
@[simp] theorem State.onBlock_replaced (s : State) (n : Nat) (f : Block → Block) : (s.onBlock n f).replaced = s.replaced := rfl
@[simp] theorem State.onBlock_poison (s : State) (n : Nat) (f : Block → Block) : (s.onBlock n f).poison = s.poison := rfl
@[simp] theorem State.onBlock_mended (s : State) (n : Nat) (f : Block → Block) : (s.onBlock n f).mended = s.mended := rfl
@[simp] theorem State.onBlock_rind (s : State) (n : Nat) (f : Block → Block) : (s.onBlock n f).rind = s.rind := rfl
@[simp] theorem State.onBlock_crcs (s : State) (n : Nat) (f : Block → Block) : (s.onBlock n f).crcs = s.crcs := rfl
@[simp] theorem State.onBlock_heldContexts (s : State) (n : Nat) (f : Block → Block) : (s.onBlock n f).heldContexts = s.heldContexts := rfl
@[simp] theorem State.onBlock_epoch (s : State) (n : Nat) (f : Block → Block) : (s.onBlock n f).epoch = s.epoch := rfl
@[simp] theorem State.onBlock_publishing (s : State) (n : Nat) (f : Block → Block) : (s.onBlock n f).publishing = s.publishing := rfl
@[simp] theorem State.onBlock_moves (s : State) (n : Nat) (f : Block → Block) : (s.onBlock n f).moves = s.moves := rfl
@[simp] theorem State.onBlock_rebuilds (s : State) (n : Nat) (f : Block → Block) : (s.onBlock n f).rebuilds = s.rebuilds := rfl
@[simp] theorem State.onBlock_recoveries (s : State) (n : Nat) (f : Block → Block) : (s.onBlock n f).recoveries = s.recoveries := rfl
@[simp] theorem State.onBlock_outside (s : State) (n : Nat) (f : Block → Block) : (s.onBlock n f).outside = s.outside := rfl
@[simp] theorem State.onBlock_exports (s : State) (n : Nat) (f : Block → Block) : (s.onBlock n f).exports = s.exports := rfl
@[simp] theorem State.onBlock_stage (s : State) (n : Nat) (f : Block → Block) : (s.onBlock n f).stage = s.stage := rfl
@[simp] theorem State.onBlock_bootErr (s : State) (n : Nat) (f : Block → Block) : (s.onBlock n f).bootErr = s.bootErr := rfl
@[simp] theorem State.onBlock_rdy (s : State) (n : Nat) (f : Block → Block) : (s.onBlock n f).rdy = s.rdy := rfl
@[simp] theorem State.onBlock_node (s : State) (n : Nat) (f : Block → Block) : (s.onBlock n f).node = s.node := rfl
@[simp] theorem State.onBlock_mbxBase (s : State) (n : Nat) (f : Block → Block) : (s.onBlock n f).mbxBase = s.mbxBase := rfl
@[simp] theorem State.onBlock_mbxWr (s : State) (n : Nat) (f : Block → Block) : (s.onBlock n f).mbxWr = s.mbxWr := rfl
@[simp] theorem State.onBlock_mbxRd (s : State) (n : Nat) (f : Block → Block) : (s.onBlock n f).mbxRd = s.mbxRd := rfl
@[simp] theorem State.onBlock_rstkey (s : State) (n : Nat) (f : Block → Block) : (s.onBlock n f).rstkey = s.rstkey := rfl
@[simp] theorem State.onBlock_powered (s : State) (n : Nat) (f : Block → Block) : (s.onBlock n f).powered = s.powered := rfl
@[simp] theorem State.onBlock_budgets (s : State) (n : Nat) (f : Block → Block) : (s.onBlock n f).budgets = s.budgets := rfl
@[simp] theorem State.onBlock_errors (s : State) (n : Nat) (f : Block → Block) : (s.onBlock n f).errors = s.errors := rfl
@[simp] theorem State.onBlock_resyncSeq (s : State) (n : Nat) (f : Block → Block) : (s.onBlock n f).resyncSeq = s.resyncSeq := rfl
@[simp] theorem State.onBlock_routes (s : State) (n : Nat) (f : Block → Block) : (s.onBlock n f).routes = s.routes := rfl
@[simp] theorem State.onBlock_ports (s : State) (n : Nat) (f : Block → Block) : (s.onBlock n f).ports = s.ports := rfl
@[simp] theorem State.onBlock_queueRr (s : State) (n : Nat) (f : Block → Block) : (s.onBlock n f).queueRr = s.queueRr := rfl
@[simp] theorem State.onBlock_ctxRr (s : State) (n : Nat) (f : Block → Block) : (s.onBlock n f).ctxRr = s.ctxRr := rfl
@[simp] theorem State.onBlock_gridOrder (s : State) (n : Nat) (f : Block → Block) : (s.onBlock n f).gridOrder = s.gridOrder := rfl
@[simp] theorem State.onBlock_answers (s : State) (n : Nat) (f : Block → Block) : (s.onBlock n f).answers = s.answers := rfl

/-! onCtx changes contexts alone. -/

@[simp] theorem State.onCtx_tick (s : State) (n : Nat) (f : Context → Context) : (s.onCtx n f).tick = s.tick := rfl
@[simp] theorem State.onCtx_agenda (s : State) (n : Nat) (f : Context → Context) : (s.onCtx n f).agenda = s.agenda := rfl
@[simp] theorem State.onCtx_focus (s : State) (n : Nat) (f : Context → Context) : (s.onCtx n f).focus = s.focus := rfl
@[simp] theorem State.onCtx_cur (s : State) (n : Nat) (f : Context → Context) : (s.onCtx n f).cur = s.cur := rfl
@[simp] theorem State.onCtx_fresh (s : State) (n : Nat) (f : Context → Context) : (s.onCtx n f).fresh = s.fresh := rfl
@[simp] theorem State.onCtx_gangs (s : State) (n : Nat) (f : Context → Context) : (s.onCtx n f).gangs = s.gangs := rfl
@[simp] theorem State.onCtx_blocks (s : State) (n : Nat) (f : Context → Context) : (s.onCtx n f).blocks = s.blocks := rfl
@[simp] theorem State.onCtx_clusters (s : State) (n : Nat) (f : Context → Context) : (s.onCtx n f).clusters = s.clusters := rfl
@[simp] theorem State.onCtx_grids (s : State) (n : Nat) (f : Context → Context) : (s.onCtx n f).grids = s.grids := rfl
@[simp] theorem State.onCtx_contexts (s : State) (n : Nat) (f : Context → Context) : (s.onCtx n f).contexts = change s.contexts n f := rfl
@[simp] theorem State.onCtx_queues (s : State) (n : Nat) (f : Context → Context) : (s.onCtx n f).queues = s.queues := rfl
@[simp] theorem State.onCtx_quarters (s : State) (n : Nat) (f : Context → Context) : (s.onCtx n f).quarters = s.quarters := rfl
@[simp] theorem State.onCtx_cus (s : State) (n : Nat) (f : Context → Context) : (s.onCtx n f).cus = s.cus := rfl
@[simp] theorem State.onCtx_dies (s : State) (n : Nat) (f : Context → Context) : (s.onCtx n f).dies = s.dies := rfl
@[simp] theorem State.onCtx_mem (s : State) (n : Nat) (f : Context → Context) : (s.onCtx n f).mem = s.mem := rfl
@[simp] theorem State.onCtx_hostMem (s : State) (n : Nat) (f : Context → Context) : (s.onCtx n f).hostMem = s.hostMem := rfl
@[simp] theorem State.onCtx_writes (s : State) (n : Nat) (f : Context → Context) : (s.onCtx n f).writes = s.writes := rfl
@[simp] theorem State.onCtx_replaced (s : State) (n : Nat) (f : Context → Context) : (s.onCtx n f).replaced = s.replaced := rfl
@[simp] theorem State.onCtx_poison (s : State) (n : Nat) (f : Context → Context) : (s.onCtx n f).poison = s.poison := rfl
@[simp] theorem State.onCtx_mended (s : State) (n : Nat) (f : Context → Context) : (s.onCtx n f).mended = s.mended := rfl
@[simp] theorem State.onCtx_rind (s : State) (n : Nat) (f : Context → Context) : (s.onCtx n f).rind = s.rind := rfl
@[simp] theorem State.onCtx_crcs (s : State) (n : Nat) (f : Context → Context) : (s.onCtx n f).crcs = s.crcs := rfl
@[simp] theorem State.onCtx_heldContexts (s : State) (n : Nat) (f : Context → Context) : (s.onCtx n f).heldContexts = s.heldContexts := rfl
@[simp] theorem State.onCtx_epoch (s : State) (n : Nat) (f : Context → Context) : (s.onCtx n f).epoch = s.epoch := rfl
@[simp] theorem State.onCtx_publishing (s : State) (n : Nat) (f : Context → Context) : (s.onCtx n f).publishing = s.publishing := rfl
@[simp] theorem State.onCtx_moves (s : State) (n : Nat) (f : Context → Context) : (s.onCtx n f).moves = s.moves := rfl
@[simp] theorem State.onCtx_rebuilds (s : State) (n : Nat) (f : Context → Context) : (s.onCtx n f).rebuilds = s.rebuilds := rfl
@[simp] theorem State.onCtx_recoveries (s : State) (n : Nat) (f : Context → Context) : (s.onCtx n f).recoveries = s.recoveries := rfl
@[simp] theorem State.onCtx_outside (s : State) (n : Nat) (f : Context → Context) : (s.onCtx n f).outside = s.outside := rfl
@[simp] theorem State.onCtx_exports (s : State) (n : Nat) (f : Context → Context) : (s.onCtx n f).exports = s.exports := rfl
@[simp] theorem State.onCtx_stage (s : State) (n : Nat) (f : Context → Context) : (s.onCtx n f).stage = s.stage := rfl
@[simp] theorem State.onCtx_bootErr (s : State) (n : Nat) (f : Context → Context) : (s.onCtx n f).bootErr = s.bootErr := rfl
@[simp] theorem State.onCtx_rdy (s : State) (n : Nat) (f : Context → Context) : (s.onCtx n f).rdy = s.rdy := rfl
@[simp] theorem State.onCtx_node (s : State) (n : Nat) (f : Context → Context) : (s.onCtx n f).node = s.node := rfl
@[simp] theorem State.onCtx_mbxBase (s : State) (n : Nat) (f : Context → Context) : (s.onCtx n f).mbxBase = s.mbxBase := rfl
@[simp] theorem State.onCtx_mbxWr (s : State) (n : Nat) (f : Context → Context) : (s.onCtx n f).mbxWr = s.mbxWr := rfl
@[simp] theorem State.onCtx_mbxRd (s : State) (n : Nat) (f : Context → Context) : (s.onCtx n f).mbxRd = s.mbxRd := rfl
@[simp] theorem State.onCtx_rstkey (s : State) (n : Nat) (f : Context → Context) : (s.onCtx n f).rstkey = s.rstkey := rfl
@[simp] theorem State.onCtx_powered (s : State) (n : Nat) (f : Context → Context) : (s.onCtx n f).powered = s.powered := rfl
@[simp] theorem State.onCtx_budgets (s : State) (n : Nat) (f : Context → Context) : (s.onCtx n f).budgets = s.budgets := rfl
@[simp] theorem State.onCtx_errors (s : State) (n : Nat) (f : Context → Context) : (s.onCtx n f).errors = s.errors := rfl
@[simp] theorem State.onCtx_resyncSeq (s : State) (n : Nat) (f : Context → Context) : (s.onCtx n f).resyncSeq = s.resyncSeq := rfl
@[simp] theorem State.onCtx_routes (s : State) (n : Nat) (f : Context → Context) : (s.onCtx n f).routes = s.routes := rfl
@[simp] theorem State.onCtx_ports (s : State) (n : Nat) (f : Context → Context) : (s.onCtx n f).ports = s.ports := rfl
@[simp] theorem State.onCtx_queueRr (s : State) (n : Nat) (f : Context → Context) : (s.onCtx n f).queueRr = s.queueRr := rfl
@[simp] theorem State.onCtx_ctxRr (s : State) (n : Nat) (f : Context → Context) : (s.onCtx n f).ctxRr = s.ctxRr := rfl
@[simp] theorem State.onCtx_gridOrder (s : State) (n : Nat) (f : Context → Context) : (s.onCtx n f).gridOrder = s.gridOrder := rfl
@[simp] theorem State.onCtx_answers (s : State) (n : Nat) (f : Context → Context) : (s.onCtx n f).answers = s.answers := rfl

/-! setQuarter changes quarters alone. -/

@[simp] theorem State.setQuarter_tick (s : State) (n : Nat) (x : Quarter) : (s.setQuarter n x).tick = s.tick := rfl
@[simp] theorem State.setQuarter_agenda (s : State) (n : Nat) (x : Quarter) : (s.setQuarter n x).agenda = s.agenda := rfl
@[simp] theorem State.setQuarter_focus (s : State) (n : Nat) (x : Quarter) : (s.setQuarter n x).focus = s.focus := rfl
@[simp] theorem State.setQuarter_cur (s : State) (n : Nat) (x : Quarter) : (s.setQuarter n x).cur = s.cur := rfl
@[simp] theorem State.setQuarter_fresh (s : State) (n : Nat) (x : Quarter) : (s.setQuarter n x).fresh = s.fresh := rfl
@[simp] theorem State.setQuarter_gangs (s : State) (n : Nat) (x : Quarter) : (s.setQuarter n x).gangs = s.gangs := rfl
@[simp] theorem State.setQuarter_blocks (s : State) (n : Nat) (x : Quarter) : (s.setQuarter n x).blocks = s.blocks := rfl
@[simp] theorem State.setQuarter_clusters (s : State) (n : Nat) (x : Quarter) : (s.setQuarter n x).clusters = s.clusters := rfl
@[simp] theorem State.setQuarter_grids (s : State) (n : Nat) (x : Quarter) : (s.setQuarter n x).grids = s.grids := rfl
@[simp] theorem State.setQuarter_contexts (s : State) (n : Nat) (x : Quarter) : (s.setQuarter n x).contexts = s.contexts := rfl
@[simp] theorem State.setQuarter_queues (s : State) (n : Nat) (x : Quarter) : (s.setQuarter n x).queues = s.queues := rfl
@[simp] theorem State.setQuarter_quarters (s : State) (n : Nat) (x : Quarter) : (s.setQuarter n x).quarters = put s.quarters n x := rfl
@[simp] theorem State.setQuarter_cus (s : State) (n : Nat) (x : Quarter) : (s.setQuarter n x).cus = s.cus := rfl
@[simp] theorem State.setQuarter_dies (s : State) (n : Nat) (x : Quarter) : (s.setQuarter n x).dies = s.dies := rfl
@[simp] theorem State.setQuarter_mem (s : State) (n : Nat) (x : Quarter) : (s.setQuarter n x).mem = s.mem := rfl
@[simp] theorem State.setQuarter_hostMem (s : State) (n : Nat) (x : Quarter) : (s.setQuarter n x).hostMem = s.hostMem := rfl
@[simp] theorem State.setQuarter_writes (s : State) (n : Nat) (x : Quarter) : (s.setQuarter n x).writes = s.writes := rfl
@[simp] theorem State.setQuarter_replaced (s : State) (n : Nat) (x : Quarter) : (s.setQuarter n x).replaced = s.replaced := rfl
@[simp] theorem State.setQuarter_poison (s : State) (n : Nat) (x : Quarter) : (s.setQuarter n x).poison = s.poison := rfl
@[simp] theorem State.setQuarter_mended (s : State) (n : Nat) (x : Quarter) : (s.setQuarter n x).mended = s.mended := rfl
@[simp] theorem State.setQuarter_rind (s : State) (n : Nat) (x : Quarter) : (s.setQuarter n x).rind = s.rind := rfl
@[simp] theorem State.setQuarter_crcs (s : State) (n : Nat) (x : Quarter) : (s.setQuarter n x).crcs = s.crcs := rfl
@[simp] theorem State.setQuarter_heldContexts (s : State) (n : Nat) (x : Quarter) : (s.setQuarter n x).heldContexts = s.heldContexts := rfl
@[simp] theorem State.setQuarter_epoch (s : State) (n : Nat) (x : Quarter) : (s.setQuarter n x).epoch = s.epoch := rfl
@[simp] theorem State.setQuarter_publishing (s : State) (n : Nat) (x : Quarter) : (s.setQuarter n x).publishing = s.publishing := rfl
@[simp] theorem State.setQuarter_moves (s : State) (n : Nat) (x : Quarter) : (s.setQuarter n x).moves = s.moves := rfl
@[simp] theorem State.setQuarter_rebuilds (s : State) (n : Nat) (x : Quarter) : (s.setQuarter n x).rebuilds = s.rebuilds := rfl
@[simp] theorem State.setQuarter_recoveries (s : State) (n : Nat) (x : Quarter) : (s.setQuarter n x).recoveries = s.recoveries := rfl
@[simp] theorem State.setQuarter_outside (s : State) (n : Nat) (x : Quarter) : (s.setQuarter n x).outside = s.outside := rfl
@[simp] theorem State.setQuarter_exports (s : State) (n : Nat) (x : Quarter) : (s.setQuarter n x).exports = s.exports := rfl
@[simp] theorem State.setQuarter_stage (s : State) (n : Nat) (x : Quarter) : (s.setQuarter n x).stage = s.stage := rfl
@[simp] theorem State.setQuarter_bootErr (s : State) (n : Nat) (x : Quarter) : (s.setQuarter n x).bootErr = s.bootErr := rfl
@[simp] theorem State.setQuarter_rdy (s : State) (n : Nat) (x : Quarter) : (s.setQuarter n x).rdy = s.rdy := rfl
@[simp] theorem State.setQuarter_node (s : State) (n : Nat) (x : Quarter) : (s.setQuarter n x).node = s.node := rfl
@[simp] theorem State.setQuarter_mbxBase (s : State) (n : Nat) (x : Quarter) : (s.setQuarter n x).mbxBase = s.mbxBase := rfl
@[simp] theorem State.setQuarter_mbxWr (s : State) (n : Nat) (x : Quarter) : (s.setQuarter n x).mbxWr = s.mbxWr := rfl
@[simp] theorem State.setQuarter_mbxRd (s : State) (n : Nat) (x : Quarter) : (s.setQuarter n x).mbxRd = s.mbxRd := rfl
@[simp] theorem State.setQuarter_rstkey (s : State) (n : Nat) (x : Quarter) : (s.setQuarter n x).rstkey = s.rstkey := rfl
@[simp] theorem State.setQuarter_powered (s : State) (n : Nat) (x : Quarter) : (s.setQuarter n x).powered = s.powered := rfl
@[simp] theorem State.setQuarter_budgets (s : State) (n : Nat) (x : Quarter) : (s.setQuarter n x).budgets = s.budgets := rfl
@[simp] theorem State.setQuarter_errors (s : State) (n : Nat) (x : Quarter) : (s.setQuarter n x).errors = s.errors := rfl
@[simp] theorem State.setQuarter_resyncSeq (s : State) (n : Nat) (x : Quarter) : (s.setQuarter n x).resyncSeq = s.resyncSeq := rfl
@[simp] theorem State.setQuarter_routes (s : State) (n : Nat) (x : Quarter) : (s.setQuarter n x).routes = s.routes := rfl
@[simp] theorem State.setQuarter_ports (s : State) (n : Nat) (x : Quarter) : (s.setQuarter n x).ports = s.ports := rfl
@[simp] theorem State.setQuarter_queueRr (s : State) (n : Nat) (x : Quarter) : (s.setQuarter n x).queueRr = s.queueRr := rfl
@[simp] theorem State.setQuarter_ctxRr (s : State) (n : Nat) (x : Quarter) : (s.setQuarter n x).ctxRr = s.ctxRr := rfl
@[simp] theorem State.setQuarter_gridOrder (s : State) (n : Nat) (x : Quarter) : (s.setQuarter n x).gridOrder = s.gridOrder := rfl
@[simp] theorem State.setQuarter_answers (s : State) (n : Nat) (x : Quarter) : (s.setQuarter n x).answers = s.answers := rfl

/-! setCu changes cus alone. -/

@[simp] theorem State.setCu_tick (s : State) (n : Nat) (x : Cu) : (s.setCu n x).tick = s.tick := rfl
@[simp] theorem State.setCu_agenda (s : State) (n : Nat) (x : Cu) : (s.setCu n x).agenda = s.agenda := rfl
@[simp] theorem State.setCu_focus (s : State) (n : Nat) (x : Cu) : (s.setCu n x).focus = s.focus := rfl
@[simp] theorem State.setCu_cur (s : State) (n : Nat) (x : Cu) : (s.setCu n x).cur = s.cur := rfl
@[simp] theorem State.setCu_fresh (s : State) (n : Nat) (x : Cu) : (s.setCu n x).fresh = s.fresh := rfl
@[simp] theorem State.setCu_gangs (s : State) (n : Nat) (x : Cu) : (s.setCu n x).gangs = s.gangs := rfl
@[simp] theorem State.setCu_blocks (s : State) (n : Nat) (x : Cu) : (s.setCu n x).blocks = s.blocks := rfl
@[simp] theorem State.setCu_clusters (s : State) (n : Nat) (x : Cu) : (s.setCu n x).clusters = s.clusters := rfl
@[simp] theorem State.setCu_grids (s : State) (n : Nat) (x : Cu) : (s.setCu n x).grids = s.grids := rfl
@[simp] theorem State.setCu_contexts (s : State) (n : Nat) (x : Cu) : (s.setCu n x).contexts = s.contexts := rfl
@[simp] theorem State.setCu_queues (s : State) (n : Nat) (x : Cu) : (s.setCu n x).queues = s.queues := rfl
@[simp] theorem State.setCu_quarters (s : State) (n : Nat) (x : Cu) : (s.setCu n x).quarters = s.quarters := rfl
@[simp] theorem State.setCu_cus (s : State) (n : Nat) (x : Cu) : (s.setCu n x).cus = put s.cus n x := rfl
@[simp] theorem State.setCu_dies (s : State) (n : Nat) (x : Cu) : (s.setCu n x).dies = s.dies := rfl
@[simp] theorem State.setCu_mem (s : State) (n : Nat) (x : Cu) : (s.setCu n x).mem = s.mem := rfl
@[simp] theorem State.setCu_hostMem (s : State) (n : Nat) (x : Cu) : (s.setCu n x).hostMem = s.hostMem := rfl
@[simp] theorem State.setCu_writes (s : State) (n : Nat) (x : Cu) : (s.setCu n x).writes = s.writes := rfl
@[simp] theorem State.setCu_replaced (s : State) (n : Nat) (x : Cu) : (s.setCu n x).replaced = s.replaced := rfl
@[simp] theorem State.setCu_poison (s : State) (n : Nat) (x : Cu) : (s.setCu n x).poison = s.poison := rfl
@[simp] theorem State.setCu_mended (s : State) (n : Nat) (x : Cu) : (s.setCu n x).mended = s.mended := rfl
@[simp] theorem State.setCu_rind (s : State) (n : Nat) (x : Cu) : (s.setCu n x).rind = s.rind := rfl
@[simp] theorem State.setCu_crcs (s : State) (n : Nat) (x : Cu) : (s.setCu n x).crcs = s.crcs := rfl
@[simp] theorem State.setCu_heldContexts (s : State) (n : Nat) (x : Cu) : (s.setCu n x).heldContexts = s.heldContexts := rfl
@[simp] theorem State.setCu_epoch (s : State) (n : Nat) (x : Cu) : (s.setCu n x).epoch = s.epoch := rfl
@[simp] theorem State.setCu_publishing (s : State) (n : Nat) (x : Cu) : (s.setCu n x).publishing = s.publishing := rfl
@[simp] theorem State.setCu_moves (s : State) (n : Nat) (x : Cu) : (s.setCu n x).moves = s.moves := rfl
@[simp] theorem State.setCu_rebuilds (s : State) (n : Nat) (x : Cu) : (s.setCu n x).rebuilds = s.rebuilds := rfl
@[simp] theorem State.setCu_recoveries (s : State) (n : Nat) (x : Cu) : (s.setCu n x).recoveries = s.recoveries := rfl
@[simp] theorem State.setCu_outside (s : State) (n : Nat) (x : Cu) : (s.setCu n x).outside = s.outside := rfl
@[simp] theorem State.setCu_exports (s : State) (n : Nat) (x : Cu) : (s.setCu n x).exports = s.exports := rfl
@[simp] theorem State.setCu_stage (s : State) (n : Nat) (x : Cu) : (s.setCu n x).stage = s.stage := rfl
@[simp] theorem State.setCu_bootErr (s : State) (n : Nat) (x : Cu) : (s.setCu n x).bootErr = s.bootErr := rfl
@[simp] theorem State.setCu_rdy (s : State) (n : Nat) (x : Cu) : (s.setCu n x).rdy = s.rdy := rfl
@[simp] theorem State.setCu_node (s : State) (n : Nat) (x : Cu) : (s.setCu n x).node = s.node := rfl
@[simp] theorem State.setCu_mbxBase (s : State) (n : Nat) (x : Cu) : (s.setCu n x).mbxBase = s.mbxBase := rfl
@[simp] theorem State.setCu_mbxWr (s : State) (n : Nat) (x : Cu) : (s.setCu n x).mbxWr = s.mbxWr := rfl
@[simp] theorem State.setCu_mbxRd (s : State) (n : Nat) (x : Cu) : (s.setCu n x).mbxRd = s.mbxRd := rfl
@[simp] theorem State.setCu_rstkey (s : State) (n : Nat) (x : Cu) : (s.setCu n x).rstkey = s.rstkey := rfl
@[simp] theorem State.setCu_powered (s : State) (n : Nat) (x : Cu) : (s.setCu n x).powered = s.powered := rfl
@[simp] theorem State.setCu_budgets (s : State) (n : Nat) (x : Cu) : (s.setCu n x).budgets = s.budgets := rfl
@[simp] theorem State.setCu_errors (s : State) (n : Nat) (x : Cu) : (s.setCu n x).errors = s.errors := rfl
@[simp] theorem State.setCu_resyncSeq (s : State) (n : Nat) (x : Cu) : (s.setCu n x).resyncSeq = s.resyncSeq := rfl
@[simp] theorem State.setCu_routes (s : State) (n : Nat) (x : Cu) : (s.setCu n x).routes = s.routes := rfl
@[simp] theorem State.setCu_ports (s : State) (n : Nat) (x : Cu) : (s.setCu n x).ports = s.ports := rfl
@[simp] theorem State.setCu_queueRr (s : State) (n : Nat) (x : Cu) : (s.setCu n x).queueRr = s.queueRr := rfl
@[simp] theorem State.setCu_ctxRr (s : State) (n : Nat) (x : Cu) : (s.setCu n x).ctxRr = s.ctxRr := rfl
@[simp] theorem State.setCu_gridOrder (s : State) (n : Nat) (x : Cu) : (s.setCu n x).gridOrder = s.gridOrder := rfl
@[simp] theorem State.setCu_answers (s : State) (n : Nat) (x : Cu) : (s.setCu n x).answers = s.answers := rfl

/-! setDie changes dies alone. -/

@[simp] theorem State.setDie_tick (s : State) (n : Nat) (x : Die) : (s.setDie n x).tick = s.tick := rfl
@[simp] theorem State.setDie_agenda (s : State) (n : Nat) (x : Die) : (s.setDie n x).agenda = s.agenda := rfl
@[simp] theorem State.setDie_focus (s : State) (n : Nat) (x : Die) : (s.setDie n x).focus = s.focus := rfl
@[simp] theorem State.setDie_cur (s : State) (n : Nat) (x : Die) : (s.setDie n x).cur = s.cur := rfl
@[simp] theorem State.setDie_fresh (s : State) (n : Nat) (x : Die) : (s.setDie n x).fresh = s.fresh := rfl
@[simp] theorem State.setDie_gangs (s : State) (n : Nat) (x : Die) : (s.setDie n x).gangs = s.gangs := rfl
@[simp] theorem State.setDie_blocks (s : State) (n : Nat) (x : Die) : (s.setDie n x).blocks = s.blocks := rfl
@[simp] theorem State.setDie_clusters (s : State) (n : Nat) (x : Die) : (s.setDie n x).clusters = s.clusters := rfl
@[simp] theorem State.setDie_grids (s : State) (n : Nat) (x : Die) : (s.setDie n x).grids = s.grids := rfl
@[simp] theorem State.setDie_contexts (s : State) (n : Nat) (x : Die) : (s.setDie n x).contexts = s.contexts := rfl
@[simp] theorem State.setDie_queues (s : State) (n : Nat) (x : Die) : (s.setDie n x).queues = s.queues := rfl
@[simp] theorem State.setDie_quarters (s : State) (n : Nat) (x : Die) : (s.setDie n x).quarters = s.quarters := rfl
@[simp] theorem State.setDie_cus (s : State) (n : Nat) (x : Die) : (s.setDie n x).cus = s.cus := rfl
@[simp] theorem State.setDie_dies (s : State) (n : Nat) (x : Die) : (s.setDie n x).dies = put s.dies n x := rfl
@[simp] theorem State.setDie_mem (s : State) (n : Nat) (x : Die) : (s.setDie n x).mem = s.mem := rfl
@[simp] theorem State.setDie_hostMem (s : State) (n : Nat) (x : Die) : (s.setDie n x).hostMem = s.hostMem := rfl
@[simp] theorem State.setDie_writes (s : State) (n : Nat) (x : Die) : (s.setDie n x).writes = s.writes := rfl
@[simp] theorem State.setDie_replaced (s : State) (n : Nat) (x : Die) : (s.setDie n x).replaced = s.replaced := rfl
@[simp] theorem State.setDie_poison (s : State) (n : Nat) (x : Die) : (s.setDie n x).poison = s.poison := rfl
@[simp] theorem State.setDie_mended (s : State) (n : Nat) (x : Die) : (s.setDie n x).mended = s.mended := rfl
@[simp] theorem State.setDie_rind (s : State) (n : Nat) (x : Die) : (s.setDie n x).rind = s.rind := rfl
@[simp] theorem State.setDie_crcs (s : State) (n : Nat) (x : Die) : (s.setDie n x).crcs = s.crcs := rfl
@[simp] theorem State.setDie_heldContexts (s : State) (n : Nat) (x : Die) : (s.setDie n x).heldContexts = s.heldContexts := rfl
@[simp] theorem State.setDie_epoch (s : State) (n : Nat) (x : Die) : (s.setDie n x).epoch = s.epoch := rfl
@[simp] theorem State.setDie_publishing (s : State) (n : Nat) (x : Die) : (s.setDie n x).publishing = s.publishing := rfl
@[simp] theorem State.setDie_moves (s : State) (n : Nat) (x : Die) : (s.setDie n x).moves = s.moves := rfl
@[simp] theorem State.setDie_rebuilds (s : State) (n : Nat) (x : Die) : (s.setDie n x).rebuilds = s.rebuilds := rfl
@[simp] theorem State.setDie_recoveries (s : State) (n : Nat) (x : Die) : (s.setDie n x).recoveries = s.recoveries := rfl
@[simp] theorem State.setDie_outside (s : State) (n : Nat) (x : Die) : (s.setDie n x).outside = s.outside := rfl
@[simp] theorem State.setDie_exports (s : State) (n : Nat) (x : Die) : (s.setDie n x).exports = s.exports := rfl
@[simp] theorem State.setDie_stage (s : State) (n : Nat) (x : Die) : (s.setDie n x).stage = s.stage := rfl
@[simp] theorem State.setDie_bootErr (s : State) (n : Nat) (x : Die) : (s.setDie n x).bootErr = s.bootErr := rfl
@[simp] theorem State.setDie_rdy (s : State) (n : Nat) (x : Die) : (s.setDie n x).rdy = s.rdy := rfl
@[simp] theorem State.setDie_node (s : State) (n : Nat) (x : Die) : (s.setDie n x).node = s.node := rfl
@[simp] theorem State.setDie_mbxBase (s : State) (n : Nat) (x : Die) : (s.setDie n x).mbxBase = s.mbxBase := rfl
@[simp] theorem State.setDie_mbxWr (s : State) (n : Nat) (x : Die) : (s.setDie n x).mbxWr = s.mbxWr := rfl
@[simp] theorem State.setDie_mbxRd (s : State) (n : Nat) (x : Die) : (s.setDie n x).mbxRd = s.mbxRd := rfl
@[simp] theorem State.setDie_rstkey (s : State) (n : Nat) (x : Die) : (s.setDie n x).rstkey = s.rstkey := rfl
@[simp] theorem State.setDie_powered (s : State) (n : Nat) (x : Die) : (s.setDie n x).powered = s.powered := rfl
@[simp] theorem State.setDie_budgets (s : State) (n : Nat) (x : Die) : (s.setDie n x).budgets = s.budgets := rfl
@[simp] theorem State.setDie_errors (s : State) (n : Nat) (x : Die) : (s.setDie n x).errors = s.errors := rfl
@[simp] theorem State.setDie_resyncSeq (s : State) (n : Nat) (x : Die) : (s.setDie n x).resyncSeq = s.resyncSeq := rfl
@[simp] theorem State.setDie_routes (s : State) (n : Nat) (x : Die) : (s.setDie n x).routes = s.routes := rfl
@[simp] theorem State.setDie_ports (s : State) (n : Nat) (x : Die) : (s.setDie n x).ports = s.ports := rfl
@[simp] theorem State.setDie_queueRr (s : State) (n : Nat) (x : Die) : (s.setDie n x).queueRr = s.queueRr := rfl
@[simp] theorem State.setDie_ctxRr (s : State) (n : Nat) (x : Die) : (s.setDie n x).ctxRr = s.ctxRr := rfl
@[simp] theorem State.setDie_gridOrder (s : State) (n : Nat) (x : Die) : (s.setDie n x).gridOrder = s.gridOrder := rfl
@[simp] theorem State.setDie_answers (s : State) (n : Nat) (x : Die) : (s.setDie n x).answers = s.answers := rfl

/-! nextName changes fresh alone. -/

@[simp] theorem State.nextName_tick (s : State) : s.nextName.2.tick = s.tick := rfl
@[simp] theorem State.nextName_agenda (s : State) : s.nextName.2.agenda = s.agenda := rfl
@[simp] theorem State.nextName_focus (s : State) : s.nextName.2.focus = s.focus := rfl
@[simp] theorem State.nextName_cur (s : State) : s.nextName.2.cur = s.cur := rfl
@[simp] theorem State.nextName_fresh (s : State) : s.nextName.2.fresh = s.fresh + 1 := rfl
@[simp] theorem State.nextName_gangs (s : State) : s.nextName.2.gangs = s.gangs := rfl
@[simp] theorem State.nextName_blocks (s : State) : s.nextName.2.blocks = s.blocks := rfl
@[simp] theorem State.nextName_clusters (s : State) : s.nextName.2.clusters = s.clusters := rfl
@[simp] theorem State.nextName_grids (s : State) : s.nextName.2.grids = s.grids := rfl
@[simp] theorem State.nextName_contexts (s : State) : s.nextName.2.contexts = s.contexts := rfl
@[simp] theorem State.nextName_queues (s : State) : s.nextName.2.queues = s.queues := rfl
@[simp] theorem State.nextName_quarters (s : State) : s.nextName.2.quarters = s.quarters := rfl
@[simp] theorem State.nextName_cus (s : State) : s.nextName.2.cus = s.cus := rfl
@[simp] theorem State.nextName_dies (s : State) : s.nextName.2.dies = s.dies := rfl
@[simp] theorem State.nextName_mem (s : State) : s.nextName.2.mem = s.mem := rfl
@[simp] theorem State.nextName_hostMem (s : State) : s.nextName.2.hostMem = s.hostMem := rfl
@[simp] theorem State.nextName_writes (s : State) : s.nextName.2.writes = s.writes := rfl
@[simp] theorem State.nextName_replaced (s : State) : s.nextName.2.replaced = s.replaced := rfl
@[simp] theorem State.nextName_poison (s : State) : s.nextName.2.poison = s.poison := rfl
@[simp] theorem State.nextName_mended (s : State) : s.nextName.2.mended = s.mended := rfl
@[simp] theorem State.nextName_rind (s : State) : s.nextName.2.rind = s.rind := rfl
@[simp] theorem State.nextName_crcs (s : State) : s.nextName.2.crcs = s.crcs := rfl
@[simp] theorem State.nextName_heldContexts (s : State) : s.nextName.2.heldContexts = s.heldContexts := rfl
@[simp] theorem State.nextName_epoch (s : State) : s.nextName.2.epoch = s.epoch := rfl
@[simp] theorem State.nextName_publishing (s : State) : s.nextName.2.publishing = s.publishing := rfl
@[simp] theorem State.nextName_moves (s : State) : s.nextName.2.moves = s.moves := rfl
@[simp] theorem State.nextName_rebuilds (s : State) : s.nextName.2.rebuilds = s.rebuilds := rfl
@[simp] theorem State.nextName_recoveries (s : State) : s.nextName.2.recoveries = s.recoveries := rfl
@[simp] theorem State.nextName_outside (s : State) : s.nextName.2.outside = s.outside := rfl
@[simp] theorem State.nextName_exports (s : State) : s.nextName.2.exports = s.exports := rfl
@[simp] theorem State.nextName_stage (s : State) : s.nextName.2.stage = s.stage := rfl
@[simp] theorem State.nextName_bootErr (s : State) : s.nextName.2.bootErr = s.bootErr := rfl
@[simp] theorem State.nextName_rdy (s : State) : s.nextName.2.rdy = s.rdy := rfl
@[simp] theorem State.nextName_node (s : State) : s.nextName.2.node = s.node := rfl
@[simp] theorem State.nextName_mbxBase (s : State) : s.nextName.2.mbxBase = s.mbxBase := rfl
@[simp] theorem State.nextName_mbxWr (s : State) : s.nextName.2.mbxWr = s.mbxWr := rfl
@[simp] theorem State.nextName_mbxRd (s : State) : s.nextName.2.mbxRd = s.mbxRd := rfl
@[simp] theorem State.nextName_rstkey (s : State) : s.nextName.2.rstkey = s.rstkey := rfl
@[simp] theorem State.nextName_powered (s : State) : s.nextName.2.powered = s.powered := rfl
@[simp] theorem State.nextName_budgets (s : State) : s.nextName.2.budgets = s.budgets := rfl
@[simp] theorem State.nextName_errors (s : State) : s.nextName.2.errors = s.errors := rfl
@[simp] theorem State.nextName_resyncSeq (s : State) : s.nextName.2.resyncSeq = s.resyncSeq := rfl
@[simp] theorem State.nextName_routes (s : State) : s.nextName.2.routes = s.routes := rfl
@[simp] theorem State.nextName_ports (s : State) : s.nextName.2.ports = s.ports := rfl
@[simp] theorem State.nextName_queueRr (s : State) : s.nextName.2.queueRr = s.queueRr := rfl
@[simp] theorem State.nextName_ctxRr (s : State) : s.nextName.2.ctxRr = s.ctxRr := rfl
@[simp] theorem State.nextName_gridOrder (s : State) : s.nextName.2.gridOrder = s.gridOrder := rfl
@[simp] theorem State.nextName_answers (s : State) : s.nextName.2.answers = s.answers := rfl

/-! draw changes tick alone. -/

@[simp] theorem State.draw_tick (s : State) : s.draw.2.tick = s.tick + 1 := rfl
@[simp] theorem State.draw_agenda (s : State) : s.draw.2.agenda = s.agenda := rfl
@[simp] theorem State.draw_focus (s : State) : s.draw.2.focus = s.focus := rfl
@[simp] theorem State.draw_cur (s : State) : s.draw.2.cur = s.cur := rfl
@[simp] theorem State.draw_fresh (s : State) : s.draw.2.fresh = s.fresh := rfl
@[simp] theorem State.draw_gangs (s : State) : s.draw.2.gangs = s.gangs := rfl
@[simp] theorem State.draw_blocks (s : State) : s.draw.2.blocks = s.blocks := rfl
@[simp] theorem State.draw_clusters (s : State) : s.draw.2.clusters = s.clusters := rfl
@[simp] theorem State.draw_grids (s : State) : s.draw.2.grids = s.grids := rfl
@[simp] theorem State.draw_contexts (s : State) : s.draw.2.contexts = s.contexts := rfl
@[simp] theorem State.draw_queues (s : State) : s.draw.2.queues = s.queues := rfl
@[simp] theorem State.draw_quarters (s : State) : s.draw.2.quarters = s.quarters := rfl
@[simp] theorem State.draw_cus (s : State) : s.draw.2.cus = s.cus := rfl
@[simp] theorem State.draw_dies (s : State) : s.draw.2.dies = s.dies := rfl
@[simp] theorem State.draw_mem (s : State) : s.draw.2.mem = s.mem := rfl
@[simp] theorem State.draw_hostMem (s : State) : s.draw.2.hostMem = s.hostMem := rfl
@[simp] theorem State.draw_writes (s : State) : s.draw.2.writes = s.writes := rfl
@[simp] theorem State.draw_replaced (s : State) : s.draw.2.replaced = s.replaced := rfl
@[simp] theorem State.draw_poison (s : State) : s.draw.2.poison = s.poison := rfl
@[simp] theorem State.draw_mended (s : State) : s.draw.2.mended = s.mended := rfl
@[simp] theorem State.draw_rind (s : State) : s.draw.2.rind = s.rind := rfl
@[simp] theorem State.draw_crcs (s : State) : s.draw.2.crcs = s.crcs := rfl
@[simp] theorem State.draw_heldContexts (s : State) : s.draw.2.heldContexts = s.heldContexts := rfl
@[simp] theorem State.draw_epoch (s : State) : s.draw.2.epoch = s.epoch := rfl
@[simp] theorem State.draw_publishing (s : State) : s.draw.2.publishing = s.publishing := rfl
@[simp] theorem State.draw_moves (s : State) : s.draw.2.moves = s.moves := rfl
@[simp] theorem State.draw_rebuilds (s : State) : s.draw.2.rebuilds = s.rebuilds := rfl
@[simp] theorem State.draw_recoveries (s : State) : s.draw.2.recoveries = s.recoveries := rfl
@[simp] theorem State.draw_outside (s : State) : s.draw.2.outside = s.outside := rfl
@[simp] theorem State.draw_exports (s : State) : s.draw.2.exports = s.exports := rfl
@[simp] theorem State.draw_stage (s : State) : s.draw.2.stage = s.stage := rfl
@[simp] theorem State.draw_bootErr (s : State) : s.draw.2.bootErr = s.bootErr := rfl
@[simp] theorem State.draw_rdy (s : State) : s.draw.2.rdy = s.rdy := rfl
@[simp] theorem State.draw_node (s : State) : s.draw.2.node = s.node := rfl
@[simp] theorem State.draw_mbxBase (s : State) : s.draw.2.mbxBase = s.mbxBase := rfl
@[simp] theorem State.draw_mbxWr (s : State) : s.draw.2.mbxWr = s.mbxWr := rfl
@[simp] theorem State.draw_mbxRd (s : State) : s.draw.2.mbxRd = s.mbxRd := rfl
@[simp] theorem State.draw_rstkey (s : State) : s.draw.2.rstkey = s.rstkey := rfl
@[simp] theorem State.draw_powered (s : State) : s.draw.2.powered = s.powered := rfl
@[simp] theorem State.draw_budgets (s : State) : s.draw.2.budgets = s.budgets := rfl
@[simp] theorem State.draw_errors (s : State) : s.draw.2.errors = s.errors := rfl
@[simp] theorem State.draw_resyncSeq (s : State) : s.draw.2.resyncSeq = s.resyncSeq := rfl
@[simp] theorem State.draw_routes (s : State) : s.draw.2.routes = s.routes := rfl
@[simp] theorem State.draw_ports (s : State) : s.draw.2.ports = s.ports := rfl
@[simp] theorem State.draw_queueRr (s : State) : s.draw.2.queueRr = s.queueRr := rfl
@[simp] theorem State.draw_ctxRr (s : State) : s.draw.2.ctxRr = s.ctxRr := rfl
@[simp] theorem State.draw_gridOrder (s : State) : s.draw.2.gridOrder = s.gridOrder := rfl
@[simp] theorem State.draw_answers (s : State) : s.draw.2.answers = s.answers := rfl

/-! countError changes errors alone. -/

@[simp] theorem countError_tick (s : State) (n : Nat) : (countError s n).tick = s.tick := rfl
@[simp] theorem countError_agenda (s : State) (n : Nat) : (countError s n).agenda = s.agenda := rfl
@[simp] theorem countError_focus (s : State) (n : Nat) : (countError s n).focus = s.focus := rfl
@[simp] theorem countError_cur (s : State) (n : Nat) : (countError s n).cur = s.cur := rfl
@[simp] theorem countError_fresh (s : State) (n : Nat) : (countError s n).fresh = s.fresh := rfl
@[simp] theorem countError_gangs (s : State) (n : Nat) : (countError s n).gangs = s.gangs := rfl
@[simp] theorem countError_blocks (s : State) (n : Nat) : (countError s n).blocks = s.blocks := rfl
@[simp] theorem countError_clusters (s : State) (n : Nat) : (countError s n).clusters = s.clusters := rfl
@[simp] theorem countError_grids (s : State) (n : Nat) : (countError s n).grids = s.grids := rfl
@[simp] theorem countError_contexts (s : State) (n : Nat) : (countError s n).contexts = s.contexts := rfl
@[simp] theorem countError_queues (s : State) (n : Nat) : (countError s n).queues = s.queues := rfl
@[simp] theorem countError_quarters (s : State) (n : Nat) : (countError s n).quarters = s.quarters := rfl
@[simp] theorem countError_cus (s : State) (n : Nat) : (countError s n).cus = s.cus := rfl
@[simp] theorem countError_dies (s : State) (n : Nat) : (countError s n).dies = s.dies := rfl
@[simp] theorem countError_mem (s : State) (n : Nat) : (countError s n).mem = s.mem := rfl
@[simp] theorem countError_hostMem (s : State) (n : Nat) : (countError s n).hostMem = s.hostMem := rfl
@[simp] theorem countError_writes (s : State) (n : Nat) : (countError s n).writes = s.writes := rfl
@[simp] theorem countError_replaced (s : State) (n : Nat) : (countError s n).replaced = s.replaced := rfl
@[simp] theorem countError_poison (s : State) (n : Nat) : (countError s n).poison = s.poison := rfl
@[simp] theorem countError_mended (s : State) (n : Nat) : (countError s n).mended = s.mended := rfl
@[simp] theorem countError_rind (s : State) (n : Nat) : (countError s n).rind = s.rind := rfl
@[simp] theorem countError_crcs (s : State) (n : Nat) : (countError s n).crcs = s.crcs := rfl
@[simp] theorem countError_heldContexts (s : State) (n : Nat) : (countError s n).heldContexts = s.heldContexts := rfl
@[simp] theorem countError_epoch (s : State) (n : Nat) : (countError s n).epoch = s.epoch := rfl
@[simp] theorem countError_publishing (s : State) (n : Nat) : (countError s n).publishing = s.publishing := rfl
@[simp] theorem countError_moves (s : State) (n : Nat) : (countError s n).moves = s.moves := rfl
@[simp] theorem countError_rebuilds (s : State) (n : Nat) : (countError s n).rebuilds = s.rebuilds := rfl
@[simp] theorem countError_recoveries (s : State) (n : Nat) : (countError s n).recoveries = s.recoveries := rfl
@[simp] theorem countError_outside (s : State) (n : Nat) : (countError s n).outside = s.outside := rfl
@[simp] theorem countError_exports (s : State) (n : Nat) : (countError s n).exports = s.exports := rfl
@[simp] theorem countError_stage (s : State) (n : Nat) : (countError s n).stage = s.stage := rfl
@[simp] theorem countError_bootErr (s : State) (n : Nat) : (countError s n).bootErr = s.bootErr := rfl
@[simp] theorem countError_rdy (s : State) (n : Nat) : (countError s n).rdy = s.rdy := rfl
@[simp] theorem countError_node (s : State) (n : Nat) : (countError s n).node = s.node := rfl
@[simp] theorem countError_mbxBase (s : State) (n : Nat) : (countError s n).mbxBase = s.mbxBase := rfl
@[simp] theorem countError_mbxWr (s : State) (n : Nat) : (countError s n).mbxWr = s.mbxWr := rfl
@[simp] theorem countError_mbxRd (s : State) (n : Nat) : (countError s n).mbxRd = s.mbxRd := rfl
@[simp] theorem countError_rstkey (s : State) (n : Nat) : (countError s n).rstkey = s.rstkey := rfl
@[simp] theorem countError_powered (s : State) (n : Nat) : (countError s n).powered = s.powered := rfl
@[simp] theorem countError_budgets (s : State) (n : Nat) : (countError s n).budgets = s.budgets := rfl
@[simp] theorem countError_errors (s : State) (n : Nat) : (countError s n).errors = setAt 0 s.errors n (getAt 0 s.errors n + 1) := rfl
@[simp] theorem countError_resyncSeq (s : State) (n : Nat) : (countError s n).resyncSeq = s.resyncSeq := rfl
@[simp] theorem countError_routes (s : State) (n : Nat) : (countError s n).routes = s.routes := rfl
@[simp] theorem countError_ports (s : State) (n : Nat) : (countError s n).ports = s.ports := rfl
@[simp] theorem countError_queueRr (s : State) (n : Nat) : (countError s n).queueRr = s.queueRr := rfl
@[simp] theorem countError_ctxRr (s : State) (n : Nat) : (countError s n).ctxRr = s.ctxRr := rfl
@[simp] theorem countError_gridOrder (s : State) (n : Nat) : (countError s n).gridOrder = s.gridOrder := rfl
@[simp] theorem countError_answers (s : State) (n : Nat) : (countError s n).answers = s.answers := rfl

/-! Gang.setPcs changes pc alone. -/

@[simp] theorem Gang.setPcs_block (g : Gang) (m : Mask) (f : Nat → W64) : (g.setPcs m f).block = g.block := rfl
@[simp] theorem Gang.setPcs_die (g : Gang) (m : Mask) (f : Nat → W64) : (g.setPcs m f).die = g.die := rfl
@[simp] theorem Gang.setPcs_cu (g : Gang) (m : Mask) (f : Nat → W64) : (g.setPcs m f).cu = g.cu := rfl
@[simp] theorem Gang.setPcs_quarter (g : Gang) (m : Mask) (f : Nat → W64) : (g.setPcs m f).quarter = g.quarter := rfl
@[simp] theorem Gang.setPcs_slot (g : Gang) (m : Mask) (f : Nat → W64) : (g.setPcs m f).slot = g.slot := rfl
@[simp] theorem Gang.setPcs_ctx (g : Gang) (m : Mask) (f : Nat → W64) : (g.setPcs m f).ctx = g.ctx := rfl
@[simp] theorem Gang.setPcs_grid (g : Gang) (m : Mask) (f : Nat → W64) : (g.setPcs m f).grid = g.grid := rfl
@[simp] theorem Gang.setPcs_prio (g : Gang) (m : Mask) (f : Nat → W64) : (g.setPcs m f).prio = g.prio := rfl
@[simp] theorem Gang.setPcs_special (g : Gang) (m : Mask) (f : Nat → W64) : (g.setPcs m f).special = g.special := rfl
@[simp] theorem Gang.setPcs_v (g : Gang) (m : Mask) (f : Nat → W64) : (g.setPcs m f).v = g.v := rfl
@[simp] theorem Gang.setPcs_sreg (g : Gang) (m : Mask) (f : Nat → W64) : (g.setPcs m f).sreg = g.sreg := rfl
@[simp] theorem Gang.setPcs_p (g : Gang) (m : Mask) (f : Nat → W64) : (g.setPcs m f).p = g.p := rfl
@[simp] theorem Gang.setPcs_mode (g : Gang) (m : Mask) (f : Nat → W64) : (g.setPcs m f).mode = g.mode := rfl
@[simp] theorem Gang.setPcs_wb (g : Gang) (m : Mask) (f : Nat → W64) : (g.setPcs m f).wb = g.wb := rfl
@[simp] theorem Gang.setPcs_lrow (g : Gang) (m : Mask) (f : Nat → W64) : (g.setPcs m f).lrow = g.lrow := rfl
@[simp] theorem Gang.setPcs_nrows (g : Gang) (m : Mask) (f : Nat → W64) : (g.setPcs m f).nrows = g.nrows := rfl
@[simp] theorem Gang.setPcs_wsize (g : Gang) (m : Mask) (f : Nat → W64) : (g.setPcs m f).wsize = g.wsize := rfl
@[simp] theorem Gang.setPcs_cb (g : Gang) (m : Mask) (f : Nat → W64) : (g.setPcs m f).cb = g.cb := rfl
@[simp] theorem Gang.setPcs_pc (g : Gang) (m : Mask) (f : Nat → W64) : (g.setPcs m f).pc = (lanesOf m).foldl (fun p l => setAt 0 p l (f l)) g.pc := rfl
@[simp] theorem Gang.setPcs_exited (g : Gang) (m : Mask) (f : Nat → W64) : (g.setPcs m f).exited = g.exited := rfl
@[simp] theorem Gang.setPcs_halted (g : Gang) (m : Mask) (f : Nat → W64) : (g.setPcs m f).halted = g.halted := rfl
@[simp] theorem Gang.setPcs_haltReason (g : Gang) (m : Mask) (f : Nat → W64) : (g.setPcs m f).haltReason = g.haltReason := rfl
@[simp] theorem Gang.setPcs_park (g : Gang) (m : Mask) (f : Nat → W64) : (g.setPcs m f).park = g.park := rfl
@[simp] theorem Gang.setPcs_gstat (g : Gang) (m : Mask) (f : Nat → W64) : (g.setPcs m f).gstat = g.gstat := rfl
@[simp] theorem Gang.setPcs_tcause (g : Gang) (m : Mask) (f : Nat → W64) : (g.setPcs m f).tcause = g.tcause := rfl
@[simp] theorem Gang.setPcs_tpc (g : Gang) (m : Mask) (f : Nat → W64) : (g.setPcs m f).tpc = g.tpc := rfl
@[simp] theorem Gang.setPcs_tlanes (g : Gang) (m : Mask) (f : Nat → W64) : (g.setPcs m f).tlanes = g.tlanes := rfl
@[simp] theorem Gang.setPcs_tmask (g : Gang) (m : Mask) (f : Nat → W64) : (g.setPcs m f).tmask = g.tmask := rfl
@[simp] theorem Gang.setPcs_handlerLanes (g : Gang) (m : Mask) (f : Nat → W64) : (g.setPcs m f).handlerLanes = g.handlerLanes := rfl
@[simp] theorem Gang.setPcs_kc (g : Gang) (m : Mask) (f : Nat → W64) : (g.setPcs m f).kc = g.kc := rfl
@[simp] theorem Gang.setPcs_books (g : Gang) (m : Mask) (f : Nat → W64) : (g.setPcs m f).books = g.books := rfl
@[simp] theorem Gang.setPcs_harp (g : Gang) (m : Mask) (f : Nat → W64) : (g.setPcs m f).harp = g.harp := rfl
@[simp] theorem Gang.setPcs_spill (g : Gang) (m : Mask) (f : Nat → W64) : (g.setPcs m f).spill = g.spill := rfl
@[simp] theorem Gang.setPcs_vtab (g : Gang) (m : Mask) (f : Nat → W64) : (g.setPcs m f).vtab = g.vtab := rfl
@[simp] theorem Gang.setPcs_bound (g : Gang) (m : Mask) (f : Nat → W64) : (g.setPcs m f).bound = g.bound := rfl
@[simp] theorem Gang.setPcs_boundOut (g : Gang) (m : Mask) (f : Nat → W64) : (g.setPcs m f).boundOut = g.boundOut := rfl
@[simp] theorem Gang.setPcs_pending (g : Gang) (m : Mask) (f : Nat → W64) : (g.setPcs m f).pending = g.pending := rfl
@[simp] theorem Gang.setPcs_accesses (g : Gang) (m : Mask) (f : Nat → W64) : (g.setPcs m f).accesses = g.accesses := rfl
@[simp] theorem Gang.setPcs_copies (g : Gang) (m : Mask) (f : Nat → W64) : (g.setPcs m f).copies = g.copies := rfl
@[simp] theorem Gang.setPcs_counted (g : Gang) (m : Mask) (f : Nat → W64) : (g.setPcs m f).counted = g.counted := rfl
@[simp] theorem Gang.setPcs_remotes (g : Gang) (m : Mask) (f : Nat → W64) : (g.setPcs m f).remotes = g.remotes := rfl
@[simp] theorem Gang.setPcs_contribs (g : Gang) (m : Mask) (f : Nat → W64) : (g.setPcs m f).contribs = g.contribs := rfl
@[simp] theorem Gang.setPcs_checkpoint (g : Gang) (m : Mask) (f : Nat → W64) : (g.setPcs m f).checkpoint = g.checkpoint := rfl
@[simp] theorem Gang.setPcs_perf (g : Gang) (m : Mask) (f : Nat → W64) : (g.setPcs m f).perf = g.perf := rfl
@[simp] theorem Gang.setPcs_armed (g : Gang) (m : Mask) (f : Nat → W64) : (g.setPcs m f).armed = g.armed := rfl
@[simp] theorem Gang.setPcs_sampled (g : Gang) (m : Mask) (f : Nat → W64) : (g.setPcs m f).sampled = g.sampled := rfl
@[simp] theorem Gang.setPcs_lastLane (g : Gang) (m : Mask) (f : Nat → W64) : (g.setPcs m f).lastLane = g.lastLane := rfl
@[simp] theorem Gang.setPcs_waited (g : Gang) (m : Mask) (f : Nat → W64) : (g.setPcs m f).waited = g.waited := rfl
@[simp] theorem Gang.setPcs_promoted (g : Gang) (m : Mask) (f : Nat → W64) : (g.setPcs m f).promoted = g.promoted := rfl
@[simp] theorem Gang.setPcs_arrivedBars (g : Gang) (m : Mask) (f : Nat → W64) : (g.setPcs m f).arrivedBars = g.arrivedBars := rfl
@[simp] theorem Gang.setPcs_arrivedCbars (g : Gang) (m : Mask) (f : Nat → W64) : (g.setPcs m f).arrivedCbars = g.arrivedCbars := rfl
@[simp] theorem Gang.setPcs_killed (g : Gang) (m : Mask) (f : Nat → W64) : (g.setPcs m f).killed = g.killed := rfl
@[simp] theorem Gang.setPcs_rendezvous (g : Gang) (m : Mask) (f : Nat → W64) : (g.setPcs m f).rendezvous = g.rendezvous := rfl
@[simp] theorem Gang.setPcs_debugStop (g : Gang) (m : Mask) (f : Nat → W64) : (g.setPcs m f).debugStop = g.debugStop := rfl
@[simp] theorem Gang.setPcs_stepOne (g : Gang) (m : Mask) (f : Nat → W64) : (g.setPcs m f).stepOne = g.stepOne := rfl
@[simp] theorem Gang.setPcs_carried (g : Gang) (m : Mask) (f : Nat → W64) : (g.setPcs m f).carried = g.carried := rfl
@[simp] theorem Gang.setPcs_exitPc (g : Gang) (m : Mask) (f : Nat → W64) : (g.setPcs m f).exitPc = g.exitPc := rfl
@[simp] theorem Gang.setPcs_sequencing (g : Gang) (m : Mask) (f : Nat → W64) : (g.setPcs m f).sequencing = g.sequencing := rfl

/-! Gang.advance changes pc alone. -/

@[simp] theorem Gang.advance_block (g : Gang) (m : Mask) : (g.advance m).block = g.block := rfl
@[simp] theorem Gang.advance_die (g : Gang) (m : Mask) : (g.advance m).die = g.die := rfl
@[simp] theorem Gang.advance_cu (g : Gang) (m : Mask) : (g.advance m).cu = g.cu := rfl
@[simp] theorem Gang.advance_quarter (g : Gang) (m : Mask) : (g.advance m).quarter = g.quarter := rfl
@[simp] theorem Gang.advance_slot (g : Gang) (m : Mask) : (g.advance m).slot = g.slot := rfl
@[simp] theorem Gang.advance_ctx (g : Gang) (m : Mask) : (g.advance m).ctx = g.ctx := rfl
@[simp] theorem Gang.advance_grid (g : Gang) (m : Mask) : (g.advance m).grid = g.grid := rfl
@[simp] theorem Gang.advance_prio (g : Gang) (m : Mask) : (g.advance m).prio = g.prio := rfl
@[simp] theorem Gang.advance_special (g : Gang) (m : Mask) : (g.advance m).special = g.special := rfl
@[simp] theorem Gang.advance_v (g : Gang) (m : Mask) : (g.advance m).v = g.v := rfl
@[simp] theorem Gang.advance_sreg (g : Gang) (m : Mask) : (g.advance m).sreg = g.sreg := rfl
@[simp] theorem Gang.advance_p (g : Gang) (m : Mask) : (g.advance m).p = g.p := rfl
@[simp] theorem Gang.advance_mode (g : Gang) (m : Mask) : (g.advance m).mode = g.mode := rfl
@[simp] theorem Gang.advance_wb (g : Gang) (m : Mask) : (g.advance m).wb = g.wb := rfl
@[simp] theorem Gang.advance_lrow (g : Gang) (m : Mask) : (g.advance m).lrow = g.lrow := rfl
@[simp] theorem Gang.advance_nrows (g : Gang) (m : Mask) : (g.advance m).nrows = g.nrows := rfl
@[simp] theorem Gang.advance_wsize (g : Gang) (m : Mask) : (g.advance m).wsize = g.wsize := rfl
@[simp] theorem Gang.advance_cb (g : Gang) (m : Mask) : (g.advance m).cb = g.cb := rfl
@[simp] theorem Gang.advance_pc (g : Gang) (m : Mask) : (g.advance m).pc = (lanesOf m).foldl (fun p l => setAt 0 p l (nextSlot (g.pcOf l))) g.pc := rfl
@[simp] theorem Gang.advance_exited (g : Gang) (m : Mask) : (g.advance m).exited = g.exited := rfl
@[simp] theorem Gang.advance_halted (g : Gang) (m : Mask) : (g.advance m).halted = g.halted := rfl
@[simp] theorem Gang.advance_haltReason (g : Gang) (m : Mask) : (g.advance m).haltReason = g.haltReason := rfl
@[simp] theorem Gang.advance_park (g : Gang) (m : Mask) : (g.advance m).park = g.park := rfl
@[simp] theorem Gang.advance_gstat (g : Gang) (m : Mask) : (g.advance m).gstat = g.gstat := rfl
@[simp] theorem Gang.advance_tcause (g : Gang) (m : Mask) : (g.advance m).tcause = g.tcause := rfl
@[simp] theorem Gang.advance_tpc (g : Gang) (m : Mask) : (g.advance m).tpc = g.tpc := rfl
@[simp] theorem Gang.advance_tlanes (g : Gang) (m : Mask) : (g.advance m).tlanes = g.tlanes := rfl
@[simp] theorem Gang.advance_tmask (g : Gang) (m : Mask) : (g.advance m).tmask = g.tmask := rfl
@[simp] theorem Gang.advance_handlerLanes (g : Gang) (m : Mask) : (g.advance m).handlerLanes = g.handlerLanes := rfl
@[simp] theorem Gang.advance_kc (g : Gang) (m : Mask) : (g.advance m).kc = g.kc := rfl
@[simp] theorem Gang.advance_books (g : Gang) (m : Mask) : (g.advance m).books = g.books := rfl
@[simp] theorem Gang.advance_harp (g : Gang) (m : Mask) : (g.advance m).harp = g.harp := rfl
@[simp] theorem Gang.advance_spill (g : Gang) (m : Mask) : (g.advance m).spill = g.spill := rfl
@[simp] theorem Gang.advance_vtab (g : Gang) (m : Mask) : (g.advance m).vtab = g.vtab := rfl
@[simp] theorem Gang.advance_bound (g : Gang) (m : Mask) : (g.advance m).bound = g.bound := rfl
@[simp] theorem Gang.advance_boundOut (g : Gang) (m : Mask) : (g.advance m).boundOut = g.boundOut := rfl
@[simp] theorem Gang.advance_pending (g : Gang) (m : Mask) : (g.advance m).pending = g.pending := rfl
@[simp] theorem Gang.advance_accesses (g : Gang) (m : Mask) : (g.advance m).accesses = g.accesses := rfl
@[simp] theorem Gang.advance_copies (g : Gang) (m : Mask) : (g.advance m).copies = g.copies := rfl
@[simp] theorem Gang.advance_counted (g : Gang) (m : Mask) : (g.advance m).counted = g.counted := rfl
@[simp] theorem Gang.advance_remotes (g : Gang) (m : Mask) : (g.advance m).remotes = g.remotes := rfl
@[simp] theorem Gang.advance_contribs (g : Gang) (m : Mask) : (g.advance m).contribs = g.contribs := rfl
@[simp] theorem Gang.advance_checkpoint (g : Gang) (m : Mask) : (g.advance m).checkpoint = g.checkpoint := rfl
@[simp] theorem Gang.advance_perf (g : Gang) (m : Mask) : (g.advance m).perf = g.perf := rfl
@[simp] theorem Gang.advance_armed (g : Gang) (m : Mask) : (g.advance m).armed = g.armed := rfl
@[simp] theorem Gang.advance_sampled (g : Gang) (m : Mask) : (g.advance m).sampled = g.sampled := rfl
@[simp] theorem Gang.advance_lastLane (g : Gang) (m : Mask) : (g.advance m).lastLane = g.lastLane := rfl
@[simp] theorem Gang.advance_waited (g : Gang) (m : Mask) : (g.advance m).waited = g.waited := rfl
@[simp] theorem Gang.advance_promoted (g : Gang) (m : Mask) : (g.advance m).promoted = g.promoted := rfl
@[simp] theorem Gang.advance_arrivedBars (g : Gang) (m : Mask) : (g.advance m).arrivedBars = g.arrivedBars := rfl
@[simp] theorem Gang.advance_arrivedCbars (g : Gang) (m : Mask) : (g.advance m).arrivedCbars = g.arrivedCbars := rfl
@[simp] theorem Gang.advance_killed (g : Gang) (m : Mask) : (g.advance m).killed = g.killed := rfl
@[simp] theorem Gang.advance_rendezvous (g : Gang) (m : Mask) : (g.advance m).rendezvous = g.rendezvous := rfl
@[simp] theorem Gang.advance_debugStop (g : Gang) (m : Mask) : (g.advance m).debugStop = g.debugStop := rfl
@[simp] theorem Gang.advance_stepOne (g : Gang) (m : Mask) : (g.advance m).stepOne = g.stepOne := rfl
@[simp] theorem Gang.advance_carried (g : Gang) (m : Mask) : (g.advance m).carried = g.carried := rfl
@[simp] theorem Gang.advance_exitPc (g : Gang) (m : Mask) : (g.advance m).exitPc = g.exitPc := rfl
@[simp] theorem Gang.advance_sequencing (g : Gang) (m : Mask) : (g.advance m).sequencing = g.sequencing := rfl

/-! Gang.setPark changes park alone. -/

@[simp] theorem Gang.setPark_block (g : Gang) (m : Mask) (p : Park) : (g.setPark m p).block = g.block := rfl
@[simp] theorem Gang.setPark_die (g : Gang) (m : Mask) (p : Park) : (g.setPark m p).die = g.die := rfl
@[simp] theorem Gang.setPark_cu (g : Gang) (m : Mask) (p : Park) : (g.setPark m p).cu = g.cu := rfl
@[simp] theorem Gang.setPark_quarter (g : Gang) (m : Mask) (p : Park) : (g.setPark m p).quarter = g.quarter := rfl
@[simp] theorem Gang.setPark_slot (g : Gang) (m : Mask) (p : Park) : (g.setPark m p).slot = g.slot := rfl
@[simp] theorem Gang.setPark_ctx (g : Gang) (m : Mask) (p : Park) : (g.setPark m p).ctx = g.ctx := rfl
@[simp] theorem Gang.setPark_grid (g : Gang) (m : Mask) (p : Park) : (g.setPark m p).grid = g.grid := rfl
@[simp] theorem Gang.setPark_prio (g : Gang) (m : Mask) (p : Park) : (g.setPark m p).prio = g.prio := rfl
@[simp] theorem Gang.setPark_special (g : Gang) (m : Mask) (p : Park) : (g.setPark m p).special = g.special := rfl
@[simp] theorem Gang.setPark_v (g : Gang) (m : Mask) (p : Park) : (g.setPark m p).v = g.v := rfl
@[simp] theorem Gang.setPark_sreg (g : Gang) (m : Mask) (p : Park) : (g.setPark m p).sreg = g.sreg := rfl
@[simp] theorem Gang.setPark_p (g : Gang) (m : Mask) (p : Park) : (g.setPark m p).p = g.p := rfl
@[simp] theorem Gang.setPark_mode (g : Gang) (m : Mask) (p : Park) : (g.setPark m p).mode = g.mode := rfl
@[simp] theorem Gang.setPark_wb (g : Gang) (m : Mask) (p : Park) : (g.setPark m p).wb = g.wb := rfl
@[simp] theorem Gang.setPark_lrow (g : Gang) (m : Mask) (p : Park) : (g.setPark m p).lrow = g.lrow := rfl
@[simp] theorem Gang.setPark_nrows (g : Gang) (m : Mask) (p : Park) : (g.setPark m p).nrows = g.nrows := rfl
@[simp] theorem Gang.setPark_wsize (g : Gang) (m : Mask) (p : Park) : (g.setPark m p).wsize = g.wsize := rfl
@[simp] theorem Gang.setPark_cb (g : Gang) (m : Mask) (p : Park) : (g.setPark m p).cb = g.cb := rfl
@[simp] theorem Gang.setPark_pc (g : Gang) (m : Mask) (p : Park) : (g.setPark m p).pc = g.pc := rfl
@[simp] theorem Gang.setPark_exited (g : Gang) (m : Mask) (p : Park) : (g.setPark m p).exited = g.exited := rfl
@[simp] theorem Gang.setPark_halted (g : Gang) (m : Mask) (p : Park) : (g.setPark m p).halted = g.halted := rfl
@[simp] theorem Gang.setPark_haltReason (g : Gang) (m : Mask) (p : Park) : (g.setPark m p).haltReason = g.haltReason := rfl
@[simp] theorem Gang.setPark_park (g : Gang) (m : Mask) (p : Park) : (g.setPark m p).park = (lanesOf m).foldl (fun q l => setAt .ready q l p) g.park := rfl
@[simp] theorem Gang.setPark_gstat (g : Gang) (m : Mask) (p : Park) : (g.setPark m p).gstat = g.gstat := rfl
@[simp] theorem Gang.setPark_tcause (g : Gang) (m : Mask) (p : Park) : (g.setPark m p).tcause = g.tcause := rfl
@[simp] theorem Gang.setPark_tpc (g : Gang) (m : Mask) (p : Park) : (g.setPark m p).tpc = g.tpc := rfl
@[simp] theorem Gang.setPark_tlanes (g : Gang) (m : Mask) (p : Park) : (g.setPark m p).tlanes = g.tlanes := rfl
@[simp] theorem Gang.setPark_tmask (g : Gang) (m : Mask) (p : Park) : (g.setPark m p).tmask = g.tmask := rfl
@[simp] theorem Gang.setPark_handlerLanes (g : Gang) (m : Mask) (p : Park) : (g.setPark m p).handlerLanes = g.handlerLanes := rfl
@[simp] theorem Gang.setPark_kc (g : Gang) (m : Mask) (p : Park) : (g.setPark m p).kc = g.kc := rfl
@[simp] theorem Gang.setPark_books (g : Gang) (m : Mask) (p : Park) : (g.setPark m p).books = g.books := rfl
@[simp] theorem Gang.setPark_harp (g : Gang) (m : Mask) (p : Park) : (g.setPark m p).harp = g.harp := rfl
@[simp] theorem Gang.setPark_spill (g : Gang) (m : Mask) (p : Park) : (g.setPark m p).spill = g.spill := rfl
@[simp] theorem Gang.setPark_vtab (g : Gang) (m : Mask) (p : Park) : (g.setPark m p).vtab = g.vtab := rfl
@[simp] theorem Gang.setPark_bound (g : Gang) (m : Mask) (p : Park) : (g.setPark m p).bound = g.bound := rfl
@[simp] theorem Gang.setPark_boundOut (g : Gang) (m : Mask) (p : Park) : (g.setPark m p).boundOut = g.boundOut := rfl
@[simp] theorem Gang.setPark_pending (g : Gang) (m : Mask) (p : Park) : (g.setPark m p).pending = g.pending := rfl
@[simp] theorem Gang.setPark_accesses (g : Gang) (m : Mask) (p : Park) : (g.setPark m p).accesses = g.accesses := rfl
@[simp] theorem Gang.setPark_copies (g : Gang) (m : Mask) (p : Park) : (g.setPark m p).copies = g.copies := rfl
@[simp] theorem Gang.setPark_counted (g : Gang) (m : Mask) (p : Park) : (g.setPark m p).counted = g.counted := rfl
@[simp] theorem Gang.setPark_remotes (g : Gang) (m : Mask) (p : Park) : (g.setPark m p).remotes = g.remotes := rfl
@[simp] theorem Gang.setPark_contribs (g : Gang) (m : Mask) (p : Park) : (g.setPark m p).contribs = g.contribs := rfl
@[simp] theorem Gang.setPark_checkpoint (g : Gang) (m : Mask) (p : Park) : (g.setPark m p).checkpoint = g.checkpoint := rfl
@[simp] theorem Gang.setPark_perf (g : Gang) (m : Mask) (p : Park) : (g.setPark m p).perf = g.perf := rfl
@[simp] theorem Gang.setPark_armed (g : Gang) (m : Mask) (p : Park) : (g.setPark m p).armed = g.armed := rfl
@[simp] theorem Gang.setPark_sampled (g : Gang) (m : Mask) (p : Park) : (g.setPark m p).sampled = g.sampled := rfl
@[simp] theorem Gang.setPark_lastLane (g : Gang) (m : Mask) (p : Park) : (g.setPark m p).lastLane = g.lastLane := rfl
@[simp] theorem Gang.setPark_waited (g : Gang) (m : Mask) (p : Park) : (g.setPark m p).waited = g.waited := rfl
@[simp] theorem Gang.setPark_promoted (g : Gang) (m : Mask) (p : Park) : (g.setPark m p).promoted = g.promoted := rfl
@[simp] theorem Gang.setPark_arrivedBars (g : Gang) (m : Mask) (p : Park) : (g.setPark m p).arrivedBars = g.arrivedBars := rfl
@[simp] theorem Gang.setPark_arrivedCbars (g : Gang) (m : Mask) (p : Park) : (g.setPark m p).arrivedCbars = g.arrivedCbars := rfl
@[simp] theorem Gang.setPark_killed (g : Gang) (m : Mask) (p : Park) : (g.setPark m p).killed = g.killed := rfl
@[simp] theorem Gang.setPark_rendezvous (g : Gang) (m : Mask) (p : Park) : (g.setPark m p).rendezvous = g.rendezvous := rfl
@[simp] theorem Gang.setPark_debugStop (g : Gang) (m : Mask) (p : Park) : (g.setPark m p).debugStop = g.debugStop := rfl
@[simp] theorem Gang.setPark_stepOne (g : Gang) (m : Mask) (p : Park) : (g.setPark m p).stepOne = g.stepOne := rfl
@[simp] theorem Gang.setPark_carried (g : Gang) (m : Mask) (p : Park) : (g.setPark m p).carried = g.carried := rfl
@[simp] theorem Gang.setPark_exitPc (g : Gang) (m : Mask) (p : Park) : (g.setPark m p).exitPc = g.exitPc := rfl
@[simp] theorem Gang.setPark_sequencing (g : Gang) (m : Mask) (p : Park) : (g.setPark m p).sequencing = g.sequencing := rfl

/-! Gang.count changes perf alone. -/

@[simp] theorem Gang.count_block (g : Gang) (n k : Nat) : (g.count n k).block = g.block := rfl
@[simp] theorem Gang.count_die (g : Gang) (n k : Nat) : (g.count n k).die = g.die := rfl
@[simp] theorem Gang.count_cu (g : Gang) (n k : Nat) : (g.count n k).cu = g.cu := rfl
@[simp] theorem Gang.count_quarter (g : Gang) (n k : Nat) : (g.count n k).quarter = g.quarter := rfl
@[simp] theorem Gang.count_slot (g : Gang) (n k : Nat) : (g.count n k).slot = g.slot := rfl
@[simp] theorem Gang.count_ctx (g : Gang) (n k : Nat) : (g.count n k).ctx = g.ctx := rfl
@[simp] theorem Gang.count_grid (g : Gang) (n k : Nat) : (g.count n k).grid = g.grid := rfl
@[simp] theorem Gang.count_prio (g : Gang) (n k : Nat) : (g.count n k).prio = g.prio := rfl
@[simp] theorem Gang.count_special (g : Gang) (n k : Nat) : (g.count n k).special = g.special := rfl
@[simp] theorem Gang.count_v (g : Gang) (n k : Nat) : (g.count n k).v = g.v := rfl
@[simp] theorem Gang.count_sreg (g : Gang) (n k : Nat) : (g.count n k).sreg = g.sreg := rfl
@[simp] theorem Gang.count_p (g : Gang) (n k : Nat) : (g.count n k).p = g.p := rfl
@[simp] theorem Gang.count_mode (g : Gang) (n k : Nat) : (g.count n k).mode = g.mode := rfl
@[simp] theorem Gang.count_wb (g : Gang) (n k : Nat) : (g.count n k).wb = g.wb := rfl
@[simp] theorem Gang.count_lrow (g : Gang) (n k : Nat) : (g.count n k).lrow = g.lrow := rfl
@[simp] theorem Gang.count_nrows (g : Gang) (n k : Nat) : (g.count n k).nrows = g.nrows := rfl
@[simp] theorem Gang.count_wsize (g : Gang) (n k : Nat) : (g.count n k).wsize = g.wsize := rfl
@[simp] theorem Gang.count_cb (g : Gang) (n k : Nat) : (g.count n k).cb = g.cb := rfl
@[simp] theorem Gang.count_pc (g : Gang) (n k : Nat) : (g.count n k).pc = g.pc := rfl
@[simp] theorem Gang.count_exited (g : Gang) (n k : Nat) : (g.count n k).exited = g.exited := rfl
@[simp] theorem Gang.count_halted (g : Gang) (n k : Nat) : (g.count n k).halted = g.halted := rfl
@[simp] theorem Gang.count_haltReason (g : Gang) (n k : Nat) : (g.count n k).haltReason = g.haltReason := rfl
@[simp] theorem Gang.count_park (g : Gang) (n k : Nat) : (g.count n k).park = g.park := rfl
@[simp] theorem Gang.count_gstat (g : Gang) (n k : Nat) : (g.count n k).gstat = g.gstat := rfl
@[simp] theorem Gang.count_tcause (g : Gang) (n k : Nat) : (g.count n k).tcause = g.tcause := rfl
@[simp] theorem Gang.count_tpc (g : Gang) (n k : Nat) : (g.count n k).tpc = g.tpc := rfl
@[simp] theorem Gang.count_tlanes (g : Gang) (n k : Nat) : (g.count n k).tlanes = g.tlanes := rfl
@[simp] theorem Gang.count_tmask (g : Gang) (n k : Nat) : (g.count n k).tmask = g.tmask := rfl
@[simp] theorem Gang.count_handlerLanes (g : Gang) (n k : Nat) : (g.count n k).handlerLanes = g.handlerLanes := rfl
@[simp] theorem Gang.count_kc (g : Gang) (n k : Nat) : (g.count n k).kc = g.kc := rfl
@[simp] theorem Gang.count_books (g : Gang) (n k : Nat) : (g.count n k).books = g.books := rfl
@[simp] theorem Gang.count_harp (g : Gang) (n k : Nat) : (g.count n k).harp = g.harp := rfl
@[simp] theorem Gang.count_spill (g : Gang) (n k : Nat) : (g.count n k).spill = g.spill := rfl
@[simp] theorem Gang.count_vtab (g : Gang) (n k : Nat) : (g.count n k).vtab = g.vtab := rfl
@[simp] theorem Gang.count_bound (g : Gang) (n k : Nat) : (g.count n k).bound = g.bound := rfl
@[simp] theorem Gang.count_boundOut (g : Gang) (n k : Nat) : (g.count n k).boundOut = g.boundOut := rfl
@[simp] theorem Gang.count_pending (g : Gang) (n k : Nat) : (g.count n k).pending = g.pending := rfl
@[simp] theorem Gang.count_accesses (g : Gang) (n k : Nat) : (g.count n k).accesses = g.accesses := rfl
@[simp] theorem Gang.count_copies (g : Gang) (n k : Nat) : (g.count n k).copies = g.copies := rfl
@[simp] theorem Gang.count_counted (g : Gang) (n k : Nat) : (g.count n k).counted = g.counted := rfl
@[simp] theorem Gang.count_remotes (g : Gang) (n k : Nat) : (g.count n k).remotes = g.remotes := rfl
@[simp] theorem Gang.count_contribs (g : Gang) (n k : Nat) : (g.count n k).contribs = g.contribs := rfl
@[simp] theorem Gang.count_checkpoint (g : Gang) (n k : Nat) : (g.count n k).checkpoint = g.checkpoint := rfl
@[simp] theorem Gang.count_perf (g : Gang) (n k : Nat) : (g.count n k).perf = setAt 0 g.perf n (getAt 0 g.perf n + word k) := rfl
@[simp] theorem Gang.count_armed (g : Gang) (n k : Nat) : (g.count n k).armed = g.armed := rfl
@[simp] theorem Gang.count_sampled (g : Gang) (n k : Nat) : (g.count n k).sampled = g.sampled := rfl
@[simp] theorem Gang.count_lastLane (g : Gang) (n k : Nat) : (g.count n k).lastLane = g.lastLane := rfl
@[simp] theorem Gang.count_waited (g : Gang) (n k : Nat) : (g.count n k).waited = g.waited := rfl
@[simp] theorem Gang.count_promoted (g : Gang) (n k : Nat) : (g.count n k).promoted = g.promoted := rfl
@[simp] theorem Gang.count_arrivedBars (g : Gang) (n k : Nat) : (g.count n k).arrivedBars = g.arrivedBars := rfl
@[simp] theorem Gang.count_arrivedCbars (g : Gang) (n k : Nat) : (g.count n k).arrivedCbars = g.arrivedCbars := rfl
@[simp] theorem Gang.count_killed (g : Gang) (n k : Nat) : (g.count n k).killed = g.killed := rfl
@[simp] theorem Gang.count_rendezvous (g : Gang) (n k : Nat) : (g.count n k).rendezvous = g.rendezvous := rfl
@[simp] theorem Gang.count_debugStop (g : Gang) (n k : Nat) : (g.count n k).debugStop = g.debugStop := rfl
@[simp] theorem Gang.count_stepOne (g : Gang) (n k : Nat) : (g.count n k).stepOne = g.stepOne := rfl
@[simp] theorem Gang.count_carried (g : Gang) (n k : Nat) : (g.count n k).carried = g.carried := rfl
@[simp] theorem Gang.count_exitPc (g : Gang) (n k : Nat) : (g.count n k).exitPc = g.exitPc := rfl
@[simp] theorem Gang.count_sequencing (g : Gang) (n k : Nat) : (g.count n k).sequencing = g.sequencing := rfl

/-! Gang.setReg changes no field but v and sreg. -/

@[simp] theorem Gang.setReg_block (g : Gang) (f l : Nat) (r : Reg) : (g.setReg f l r).block = g.block := by
  unfold Gang.setReg; split <;> rfl
@[simp] theorem Gang.setReg_die (g : Gang) (f l : Nat) (r : Reg) : (g.setReg f l r).die = g.die := by
  unfold Gang.setReg; split <;> rfl
@[simp] theorem Gang.setReg_cu (g : Gang) (f l : Nat) (r : Reg) : (g.setReg f l r).cu = g.cu := by
  unfold Gang.setReg; split <;> rfl
@[simp] theorem Gang.setReg_quarter (g : Gang) (f l : Nat) (r : Reg) : (g.setReg f l r).quarter = g.quarter := by
  unfold Gang.setReg; split <;> rfl
@[simp] theorem Gang.setReg_slot (g : Gang) (f l : Nat) (r : Reg) : (g.setReg f l r).slot = g.slot := by
  unfold Gang.setReg; split <;> rfl
@[simp] theorem Gang.setReg_ctx (g : Gang) (f l : Nat) (r : Reg) : (g.setReg f l r).ctx = g.ctx := by
  unfold Gang.setReg; split <;> rfl
@[simp] theorem Gang.setReg_grid (g : Gang) (f l : Nat) (r : Reg) : (g.setReg f l r).grid = g.grid := by
  unfold Gang.setReg; split <;> rfl
@[simp] theorem Gang.setReg_prio (g : Gang) (f l : Nat) (r : Reg) : (g.setReg f l r).prio = g.prio := by
  unfold Gang.setReg; split <;> rfl
@[simp] theorem Gang.setReg_special (g : Gang) (f l : Nat) (r : Reg) : (g.setReg f l r).special = g.special := by
  unfold Gang.setReg; split <;> rfl
@[simp] theorem Gang.setReg_p (g : Gang) (f l : Nat) (r : Reg) : (g.setReg f l r).p = g.p := by
  unfold Gang.setReg; split <;> rfl
@[simp] theorem Gang.setReg_mode (g : Gang) (f l : Nat) (r : Reg) : (g.setReg f l r).mode = g.mode := by
  unfold Gang.setReg; split <;> rfl
@[simp] theorem Gang.setReg_wb (g : Gang) (f l : Nat) (r : Reg) : (g.setReg f l r).wb = g.wb := by
  unfold Gang.setReg; split <;> rfl
@[simp] theorem Gang.setReg_lrow (g : Gang) (f l : Nat) (r : Reg) : (g.setReg f l r).lrow = g.lrow := by
  unfold Gang.setReg; split <;> rfl
@[simp] theorem Gang.setReg_nrows (g : Gang) (f l : Nat) (r : Reg) : (g.setReg f l r).nrows = g.nrows := by
  unfold Gang.setReg; split <;> rfl
@[simp] theorem Gang.setReg_wsize (g : Gang) (f l : Nat) (r : Reg) : (g.setReg f l r).wsize = g.wsize := by
  unfold Gang.setReg; split <;> rfl
@[simp] theorem Gang.setReg_cb (g : Gang) (f l : Nat) (r : Reg) : (g.setReg f l r).cb = g.cb := by
  unfold Gang.setReg; split <;> rfl
@[simp] theorem Gang.setReg_pc (g : Gang) (f l : Nat) (r : Reg) : (g.setReg f l r).pc = g.pc := by
  unfold Gang.setReg; split <;> rfl
@[simp] theorem Gang.setReg_exited (g : Gang) (f l : Nat) (r : Reg) : (g.setReg f l r).exited = g.exited := by
  unfold Gang.setReg; split <;> rfl
@[simp] theorem Gang.setReg_halted (g : Gang) (f l : Nat) (r : Reg) : (g.setReg f l r).halted = g.halted := by
  unfold Gang.setReg; split <;> rfl
@[simp] theorem Gang.setReg_haltReason (g : Gang) (f l : Nat) (r : Reg) : (g.setReg f l r).haltReason = g.haltReason := by
  unfold Gang.setReg; split <;> rfl
@[simp] theorem Gang.setReg_park (g : Gang) (f l : Nat) (r : Reg) : (g.setReg f l r).park = g.park := by
  unfold Gang.setReg; split <;> rfl
@[simp] theorem Gang.setReg_gstat (g : Gang) (f l : Nat) (r : Reg) : (g.setReg f l r).gstat = g.gstat := by
  unfold Gang.setReg; split <;> rfl
@[simp] theorem Gang.setReg_tcause (g : Gang) (f l : Nat) (r : Reg) : (g.setReg f l r).tcause = g.tcause := by
  unfold Gang.setReg; split <;> rfl
@[simp] theorem Gang.setReg_tpc (g : Gang) (f l : Nat) (r : Reg) : (g.setReg f l r).tpc = g.tpc := by
  unfold Gang.setReg; split <;> rfl
@[simp] theorem Gang.setReg_tlanes (g : Gang) (f l : Nat) (r : Reg) : (g.setReg f l r).tlanes = g.tlanes := by
  unfold Gang.setReg; split <;> rfl
@[simp] theorem Gang.setReg_tmask (g : Gang) (f l : Nat) (r : Reg) : (g.setReg f l r).tmask = g.tmask := by
  unfold Gang.setReg; split <;> rfl
@[simp] theorem Gang.setReg_handlerLanes (g : Gang) (f l : Nat) (r : Reg) : (g.setReg f l r).handlerLanes = g.handlerLanes := by
  unfold Gang.setReg; split <;> rfl
@[simp] theorem Gang.setReg_kc (g : Gang) (f l : Nat) (r : Reg) : (g.setReg f l r).kc = g.kc := by
  unfold Gang.setReg; split <;> rfl
@[simp] theorem Gang.setReg_books (g : Gang) (f l : Nat) (r : Reg) : (g.setReg f l r).books = g.books := by
  unfold Gang.setReg; split <;> rfl
@[simp] theorem Gang.setReg_harp (g : Gang) (f l : Nat) (r : Reg) : (g.setReg f l r).harp = g.harp := by
  unfold Gang.setReg; split <;> rfl
@[simp] theorem Gang.setReg_spill (g : Gang) (f l : Nat) (r : Reg) : (g.setReg f l r).spill = g.spill := by
  unfold Gang.setReg; split <;> rfl
@[simp] theorem Gang.setReg_vtab (g : Gang) (f l : Nat) (r : Reg) : (g.setReg f l r).vtab = g.vtab := by
  unfold Gang.setReg; split <;> rfl
@[simp] theorem Gang.setReg_bound (g : Gang) (f l : Nat) (r : Reg) : (g.setReg f l r).bound = g.bound := by
  unfold Gang.setReg; split <;> rfl
@[simp] theorem Gang.setReg_boundOut (g : Gang) (f l : Nat) (r : Reg) : (g.setReg f l r).boundOut = g.boundOut := by
  unfold Gang.setReg; split <;> rfl
@[simp] theorem Gang.setReg_pending (g : Gang) (f l : Nat) (r : Reg) : (g.setReg f l r).pending = g.pending := by
  unfold Gang.setReg; split <;> rfl
@[simp] theorem Gang.setReg_accesses (g : Gang) (f l : Nat) (r : Reg) : (g.setReg f l r).accesses = g.accesses := by
  unfold Gang.setReg; split <;> rfl
@[simp] theorem Gang.setReg_copies (g : Gang) (f l : Nat) (r : Reg) : (g.setReg f l r).copies = g.copies := by
  unfold Gang.setReg; split <;> rfl
@[simp] theorem Gang.setReg_counted (g : Gang) (f l : Nat) (r : Reg) : (g.setReg f l r).counted = g.counted := by
  unfold Gang.setReg; split <;> rfl
@[simp] theorem Gang.setReg_remotes (g : Gang) (f l : Nat) (r : Reg) : (g.setReg f l r).remotes = g.remotes := by
  unfold Gang.setReg; split <;> rfl
@[simp] theorem Gang.setReg_contribs (g : Gang) (f l : Nat) (r : Reg) : (g.setReg f l r).contribs = g.contribs := by
  unfold Gang.setReg; split <;> rfl
@[simp] theorem Gang.setReg_checkpoint (g : Gang) (f l : Nat) (r : Reg) : (g.setReg f l r).checkpoint = g.checkpoint := by
  unfold Gang.setReg; split <;> rfl
@[simp] theorem Gang.setReg_perf (g : Gang) (f l : Nat) (r : Reg) : (g.setReg f l r).perf = g.perf := by
  unfold Gang.setReg; split <;> rfl
@[simp] theorem Gang.setReg_armed (g : Gang) (f l : Nat) (r : Reg) : (g.setReg f l r).armed = g.armed := by
  unfold Gang.setReg; split <;> rfl
@[simp] theorem Gang.setReg_sampled (g : Gang) (f l : Nat) (r : Reg) : (g.setReg f l r).sampled = g.sampled := by
  unfold Gang.setReg; split <;> rfl
@[simp] theorem Gang.setReg_lastLane (g : Gang) (f l : Nat) (r : Reg) : (g.setReg f l r).lastLane = g.lastLane := by
  unfold Gang.setReg; split <;> rfl
@[simp] theorem Gang.setReg_waited (g : Gang) (f l : Nat) (r : Reg) : (g.setReg f l r).waited = g.waited := by
  unfold Gang.setReg; split <;> rfl
@[simp] theorem Gang.setReg_promoted (g : Gang) (f l : Nat) (r : Reg) : (g.setReg f l r).promoted = g.promoted := by
  unfold Gang.setReg; split <;> rfl
@[simp] theorem Gang.setReg_arrivedBars (g : Gang) (f l : Nat) (r : Reg) : (g.setReg f l r).arrivedBars = g.arrivedBars := by
  unfold Gang.setReg; split <;> rfl
@[simp] theorem Gang.setReg_arrivedCbars (g : Gang) (f l : Nat) (r : Reg) : (g.setReg f l r).arrivedCbars = g.arrivedCbars := by
  unfold Gang.setReg; split <;> rfl
@[simp] theorem Gang.setReg_killed (g : Gang) (f l : Nat) (r : Reg) : (g.setReg f l r).killed = g.killed := by
  unfold Gang.setReg; split <;> rfl
@[simp] theorem Gang.setReg_rendezvous (g : Gang) (f l : Nat) (r : Reg) : (g.setReg f l r).rendezvous = g.rendezvous := by
  unfold Gang.setReg; split <;> rfl
@[simp] theorem Gang.setReg_debugStop (g : Gang) (f l : Nat) (r : Reg) : (g.setReg f l r).debugStop = g.debugStop := by
  unfold Gang.setReg; split <;> rfl
@[simp] theorem Gang.setReg_stepOne (g : Gang) (f l : Nat) (r : Reg) : (g.setReg f l r).stepOne = g.stepOne := by
  unfold Gang.setReg; split <;> rfl
@[simp] theorem Gang.setReg_carried (g : Gang) (f l : Nat) (r : Reg) : (g.setReg f l r).carried = g.carried := by
  unfold Gang.setReg; split <;> rfl
@[simp] theorem Gang.setReg_exitPc (g : Gang) (f l : Nat) (r : Reg) : (g.setReg f l r).exitPc = g.exitPc := by
  unfold Gang.setReg; split <;> rfl
@[simp] theorem Gang.setReg_sequencing (g : Gang) (f l : Nat) (r : Reg) : (g.setReg f l r).sequencing = g.sequencing := by
  unfold Gang.setReg; split <;> rfl

/-! Gang.setPred changes no field but p. -/

@[simp] theorem Gang.setPred_block (g : Gang) (m : Mask) (p : Nat) (v : Mask) : (g.setPred m p v).block = g.block := by
  unfold Gang.setPred; split <;> rfl
@[simp] theorem Gang.setPred_die (g : Gang) (m : Mask) (p : Nat) (v : Mask) : (g.setPred m p v).die = g.die := by
  unfold Gang.setPred; split <;> rfl
@[simp] theorem Gang.setPred_cu (g : Gang) (m : Mask) (p : Nat) (v : Mask) : (g.setPred m p v).cu = g.cu := by
  unfold Gang.setPred; split <;> rfl
@[simp] theorem Gang.setPred_quarter (g : Gang) (m : Mask) (p : Nat) (v : Mask) : (g.setPred m p v).quarter = g.quarter := by
  unfold Gang.setPred; split <;> rfl
@[simp] theorem Gang.setPred_slot (g : Gang) (m : Mask) (p : Nat) (v : Mask) : (g.setPred m p v).slot = g.slot := by
  unfold Gang.setPred; split <;> rfl
@[simp] theorem Gang.setPred_ctx (g : Gang) (m : Mask) (p : Nat) (v : Mask) : (g.setPred m p v).ctx = g.ctx := by
  unfold Gang.setPred; split <;> rfl
@[simp] theorem Gang.setPred_grid (g : Gang) (m : Mask) (p : Nat) (v : Mask) : (g.setPred m p v).grid = g.grid := by
  unfold Gang.setPred; split <;> rfl
@[simp] theorem Gang.setPred_prio (g : Gang) (m : Mask) (p : Nat) (v : Mask) : (g.setPred m p v).prio = g.prio := by
  unfold Gang.setPred; split <;> rfl
@[simp] theorem Gang.setPred_special (g : Gang) (m : Mask) (p : Nat) (v : Mask) : (g.setPred m p v).special = g.special := by
  unfold Gang.setPred; split <;> rfl
@[simp] theorem Gang.setPred_v (g : Gang) (m : Mask) (p : Nat) (v : Mask) : (g.setPred m p v).v = g.v := by
  unfold Gang.setPred; split <;> rfl
@[simp] theorem Gang.setPred_sreg (g : Gang) (m : Mask) (p : Nat) (v : Mask) : (g.setPred m p v).sreg = g.sreg := by
  unfold Gang.setPred; split <;> rfl
@[simp] theorem Gang.setPred_mode (g : Gang) (m : Mask) (p : Nat) (v : Mask) : (g.setPred m p v).mode = g.mode := by
  unfold Gang.setPred; split <;> rfl
@[simp] theorem Gang.setPred_wb (g : Gang) (m : Mask) (p : Nat) (v : Mask) : (g.setPred m p v).wb = g.wb := by
  unfold Gang.setPred; split <;> rfl
@[simp] theorem Gang.setPred_lrow (g : Gang) (m : Mask) (p : Nat) (v : Mask) : (g.setPred m p v).lrow = g.lrow := by
  unfold Gang.setPred; split <;> rfl
@[simp] theorem Gang.setPred_nrows (g : Gang) (m : Mask) (p : Nat) (v : Mask) : (g.setPred m p v).nrows = g.nrows := by
  unfold Gang.setPred; split <;> rfl
@[simp] theorem Gang.setPred_wsize (g : Gang) (m : Mask) (p : Nat) (v : Mask) : (g.setPred m p v).wsize = g.wsize := by
  unfold Gang.setPred; split <;> rfl
@[simp] theorem Gang.setPred_cb (g : Gang) (m : Mask) (p : Nat) (v : Mask) : (g.setPred m p v).cb = g.cb := by
  unfold Gang.setPred; split <;> rfl
@[simp] theorem Gang.setPred_pc (g : Gang) (m : Mask) (p : Nat) (v : Mask) : (g.setPred m p v).pc = g.pc := by
  unfold Gang.setPred; split <;> rfl
@[simp] theorem Gang.setPred_exited (g : Gang) (m : Mask) (p : Nat) (v : Mask) : (g.setPred m p v).exited = g.exited := by
  unfold Gang.setPred; split <;> rfl
@[simp] theorem Gang.setPred_halted (g : Gang) (m : Mask) (p : Nat) (v : Mask) : (g.setPred m p v).halted = g.halted := by
  unfold Gang.setPred; split <;> rfl
@[simp] theorem Gang.setPred_haltReason (g : Gang) (m : Mask) (p : Nat) (v : Mask) : (g.setPred m p v).haltReason = g.haltReason := by
  unfold Gang.setPred; split <;> rfl
@[simp] theorem Gang.setPred_park (g : Gang) (m : Mask) (p : Nat) (v : Mask) : (g.setPred m p v).park = g.park := by
  unfold Gang.setPred; split <;> rfl
@[simp] theorem Gang.setPred_gstat (g : Gang) (m : Mask) (p : Nat) (v : Mask) : (g.setPred m p v).gstat = g.gstat := by
  unfold Gang.setPred; split <;> rfl
@[simp] theorem Gang.setPred_tcause (g : Gang) (m : Mask) (p : Nat) (v : Mask) : (g.setPred m p v).tcause = g.tcause := by
  unfold Gang.setPred; split <;> rfl
@[simp] theorem Gang.setPred_tpc (g : Gang) (m : Mask) (p : Nat) (v : Mask) : (g.setPred m p v).tpc = g.tpc := by
  unfold Gang.setPred; split <;> rfl
@[simp] theorem Gang.setPred_tlanes (g : Gang) (m : Mask) (p : Nat) (v : Mask) : (g.setPred m p v).tlanes = g.tlanes := by
  unfold Gang.setPred; split <;> rfl
@[simp] theorem Gang.setPred_tmask (g : Gang) (m : Mask) (p : Nat) (v : Mask) : (g.setPred m p v).tmask = g.tmask := by
  unfold Gang.setPred; split <;> rfl
@[simp] theorem Gang.setPred_handlerLanes (g : Gang) (m : Mask) (p : Nat) (v : Mask) : (g.setPred m p v).handlerLanes = g.handlerLanes := by
  unfold Gang.setPred; split <;> rfl
@[simp] theorem Gang.setPred_kc (g : Gang) (m : Mask) (p : Nat) (v : Mask) : (g.setPred m p v).kc = g.kc := by
  unfold Gang.setPred; split <;> rfl
@[simp] theorem Gang.setPred_books (g : Gang) (m : Mask) (p : Nat) (v : Mask) : (g.setPred m p v).books = g.books := by
  unfold Gang.setPred; split <;> rfl
@[simp] theorem Gang.setPred_harp (g : Gang) (m : Mask) (p : Nat) (v : Mask) : (g.setPred m p v).harp = g.harp := by
  unfold Gang.setPred; split <;> rfl
@[simp] theorem Gang.setPred_spill (g : Gang) (m : Mask) (p : Nat) (v : Mask) : (g.setPred m p v).spill = g.spill := by
  unfold Gang.setPred; split <;> rfl
@[simp] theorem Gang.setPred_vtab (g : Gang) (m : Mask) (p : Nat) (v : Mask) : (g.setPred m p v).vtab = g.vtab := by
  unfold Gang.setPred; split <;> rfl
@[simp] theorem Gang.setPred_bound (g : Gang) (m : Mask) (p : Nat) (v : Mask) : (g.setPred m p v).bound = g.bound := by
  unfold Gang.setPred; split <;> rfl
@[simp] theorem Gang.setPred_boundOut (g : Gang) (m : Mask) (p : Nat) (v : Mask) : (g.setPred m p v).boundOut = g.boundOut := by
  unfold Gang.setPred; split <;> rfl
@[simp] theorem Gang.setPred_pending (g : Gang) (m : Mask) (p : Nat) (v : Mask) : (g.setPred m p v).pending = g.pending := by
  unfold Gang.setPred; split <;> rfl
@[simp] theorem Gang.setPred_accesses (g : Gang) (m : Mask) (p : Nat) (v : Mask) : (g.setPred m p v).accesses = g.accesses := by
  unfold Gang.setPred; split <;> rfl
@[simp] theorem Gang.setPred_copies (g : Gang) (m : Mask) (p : Nat) (v : Mask) : (g.setPred m p v).copies = g.copies := by
  unfold Gang.setPred; split <;> rfl
@[simp] theorem Gang.setPred_counted (g : Gang) (m : Mask) (p : Nat) (v : Mask) : (g.setPred m p v).counted = g.counted := by
  unfold Gang.setPred; split <;> rfl
@[simp] theorem Gang.setPred_remotes (g : Gang) (m : Mask) (p : Nat) (v : Mask) : (g.setPred m p v).remotes = g.remotes := by
  unfold Gang.setPred; split <;> rfl
@[simp] theorem Gang.setPred_contribs (g : Gang) (m : Mask) (p : Nat) (v : Mask) : (g.setPred m p v).contribs = g.contribs := by
  unfold Gang.setPred; split <;> rfl
@[simp] theorem Gang.setPred_checkpoint (g : Gang) (m : Mask) (p : Nat) (v : Mask) : (g.setPred m p v).checkpoint = g.checkpoint := by
  unfold Gang.setPred; split <;> rfl
@[simp] theorem Gang.setPred_perf (g : Gang) (m : Mask) (p : Nat) (v : Mask) : (g.setPred m p v).perf = g.perf := by
  unfold Gang.setPred; split <;> rfl
@[simp] theorem Gang.setPred_armed (g : Gang) (m : Mask) (p : Nat) (v : Mask) : (g.setPred m p v).armed = g.armed := by
  unfold Gang.setPred; split <;> rfl
@[simp] theorem Gang.setPred_sampled (g : Gang) (m : Mask) (p : Nat) (v : Mask) : (g.setPred m p v).sampled = g.sampled := by
  unfold Gang.setPred; split <;> rfl
@[simp] theorem Gang.setPred_lastLane (g : Gang) (m : Mask) (p : Nat) (v : Mask) : (g.setPred m p v).lastLane = g.lastLane := by
  unfold Gang.setPred; split <;> rfl
@[simp] theorem Gang.setPred_waited (g : Gang) (m : Mask) (p : Nat) (v : Mask) : (g.setPred m p v).waited = g.waited := by
  unfold Gang.setPred; split <;> rfl
@[simp] theorem Gang.setPred_promoted (g : Gang) (m : Mask) (p : Nat) (v : Mask) : (g.setPred m p v).promoted = g.promoted := by
  unfold Gang.setPred; split <;> rfl
@[simp] theorem Gang.setPred_arrivedBars (g : Gang) (m : Mask) (p : Nat) (v : Mask) : (g.setPred m p v).arrivedBars = g.arrivedBars := by
  unfold Gang.setPred; split <;> rfl
@[simp] theorem Gang.setPred_arrivedCbars (g : Gang) (m : Mask) (p : Nat) (v : Mask) : (g.setPred m p v).arrivedCbars = g.arrivedCbars := by
  unfold Gang.setPred; split <;> rfl
@[simp] theorem Gang.setPred_killed (g : Gang) (m : Mask) (p : Nat) (v : Mask) : (g.setPred m p v).killed = g.killed := by
  unfold Gang.setPred; split <;> rfl
@[simp] theorem Gang.setPred_rendezvous (g : Gang) (m : Mask) (p : Nat) (v : Mask) : (g.setPred m p v).rendezvous = g.rendezvous := by
  unfold Gang.setPred; split <;> rfl
@[simp] theorem Gang.setPred_debugStop (g : Gang) (m : Mask) (p : Nat) (v : Mask) : (g.setPred m p v).debugStop = g.debugStop := by
  unfold Gang.setPred; split <;> rfl
@[simp] theorem Gang.setPred_stepOne (g : Gang) (m : Mask) (p : Nat) (v : Mask) : (g.setPred m p v).stepOne = g.stepOne := by
  unfold Gang.setPred; split <;> rfl
@[simp] theorem Gang.setPred_carried (g : Gang) (m : Mask) (p : Nat) (v : Mask) : (g.setPred m p v).carried = g.carried := by
  unfold Gang.setPred; split <;> rfl
@[simp] theorem Gang.setPred_exitPc (g : Gang) (m : Mask) (p : Nat) (v : Mask) : (g.setPred m p v).exitPc = g.exitPc := by
  unfold Gang.setPred; split <;> rfl
@[simp] theorem Gang.setPred_sequencing (g : Gang) (m : Mask) (p : Nat) (v : Mask) : (g.setPred m p v).sequencing = g.sequencing := by
  unfold Gang.setPred; split <;> rfl

end Sys2Proof.Machine
end

