-- ==== Sys2Proof/Laws/Gang.lean ====
section
/-! SUPPORT. What the named operations on a gang do: one law for lane masks, registers, predicates, lane PCs and parking each. -/

namespace Sys2Proof.Machine

theorem mem_laneNumbers (l : Nat) : l ∈ laneNumbers ↔ l < 32 := by
  constructor
  · intro h
    simp [laneNumbers] at h
    omega
  · intro h
    have : ∀ n : Fin 32, n.val ∈ laneNumbers := by decide
    exact this ⟨l, h⟩

theorem mem_lanesOf (m : Mask) (l : Nat) : l ∈ lanesOf m ↔ l < 32 ∧ lane m l = true := by
  rw [lanesOf, List.mem_filter, mem_laneNumbers]

theorem lanesOf_nodup (m : Mask) : (lanesOf m).Nodup := by
  have : laneNumbers.Nodup := by decide
  exact this.filter _

@[simp] theorem lane_zero (l : Nat) : lane 0#32 l = false := by simp [lane]

@[simp] theorem lane_and (a b : Mask) (l : Nat) : lane (a &&& b) l = (lane a l && lane b l) := by simp [lane]

@[simp] theorem lane_or (a b : Mask) (l : Nat) : lane (a ||| b) l = (lane a l || lane b l) := by simp [lane]

theorem lane_not (a : Mask) {l : Nat} (h : l < 32) : lane (~~~a) l = !lane a l := by simp [lane, h]

theorem lane_allLanes {l : Nat} (h : l < 32) : lane allLanes l = true := by
  rw [lane, allLanes, BitVec.getLsbD_allOnes]
  simpa using h

theorem lane_oneLane (k l : Nat) : lane (oneLane k) l = (decide (l < 32) && decide (k = l)) := by
  simp [lane, oneLane, BitVec.getLsbD_twoPow]
  by_cases h : l < 32 <;> by_cases h2 : k = l <;> simp [h, h2]

theorem lane_maskOf (p : Nat → Bool) {l : Nat} (h : l < 32) : lane (maskOf p) l = p l := by
  have step : ∀ (ls : List Nat) (m : Mask), (∀ k ∈ ls, k < 32) →
      lane (ls.foldl (fun m l => if p l then m ||| BitVec.twoPow 32 l else m) m) l = (lane m l || (ls.contains l && p l)) := by
    intro ls
    induction ls with
    | nil => intro m _; simp
    | cons k ls ih =>
      intro m hk
      rw [List.foldl_cons, ih _ fun j hj => hk j (List.mem_cons_of_mem _ hj)]
      have hk32 := hk k (List.mem_cons_self ..)
      by_cases hkl : k = l
      · subst k
        by_cases hp : p l <;> simp [hp, lane, h]
      · by_cases hp : p k <;> simp [hp, lane, h, Ne.symm hkl]
  rw [maskOf, step _ _ fun k hk => (mem_laneNumbers k).mp hk]
  have : laneNumbers.contains l = true := by simpa using (mem_laneNumbers l).mpr h
  rw [this]
  simp [lane]

theorem lane_lowestLane {m : Mask} (h : lanesOf m ≠ []) : lane m (lowestLane m) = true ∧ lowestLane m < 32 := by
  cases hf : laneNumbers.find? (lane m) with
  | none =>
    refine absurd ?_ h
    rw [lanesOf, List.filter_eq_nil_iff]
    exact fun l hl => by simpa using List.find?_eq_none.mp hf l hl
  | some l =>
    simp only [lowestLane, hf, Option.getD_some]
    exact ⟨List.find?_some hf, (mem_laneNumbers l).mp (List.mem_of_find?_eq_some hf)⟩

/-- A sparse map after the entries of some lanes are written. -/
theorem getAt_foldl_lanes {β : Type} [DecidableEq β] (z : β) (f : Nat → β) (ls : List Nat) (m : SMap β) (l : Nat) :
    getAt z (ls.foldl (fun m k => setAt z m k (f k)) m) l = if l ∈ ls then f l else getAt z m l := by
  induction ls generalizing m with
  | nil => simp
  | cons k ls ih =>
    rw [List.foldl_cons, ih]
    by_cases h : l ∈ ls
    · simp [h]
    · by_cases hk : l = k
      · subst l; simp [h]
      · simp [h, hk, getAt_setAt_other z m (f k) hk]

theorem pcOf_setPcs (g : Gang) (m : Mask) (f : Nat → W64) {l : Nat} (h : l < 32) :
    (g.setPcs m f).pcOf l = if lane m l then f l else g.pcOf l := by
  simp [Gang.pcOf, getAt_foldl_lanes, mem_lanesOf, h]

theorem pcOf_advance (g : Gang) (m : Mask) {l : Nat} (h : l < 32) :
    (g.advance m).pcOf l = if lane m l then nextSlot (g.pcOf l) else g.pcOf l :=
  pcOf_setPcs g m _ h

theorem parkOf_setPark (g : Gang) (m : Mask) (p : Park) {l : Nat} (h : l < 32) :
    (g.setPark m p).parkOf l = if lane m l then p else g.parkOf l := by
  simp only [Gang.parkOf, Gang.setPark_park]
  rw [getAt_foldl_lanes Park.ready (fun _ => p)]
  simp [mem_lanesOf, h]

/-- WritePred (R56): predicate p in the lanes of a mask, and no other predicate. -/
theorem pred_setPred (g : Gang) (m : Mask) (p q : Nat) (v : Mask) :
    (g.setPred m p v).pred q = if q = p ∧ p ≠ 31 then (g.pred p &&& ~~~m) ||| (v &&& m) else g.pred q := by
  unfold Gang.setPred
  by_cases hp : p = 31
  · simp [hp]
  · rw [if_neg hp]
    by_cases hq : q = p
    · subst q
      simp [hp, Gang.pred]
    · simp only [hq, false_and, if_false]
      unfold Gang.pred
      split
      · rfl
      · simp only [getAt_setAt_other _ _ _ hq]

theorem vKey_inj (g : Gang) {f k l m : Nat} (hl : l < 32) (hm : m < 32) (h : g.vKey f l = g.vKey k m) : f = k ∧ l = m := by
  unfold Gang.vKey at h
  omega

@[simp] theorem vKey_setReg (g : Gang) (f l : Nat) (r : Reg) : (g.setReg f l r).vKey = g.vKey := by
  funext k m
  simp [Gang.vKey]

theorem reg_setReg_self (g : Gang) (f l : Nat) (r : Reg) : (g.setReg f l r).reg f l = r := by
  by_cases h : f < 112 <;> simp [Gang.setReg, Gang.reg, Gang.vKey, h]

/-- Another register, or the same window register of another lane, is unchanged. -/
theorem reg_setReg_other (g : Gang) {f k l m : Nat} (r : Reg) (hl : l < 32) (hm : m < 32) (h : k ≠ f ∨ (f < 112 ∧ m ≠ l)) :
    (g.setReg f l r).reg k m = g.reg k m := by
  unfold Gang.setReg
  split
  · unfold Gang.reg
    split
    · refine getAt_setAt_other _ _ _ fun e => ?_
      have := vKey_inj g hm hl e
      omega
    · rfl
  · unfold Gang.reg
    split
    · rfl
    · refine getAt_setAt_other _ _ _ fun e => ?_
      rcases h with h | h <;> omega

@[simp] theorem Gang.bindRow_v (g : Gang) (r : Nat) : (g.bindRow r).v = g.v := by
  unfold Gang.bindRow
  split <;> dsimp only <;> split <;> rfl

@[simp] theorem Gang.bindRow_sreg (g : Gang) (r : Nat) : (g.bindRow r).sreg = g.sreg := by
  unfold Gang.bindRow
  split <;> dsimp only <;> split <;> rfl

@[simp] theorem Gang.bindRow_wb (g : Gang) (r : Nat) : (g.bindRow r).wb = g.wb := by
  unfold Gang.bindRow
  split <;> dsimp only <;> split <;> rfl

@[simp] theorem reg_bindField (g : Gang) (f k l : Nat) : (g.bindField f).reg k l = g.reg k l := by
  unfold Gang.bindField
  split
  · simp [Gang.reg, Gang.vKey]
  · rfl

theorem wb_setReg_foldl (ls : List Nat) (f : Nat) (r : Gang → Nat → Reg) (g : Gang) :
    (ls.foldl (fun g l => g.setReg f l (r g l)) g).wb = g.wb := by
  induction ls generalizing g with
  | nil => rfl
  | cons k ls ih => rw [List.foldl_cons, ih]; simp

/-- Window register f written lane by lane, and every other register. -/
theorem reg_foldl_setReg (ls : List Nat) (f : Nat) (r : Nat → Reg) (g : Gang) (hf : f < 112) (hls : ∀ l ∈ ls, l < 32) {k m : Nat}
    (hm : m < 32) :
    (ls.foldl (fun g l => g.setReg f l (r l)) g).reg k m = if k = f ∧ m ∈ ls then r m else g.reg k m := by
  induction ls generalizing g with
  | nil => simp
  | cons j ls ih =>
    rw [List.foldl_cons, ih _ fun l hl => hls l (List.mem_cons_of_mem _ hl)]
    by_cases h : k = f ∧ m ∈ ls
    · rw [if_pos h, if_pos ⟨h.1, List.mem_cons_of_mem _ h.2⟩]
    · rw [if_neg h]
      by_cases hk : k = f ∧ m = j
      · obtain ⟨rfl, rfl⟩ := hk
        rw [reg_setReg_self, if_pos ⟨rfl, List.mem_cons_self ..⟩]
      · rw [reg_setReg_other g (r j) (hls j (List.mem_cons_self ..)) hm (by omega), if_neg]
        rintro ⟨rfl, hmem⟩
        rcases List.mem_cons.mp hmem with rfl | hmem
        · exact hk ⟨rfl, rfl⟩
        · exact h ⟨rfl, hmem⟩

/-- WriteReg (R53, R65): window register f takes the values in the lanes of the mask, full; no other register changes. -/
theorem reg_write (g : Gang) (m : Mask) (f : Nat) (val : Nat → W64) (hf : f < 112) {k l : Nat} (hl : l < 32) :
    (g.write m f val).reg k l = if k = f ∧ lane m l = true then ⟨val l, .full⟩ else g.reg k l := by
  unfold Gang.write
  by_cases hm : m = 0
  · subst m; simp
  · rw [if_neg hm, reg_foldl_setReg _ _ (fun l => ⟨val l, .full⟩) _ hf (fun l hl => ((mem_lanesOf m l).mp hl).1) hl]
    simp [mem_lanesOf, hl]

/-- A result register after writeResult (R54, R88, R413). -/
theorem reg_writeResult (e : Env) (d : BitVec 7) (f : Nat → W64) (g : Gang) {l : Nat} (hl : l < 32)
    (h : lane (resultLanes e d) l = true) : (writeResult e d f g).reg d.toNat l = ⟨f l, .full⟩ := by
  unfold resultLanes at h
  unfold writeResult
  by_cases hd : 112 ≤ d.toNat
  · simp only [hd, if_true] at h ⊢
    by_cases ha : e.active = 0
    · simp [ha] at h
    · simp only [ha, if_false] at h ⊢
      rw [lane_oneLane] at h
      simp only [Bool.and_eq_true, decide_eq_true_eq] at h
      rw [← h.2]
      have : ∀ a b, g.reg d.toNat a = g.reg d.toNat b := by
        intro a b
        simp [Gang.reg, Nat.not_lt.mpr hd]
      simp [Gang.setReg, Gang.reg, Nat.not_lt.mpr hd]
  · simp only [hd, if_false] at h ⊢
    rw [reg_write g _ _ _ (by omega) hl]
    simp [h]

end Sys2Proof.Machine
end

