-- ==== Sys2Proof/Laws/Issue.lean ====
section
/-! SUPPORT. What the shared frame of the instructions can do: the strand that issues, the shared checks, a result, a trap and the
return from it, one law for each. -/

namespace Sys2Proof.Machine

@[simp] theorem gang?_setGang_self (s : State) (n : Nat) (x : Gang) : (s.setGang n x).gang? n = some x := find_put_self ..

theorem gang?_setGang_other (s : State) {n k : Nat} (x : Gang) (h : k ≠ n) : (s.setGang n x).gang? k = s.gang? k :=
  find_put_other _ _ h

theorem gang?_onGang_self (s : State) (n : Nat) (f : Gang → Gang) : (s.onGang n f).gang? n = (s.gang? n).map f :=
  find_change_self ..

theorem gang?_onGang_other (s : State) {n k : Nat} (f : Gang → Gang) (h : k ≠ n) : (s.onGang n f).gang? k = s.gang? k :=
  find_change_other _ _ h

@[simp] theorem cu_setCu_self (s : State) (n : Nat) (x : Cu) : (s.setCu n x).cu n = x := by simp [State.cu]

theorem cu_setCu_other (s : State) {n k : Nat} (x : Cu) (h : k ≠ n) : (s.setCu n x).cu k = s.cu k := by
  simp [State.cu, find_put_other _ _ h]

@[simp] theorem die_setDie_self (s : State) (n : Nat) (x : Die) : (s.setDie n x).die n = x := by simp [State.die]

theorem die_setDie_other (s : State) {n k : Nat} (x : Die) (h : k ≠ n) : (s.setDie n x).die k = s.die k := by
  simp [State.die, find_put_other _ _ h]

@[simp] theorem quarter_setQuarter_self (s : State) (n : Nat) (x : Quarter) : (s.setQuarter n x).quarter n = x := by
  simp [State.quarter]

theorem quarter_setQuarter_other (s : State) {n k : Nat} (x : Quarter) (h : k ≠ n) : (s.setQuarter n x).quarter k = s.quarter k := by
  simp [State.quarter, find_put_other _ _ h]

@[simp] theorem cu_setGang (s : State) (n : Nat) (x : Gang) (c : Nat) : (s.setGang n x).cu c = s.cu c := rfl
@[simp] theorem die_setGang (s : State) (n : Nat) (x : Gang) (d : Nat) : (s.setGang n x).die d = s.die d := rfl
@[simp] theorem quarter_setGang (s : State) (n : Nat) (x : Gang) (q : Nat) : (s.setGang n x).quarter q = s.quarter q := rfl
@[simp] theorem block?_setGang (s : State) (n : Nat) (x : Gang) (b : Nat) : (s.setGang n x).block? b = s.block? b := rfl
@[simp] theorem ctx?_setGang (s : State) (n : Nat) (x : Gang) (c : Nat) : (s.setGang n x).ctx? c = s.ctx? c := rfl
@[simp] theorem coherent_setGang (s : State) (n : Nat) (x : Gang) (k : Key) : coherent (s.setGang n x) k = coherent s k := rfl

theorem envOf_gang {s : State} {e : Env} (h : envOf s = some e) : s.gang? e.id = some e.g ∧ s.cur = some e.iss ∧ e.id = e.iss.gang := by
  unfold envOf at h
  split at h
  · cases h
  · split at h
    · cases h
    · cases h
      exact ⟨by assumption, by assumption, rfl⟩

/-- An issued instruction answers what settle gives; without a strand it stops. -/
theorem issue_eq (i : Instr) (f : Env → State → State) (s : State) :
    issue i f s = match envOf s with
      | none => .fault .noIssuingStrand
      | some e => .next (settle i f e s) := rfl

theorem issue_next {i : Instr} {f : Env → State → State} {s : State} {e : Env} (h : envOf s = some e) :
    issue i f s = .next (settle i f e s) := by
  rw [issue_eq, h]

/-- The shared checks pass, trap, or wait (R20, R51, R62). -/
theorem settle_cases (i : Instr) (f : Env → State → State) (e : Env) (s : State) :
    (verdict e (operands e i) = .go ∧ settle i f e s = f e s) ∨
    (∃ c d, verdict e (operands e i) = .trap c d ∧ settle i f e s = trapStrand e c d s) ∨
    (verdict e (operands e i) = .wait ∧ settle i f e s = holdAs e .regWait s) := by
  unfold settle
  cases h : verdict e (operands e i) with
  | go => exact .inl ⟨rfl, rfl⟩
  | trap c d => exact .inr (.inl ⟨c, d, rfl, rfl⟩)
  | wait => exact .inr (.inr ⟨rfl, rfl⟩)

theorem settle_go {i : Instr} {f : Env → State → State} {e : Env} {s : State} (h : verdict e (operands e i) = .go) :
    settle i f e s = f e s := by
  simp [settle, h]

/-- An instruction on registers of fixed latency whose checks pass (R88, R113). -/
theorem alu_next {i : Instr} {fx : Fx} {s : State} {e : Env} (h : envOf s = some e) (hv : verdict e (operands e i) = .go) :
    alu i fx s = .next (logArith (finish e (fx e (reads e i)).1 s) e.id e.iss.pc e.active e.mode (fx e (reads e i)).2) := by
  rw [alu, issue_next h, settle_go hv]

@[simp] theorem logArith_nil (s : State) (id : Nat) (pc : W64) (m : Mask) (mode : W32) : logArith s id pc m mode [] = s := by
  simp [logArith]

/-- An instruction on registers that meets no recorded condition changes its gang alone. -/
theorem alu_quiet {i : Instr} {fx : Fx} {s : State} {e : Env} (h : envOf s = some e) (hv : verdict e (operands e i) = .go)
    (hc : (fx e (reads e i)).2 = []) : alu i fx s = .next (finish e (fx e (reads e i)).1 s) := by
  rw [alu_next h hv, hc, logArith_nil]

theorem finish_eq (e : Env) (g : Gang) (s : State) : finish e g s = s.setGang e.id (g.advance e.strand) := rfl

@[simp] theorem gang?_finish (e : Env) (g : Gang) (s : State) : (finish e g s).gang? e.id = some (g.advance e.strand) := by
  simp [finish]

theorem gang?_finish_other (e : Env) (g : Gang) (s : State) {k : Nat} (h : k ≠ e.id) : (finish e g s).gang? k = s.gang? k :=
  gang?_setGang_other s _ h

@[simp] theorem coherent_finish (e : Env) (g : Gang) (s : State) (k : Key) : coherent (finish e g s) k = coherent s k := rfl

/-- Taking an exception: the gang is unknown, halts NESTED, waits for its handler's entry, is killed, or enters its handler (R84, R195,
R370). -/
theorem takeTrap_cases (s : State) (id : Nat) (m : Mask) (pc : W64) (c : Code) (d : Nat) (tl : Mask) :
    (s.gang? id = none ∧ takeTrap s id m pc c d tl = s) ∨
    ∃ g, s.gang? id = some g ∧
      ((g.tmask.getLsbD 0 = true ∧ takeTrap s id m pc c d tl = haltNested s id c d pc tl) ∨
       (g.tmask.getLsbD 0 = false ∧ handlerOf s g = none ∧ handlerHeld s g = true ∧
          takeTrap s id m pc c d tl = stopRuns (s.setGang id (g.setPark m (.trapped c.num d pc tl))) id) ∨
       (g.tmask.getLsbD 0 = false ∧ handlerOf s g = none ∧ handlerHeld s g = false ∧
          takeTrap s id m pc c d tl = killGang s id c d true pc tl) ∨
       (∃ o, g.tmask.getLsbD 0 = false ∧ handlerOf s g = some o ∧ takeTrap s id m pc c d tl =
          stopRuns (s.setGang id { (g.setPcs m fun l => withOff (g.pcOf l) o).setPark m .ready with
            tcause := causeWord c.num d true, tpc := pc, tlanes := tl, tmask := 1, handlerLanes := m }) id)) := by
  cases hg : s.gang? id with
  | none => exact .inl ⟨rfl, by simp [takeTrap, hg]⟩
  | some g =>
    refine .inr ⟨g, rfl, ?_⟩
    cases ht : g.tmask.getLsbD 0 with
    | true => exact .inl ⟨rfl, by simp only [takeTrap, hg, ht, if_true]⟩
    | false =>
      cases hh : handlerOf s g with
      | none =>
        cases hw : handlerHeld s g with
        | true => exact .inr (.inl ⟨rfl, rfl, rfl, by simp only [takeTrap, hg, ht, hh, hw, Bool.false_eq_true, if_false, if_true]⟩)
        | false => exact .inr (.inr (.inl ⟨rfl, rfl, rfl, by simp only [takeTrap, hg, ht, hh, hw, Bool.false_eq_true, if_false]⟩))
      | some o => exact .inr (.inr (.inr ⟨o, rfl, rfl, by simp only [takeTrap, hg, ht, hh, Bool.false_eq_true, if_false]⟩))

/-- stopRuns changes the quarters' runs and the focus alone. -/
theorem stopRuns_frame (s : State) (id : Nat) :
    stopRuns s id = { s with quarters := (stopRuns s id).quarters, focus := (stopRuns s id).focus } := rfl

@[simp] theorem gang?_stopRuns (s : State) (id k : Nat) : (stopRuns s id).gang? k = s.gang? k := rfl
@[simp] theorem coherent_stopRuns (s : State) (id : Nat) (k : Key) : coherent (stopRuns s id) k = coherent s k := rfl

/-- Where a strand enters its handler, and the trap state it finds there (R84, R370). -/
theorem gang?_takeTrap_enter {s : State} {id : Nat} {g : Gang} {m : Mask} {pc : W64} {c : Code} {d o : Nat} {tl : Mask}
    (hg : s.gang? id = some g) (ht : g.tmask.getLsbD 0 = false) (hh : handlerOf s g = some o) :
    (takeTrap s id m pc c d tl).gang? id = some { (g.setPcs m fun l => withOff (g.pcOf l) o).setPark m .ready with
      tcause := causeWord c.num d true, tpc := pc, tlanes := tl, tmask := 1, handlerLanes := m } := by
  simp only [takeTrap, hg, ht, hh, Bool.false_eq_true, if_false, gang?_stopRuns, gang?_setGang_self]

/-- RTT moves the lanes of its strand and opens TMASK; nothing else of the gang changes (R156, R371). -/
theorem returnTrap_frame (g : Gang) (m : Mask) (x : Nat) :
    returnTrap g m x = { g with pc := (returnTrap g m x).pc, tmask := 0, handlerLanes := 0 } := rfl

theorem pcOf_returnTrap (g : Gang) (m : Mask) (x : Nat) {l : Nat} (h : l < 32) :
    (returnTrap g m x).pcOf l = if lane m l then returnPc g x l else g.pcOf l :=
  pcOf_setPcs g m _ h

/-- A strand that waits keeps its PCs and registers; its park condition and the run change (R20). -/
theorem holdAs_frame (e : Env) (p : Park) (s : State) :
    holdAs e p s = { stopRuns (s.onGang e.id fun g => g.setPark e.strand p) e.id with cur := none } := rfl

theorem gang?_holdAs {e : Env} {s : State} (p : Park) (h : s.gang? e.id = some e.g) :
    (holdAs e p s).gang? e.id = some (e.g.setPark e.strand p) := by
  change (s.onGang e.id _).gang? e.id = _
  rw [gang?_onGang_self, h]
  rfl

end Sys2Proof.Machine
end

