-- ==== Sys2Proof/Laws/Memory.lean ====
section
/-! SUPPORT. Every memory operation keeps the canonical form of memory, and a byte that a store performs is the byte that is read. -/

namespace Sys2Proof.Machine

theorem MemoryOk.of_eq {s t : State} (h : MemoryOk s) (hm : t.mem = s.mem) (hh : t.hostMem = s.hostMem) : MemoryOk t := by
  unfold MemoryOk
  rw [hm, hh]
  exact h

/-- A fold of steps that each keep the canonical form keeps it. -/
theorem MemoryOk.foldl {α : Type} {f : State → α → State} (hf : ∀ s x, MemoryOk s → MemoryOk (f s x)) (xs : List α) {s : State}
    (h : MemoryOk s) : MemoryOk (xs.foldl f s) := by
  induction xs generalizing s with
  | nil => exact h
  | cons x xs ih => exact ih (hf s x h)

@[simp] theorem sealBlock_mem (s : State) (k : Key) : (sealBlock s k).mem = s.mem := by
  unfold sealBlock
  split <;> rfl

@[simp] theorem sealBlock_hostMem (s : State) (k : Key) : (sealBlock s k).hostMem = s.hostMem := by
  unfold sealBlock
  split <;> rfl

/-- What a write behind the caches can do to the memories: one byte, and its mirror's. -/
theorem MemoryOk.memWrite {s : State} (h : MemoryOk s) (k : Key) (b : Byte) : MemoryOk (memWrite s k b) := by
  unfold Machine.memWrite
  dsimp only
  split
  · split
    · exact ⟨by simpa using wf_writeByte _ _ _ (wf_writeByte _ _ _ h.1), by simpa using h.2⟩
    · exact ⟨by simpa using wf_writeByte _ _ _ h.1, by simpa using h.2⟩
  · exact ⟨h.1, wf_writeByte _ _ _ h.2⟩

theorem MemoryOk.noteReplaced {s : State} (h : MemoryOk s) (w : Option Nat) (k : Key) (b : Byte) : MemoryOk (noteReplaced s w k b) := by
  unfold Machine.noteReplaced
  split <;> exact h.of_eq rfl rfl

theorem MemoryOk.rennetPoke {s : State} (h : MemoryOk s) (v : Key) (i : Nat) (b : Byte) : MemoryOk (rennetPoke s v i b) :=
  h.of_eq rfl rfl

theorem MemoryOk.l2Write {s : State} (h : MemoryOk s) (d : Nat) (k : Key) (b : Byte) : MemoryOk (l2Write s d k b) :=
  h.of_eq rfl rfl

theorem MemoryOk.performByte {s : State} (h : MemoryOk s) (d : Nat) (w : Option Nat) (direct : Bool) (k : Key) (b : Byte) :
    MemoryOk (performByte s d w direct k b) := by
  unfold Machine.performByte
  split
  · exact h.rennetPoke _ _ _
  · split
    · exact (h.memWrite _ _).noteReplaced _ _ _
    · exact (h.l2Write _ _ _).noteReplaced _ _ _

theorem MemoryOk.performPlace {s : State} (h : MemoryOk s) (d : Nat) (w : Option Nat) (pb : Place × Byte) :
    MemoryOk (performPlace s d w pb) := by
  unfold Machine.performPlace
  split
  · exact h.of_eq rfl rfl
  · split
    · exact h.performByte _ _ _ _ _
    · exact h

theorem MemoryOk.performBytes {s : State} (h : MemoryOk s) (d : Nat) (w : Option Nat) (ps : List (Place × Byte)) :
    MemoryOk (performBytes s d w ps) := by
  unfold Machine.performBytes
  exact (MemoryOk.foldl (fun s x hs => hs.performPlace d w x) ps h).of_eq rfl rfl

theorem MemoryOk.keepSince {s : State} (h : MemoryOk s) (c : Nat) (k : Key) (t : Nat) : MemoryOk (keepSince s c k t) := h.of_eq rfl rfl

theorem MemoryOk.invalidateL1 {s : State} (h : MemoryOk s) (c : Nat) : MemoryOk (invalidateL1 s c) := h.of_eq rfl rfl

theorem MemoryOk.forgetL1 {s : State} (h : MemoryOk s) (p : Key → Bool) : MemoryOk (forgetL1 s p) := h.of_eq rfl rfl

theorem MemoryOk.writeBackL2 {s : State} (h : MemoryOk s) (p : Key → Bool) : MemoryOk (writeBackL2 s p) := by
  unfold Machine.writeBackL2
  exact MemoryOk.foldl (fun s x hs => hs.memWrite x.1 x.2) _ (h.of_eq rfl rfl)

theorem MemoryOk.writeBack {s : State} (h : MemoryOk s) (p : Key → Bool) : MemoryOk (writeBack s p) := by
  unfold Machine.writeBack
  exact MemoryOk.foldl (fun s x hs => hs.memWrite x.1 x.2) _ (h.writeBackL2 p)

theorem MemoryOk.rennetTrim {s : State} (h : MemoryOk s) (d : Nat) : MemoryOk (rennetTrim s d) := by
  unfold Machine.rennetTrim
  refine MemoryOk.foldl (fun s x hs => ?_) _ (h.of_eq rfl rfl)
  exact MemoryOk.foldl (fun s i hs => hs.memWrite _ _) _ hs

theorem MemoryOk.rennetPut {s : State} (h : MemoryOk s) (v : Key) (w : W64) : MemoryOk (rennetPut s v w) := by
  unfold Machine.rennetPut
  refine MemoryOk.rennetTrim ?_ _
  exact h.of_eq rfl rfl

theorem MemoryOk.rennetTake {s : State} (h : MemoryOk s) (line : List Key) (v : Key) : MemoryOk (rennetTake s line v) := by
  unfold Machine.rennetTake
  exact ((h.writeBackL2 _).forgetL1 _).rennetPut _ _

theorem MemoryOk.reset : MemoryOk State.reset := ⟨rfl, rfl⟩

@[simp] theorem memRead_sealBlock (s : State) (k j : Nat) : memRead (sealBlock s k) j = memRead s j := by
  simp [memRead]

/-- What the memory behind the caches holds after a write outside the mirrored Rind. -/
theorem memRead_memWrite (s : State) (j k : Nat) (b : Byte) (h : inHbm k = true → mirrorOf s.rind k = none) :
    memRead (memWrite s k b) j = if j = k then b else memRead s j := by
  unfold memWrite
  dsimp only
  by_cases hk : k < 2 ^ 64
  · have : (if inHbm k then mirrorOf s.rind k else none) = none := by
      split
      · exact h ‹_›
      · rfl
    rw [if_pos hk, this]
    dsimp only
    rw [memRead_sealBlock]
    unfold memRead
    dsimp only
    by_cases hj : j < 2 ^ 64
    · rw [if_pos hj, if_pos hj]
      by_cases hjk : j = k
      · subst j; simp
      · rw [readByte_writeByte_other _ _ hjk, if_neg hjk]
    · rw [if_neg hj, if_neg hj, if_neg (by omega)]
  · rw [if_neg hk]
    unfold memRead
    dsimp only
    by_cases hj : j < 2 ^ 64
    · rw [if_pos hj, if_pos hj, if_neg (by omega)]
    · rw [if_neg hj, if_neg hj]
      by_cases hjk : j = k
      · subst j; simp
      · rw [readByte_writeByte_other _ _ (by omega), if_neg hjk]

theorem firstSome_map {α β γ : Type} (f : β → Option γ) (g : α → β) (xs : List α) :
    firstSome f (xs.map g) = firstSome (fun x => f (g x)) xs := by
  induction xs with
  | nil => rfl
  | cons x xs ih => simp only [List.map_cons, firstSome, ih]

theorem firstSome_none {α β : Type} {f : α → Option β} {xs : List α} (h : ∀ x ∈ xs, f x = none) : firstSome f xs = none := by
  induction xs with
  | nil => rfl
  | cons x xs ih =>
    simp only [firstSome, h x (List.mem_cons_self ..)]
    exact ih fun y hy => h y (List.mem_cons_of_mem _ hy)

theorem firstSome_congr {α β : Type} {f g : α → Option β} {xs : List α} (h : ∀ x ∈ xs, f x = g x) :
    firstSome f xs = firstSome g xs := by
  induction xs with
  | nil => rfl
  | cons x xs ih =>
    simp only [firstSome, h x (List.mem_cons_self ..)]
    rw [ih fun y hy => h y (List.mem_cons_of_mem _ hy)]

/-- Among entries that answer nothing, the one put in answers. -/
theorem firstSome_put {α β : Type} (f : Nat × α → Option β) (m : List (Nat × α)) (k : Nat) (v : α) (b : β)
    (h : ∀ e ∈ m, f e = none) (hv : f (k, v) = some b) : firstSome f (put m k v) = some b := by
  induction m with
  | nil => simp [put, firstSome, hv]
  | cons e m ih =>
    obtain ⟨j, u⟩ := e
    simp only [put]
    split
    · simp [firstSome, hv]
    · split
      · simp [firstSome, hv]
      · simp only [firstSome, h (j, u) (List.mem_cons_self ..)]
        exact ih fun x hx => h x (List.mem_cons_of_mem _ hx)

@[simp] theorem coherent_noteReplaced (s : State) (w : Option Nat) (k : Key) (b : Byte) (j : Key) :
    coherent (noteReplaced s w k b) j = coherent s j := by
  unfold noteReplaced
  split <;> rfl

/-- A byte made dirty in an L2 is the coherent byte, where no Rennet holds its variable (R209). -/
theorem coherent_l2Write_self (s : State) (d : Nat) (k : Key) (b : Byte) (h : rennetVar (l2Write s d k b) (k / 8 * 8) = none) :
    coherent (l2Write s d k b) k = b := by
  have hl2 : firstSome (fun (e : Nat × Die) => find e.2.l2 k) (l2Write s d k b).dies = some b := by
    unfold l2Write
    dsimp only [State.setDie]
    refine firstSome_put _ _ _ _ _ (fun e he => ?_) (by simp)
    obtain ⟨x, _, rfl⟩ := List.mem_map.mp he
    simp
  simp only [coherent, h, hl2]

end Sys2Proof.Machine
end

