-- ==== Sys2Proof/Laws/PerInstr.lean ====
section
/-! SUPPORT. Family Opcode: the opcode of an instruction's word, constructor by constructor. A well-formed instruction is encoded under an
opcode that R60 assigns, but for unassignedOpcode, whose word has one that R60 leaves unassigned. -/

namespace Sys2Proof.Laws.Opcode

/-- Bits of an appended word that lie above its low part. -/
theorem extract_append {n m s l : Nat} (x : BitVec n) (y : BitVec m) (h : m ≤ s) :
    (x ++ y).extractLsb' s l = x.extractLsb' (s - m) l := by
  apply BitVec.eq_of_getLsbD_eq
  intro i hi
  simp only [BitVec.getLsbD_extractLsb', BitVec.getLsbD_append]
  rw [if_neg (by omega), show s + i - m = s - m + i from by omega]

/-- The constructor of words that are no instruction. -/
def unassigned : Instr → Bool
  | .unassignedOpcode _ => true
  | _ => false

/-- The word of a well-formed instruction has an unassigned opcode exactly when the instruction is unassignedOpcode (R60, R61). -/
def Statement (i : Instr) : Prop :=
  ∀ w, encode i = some w → wellFormed i = true → opcodeUnassigned (w.extractLsb' 23 9).toNat = unassigned i

theorem assigned {w : BitVec 32} {o : BitVec 9} {b : Bool} (h : w.extractLsb' 23 9 = o) (ho : opcodeUnassigned o.toNat = false)
    (hb : b = false) : opcodeUnassigned (w.extractLsb' 23 9).toNat = b := by
  rw [h, ho, hb]

/-- What has no word makes the statement hold. -/
theorem none_word {i : Instr} (h : encode i = none) : Statement i := by
  intro w hw
  rw [h] at hw
  cases hw

theorem iadd (d : BitVec 7) (a : BitVec 7) (b : BitVec 7) : Statement (.iadd d a b) := by
  intro w h _
  cases h
  exact assigned (by simp (disch := decide) only [extract_append, Nat.reduceSub]; rfl) (o := 0x000#9) rfl rfl

theorem isub (d : BitVec 7) (a : BitVec 7) (b : BitVec 7) : Statement (.isub d a b) := by
  intro w h _
  cases h
  exact assigned (by simp (disch := decide) only [extract_append, Nat.reduceSub]; rfl) (o := 0x001#9) rfl rfl

theorem iadds (d : BitVec 7) (a : BitVec 7) (b : BitVec 7) : Statement (.iadds d a b) := by
  intro w h _
  cases h
  exact assigned (by simp (disch := decide) only [extract_append, Nat.reduceSub]; rfl) (o := 0x002#9) rfl rfl

theorem isubs (d : BitVec 7) (a : BitVec 7) (b : BitVec 7) : Statement (.isubs d a b) := by
  intro w h _
  cases h
  exact assigned (by simp (disch := decide) only [extract_append, Nat.reduceSub]; rfl) (o := 0x003#9) rfl rfl

theorem imul (d : BitVec 7) (a : BitVec 7) (b : BitVec 7) : Statement (.imul d a b) := by
  intro w h _
  cases h
  exact assigned (by simp (disch := decide) only [extract_append, Nat.reduceSub]; rfl) (o := 0x004#9) rfl rfl

theorem imulh (d : BitVec 7) (a : BitVec 7) (b : BitVec 7) : Statement (.imulh d a b) := by
  intro w h _
  cases h
  exact assigned (by simp (disch := decide) only [extract_append, Nat.reduceSub]; rfl) (o := 0x005#9) rfl rfl

theorem imac (d : BitVec 7) (a : BitVec 7) (b : BitVec 7) : Statement (.imac d a b) := by
  intro w h _
  cases h
  exact assigned (by simp (disch := decide) only [extract_append, Nat.reduceSub]; rfl) (o := 0x006#9) rfl rfl

theorem idiv (d : BitVec 7) (a : BitVec 7) (b : BitVec 7) : Statement (.idiv d a b) := by
  intro w h _
  cases h
  exact assigned (by simp (disch := decide) only [extract_append, Nat.reduceSub]; rfl) (o := 0x007#9) rfl rfl

theorem irem (d : BitVec 7) (a : BitVec 7) (b : BitVec 7) : Statement (.irem d a b) := by
  intro w h _
  cases h
  exact assigned (by simp (disch := decide) only [extract_append, Nat.reduceSub]; rfl) (o := 0x008#9) rfl rfl

theorem imin (d : BitVec 7) (a : BitVec 7) (b : BitVec 7) : Statement (.imin d a b) := by
  intro w h _
  cases h
  exact assigned (by simp (disch := decide) only [extract_append, Nat.reduceSub]; rfl) (o := 0x009#9) rfl rfl

theorem imax (d : BitVec 7) (a : BitVec 7) (b : BitVec 7) : Statement (.imax d a b) := by
  intro w h _
  cases h
  exact assigned (by simp (disch := decide) only [extract_append, Nat.reduceSub]; rfl) (o := 0x00A#9) rfl rfl

theorem iabs (d : BitVec 7) (a : BitVec 7) : Statement (.iabs d a) := by
  intro w h _
  cases h
  exact assigned (by simp (disch := decide) only [extract_append, Nat.reduceSub]; rfl) (o := 0x00B#9) rfl rfl

theorem ineg (d : BitVec 7) (a : BitVec 7) : Statement (.ineg d a) := by
  intro w h _
  cases h
  exact assigned (by simp (disch := decide) only [extract_append, Nat.reduceSub]; rfl) (o := 0x00C#9) rfl rfl

theorem and (d : BitVec 7) (a : BitVec 7) (b : BitVec 7) : Statement (.and d a b) := by
  intro w h _
  cases h
  exact assigned (by simp (disch := decide) only [extract_append, Nat.reduceSub]; rfl) (o := 0x00D#9) rfl rfl

theorem or (d : BitVec 7) (a : BitVec 7) (b : BitVec 7) : Statement (.or d a b) := by
  intro w h _
  cases h
  exact assigned (by simp (disch := decide) only [extract_append, Nat.reduceSub]; rfl) (o := 0x00E#9) rfl rfl

theorem xor (d : BitVec 7) (a : BitVec 7) (b : BitVec 7) : Statement (.xor d a b) := by
  intro w h _
  cases h
  exact assigned (by simp (disch := decide) only [extract_append, Nat.reduceSub]; rfl) (o := 0x00F#9) rfl rfl

theorem andn (d : BitVec 7) (a : BitVec 7) (b : BitVec 7) : Statement (.andn d a b) := by
  intro w h _
  cases h
  exact assigned (by simp (disch := decide) only [extract_append, Nat.reduceSub]; rfl) (o := 0x010#9) rfl rfl

theorem not (d : BitVec 7) (a : BitVec 7) : Statement (.not d a) := by
  intro w h _
  cases h
  exact assigned (by simp (disch := decide) only [extract_append, Nat.reduceSub]; rfl) (o := 0x011#9) rfl rfl

theorem shl (d : BitVec 7) (a : BitVec 7) (b : BitVec 7) : Statement (.shl d a b) := by
  intro w h _
  cases h
  exact assigned (by simp (disch := decide) only [extract_append, Nat.reduceSub]; rfl) (o := 0x012#9) rfl rfl

theorem shr (d : BitVec 7) (a : BitVec 7) (b : BitVec 7) : Statement (.shr d a b) := by
  intro w h _
  cases h
  exact assigned (by simp (disch := decide) only [extract_append, Nat.reduceSub]; rfl) (o := 0x013#9) rfl rfl

theorem sar (d : BitVec 7) (a : BitVec 7) (b : BitVec 7) : Statement (.sar d a b) := by
  intro w h _
  cases h
  exact assigned (by simp (disch := decide) only [extract_append, Nat.reduceSub]; rfl) (o := 0x014#9) rfl rfl

theorem rotl (d : BitVec 7) (a : BitVec 7) (b : BitVec 7) : Statement (.rotl d a b) := by
  intro w h _
  cases h
  exact assigned (by simp (disch := decide) only [extract_append, Nat.reduceSub]; rfl) (o := 0x015#9) rfl rfl

theorem bfx (d : BitVec 7) (a : BitVec 7) (b : BitVec 7) (x : BitVec 2) : Statement (.bfx d a b x) := by
  intro w h _
  cases h
  exact assigned (by simp (disch := decide) only [extract_append, Nat.reduceSub]; rfl) (o := 0x016#9) rfl rfl

theorem bfi (d : BitVec 7) (a : BitVec 7) (b : BitVec 7) : Statement (.bfi d a b) := by
  intro w h _
  cases h
  exact assigned (by simp (disch := decide) only [extract_append, Nat.reduceSub]; rfl) (o := 0x017#9) rfl rfl

theorem popc (d : BitVec 7) (a : BitVec 7) : Statement (.popc d a) := by
  intro w h _
  cases h
  exact assigned (by simp (disch := decide) only [extract_append, Nat.reduceSub]; rfl) (o := 0x018#9) rfl rfl

theorem clz (d : BitVec 7) (a : BitVec 7) : Statement (.clz d a) := by
  intro w h _
  cases h
  exact assigned (by simp (disch := decide) only [extract_append, Nat.reduceSub]; rfl) (o := 0x019#9) rfl rfl

theorem ctz (d : BitVec 7) (a : BitVec 7) : Statement (.ctz d a) := by
  intro w h _
  cases h
  exact assigned (by simp (disch := decide) only [extract_append, Nat.reduceSub]; rfl) (o := 0x01A#9) rfl rfl

theorem brev (d : BitVec 7) (a : BitVec 7) : Statement (.brev d a) := by
  intro w h _
  cases h
  exact assigned (by simp (disch := decide) only [extract_append, Nat.reduceSub]; rfl) (o := 0x01B#9) rfl rfl

theorem bytep (d : BitVec 7) (a : BitVec 7) (b : BitVec 7) : Statement (.bytep d a b) := by
  intro w h _
  cases h
  exact assigned (by simp (disch := decide) only [extract_append, Nat.reduceSub]; rfl) (o := 0x01C#9) rfl rfl

theorem sel (d : BitVec 7) (a : BitVec 7) (b : BitVec 7) (x : BitVec 2) : Statement (.sel d a b x) := by
  intro w h _
  cases h
  exact assigned (by simp (disch := decide) only [extract_append, Nat.reduceSub]; rfl) (o := 0x01D#9) rfl rfl

theorem mov (d : BitVec 7) (a : BitVec 7) : Statement (.mov d a) := by
  intro w h _
  cases h
  exact assigned (by simp (disch := decide) only [extract_append, Nat.reduceSub]; rfl) (o := 0x01E#9) rfl rfl

theorem lea (d : BitVec 7) (a : BitVec 7) (b : BitVec 7) (x : BitVec 2) : Statement (.lea d a b x) := by
  intro w h _
  cases h
  exact assigned (by simp (disch := decide) only [extract_append, Nat.reduceSub]; rfl) (o := 0x01F#9) rfl rfl

theorem icmp (d : BitVec 5) (a : BitVec 7) (b : BitVec 7) (c : BitVec 2) : Statement (.icmp d a b c) := by
  intro w h _
  cases h
  exact assigned (by simp (disch := decide) only [extract_append, Nat.reduceSub]; rfl) (o := 0x020#9) rfl rfl

theorem iaddi (d : BitVec 7) (im : BitVec 16) : Statement (.iaddi d im) := by
  intro w h _
  cases h
  exact assigned (by simp (disch := decide) only [extract_append, Nat.reduceSub]; rfl) (o := 0x021#9) rfl rfl

theorem movi (d : BitVec 7) (im : BitVec 16) : Statement (.movi d im) := by
  intro w h _
  cases h
  exact assigned (by simp (disch := decide) only [extract_append, Nat.reduceSub]; rfl) (o := 0x022#9) rfl rfl

theorem movk0 (d : BitVec 7) (im : BitVec 16) : Statement (.movk0 d im) := by
  intro w h _
  cases h
  exact assigned (by simp (disch := decide) only [extract_append, Nat.reduceSub]; rfl) (o := 0x023#9) rfl rfl

theorem movk1 (d : BitVec 7) (im : BitVec 16) : Statement (.movk1 d im) := by
  intro w h _
  cases h
  exact assigned (by simp (disch := decide) only [extract_append, Nat.reduceSub]; rfl) (o := 0x024#9) rfl rfl

theorem movk2 (d : BitVec 7) (im : BitVec 16) : Statement (.movk2 d im) := by
  intro w h _
  cases h
  exact assigned (by simp (disch := decide) only [extract_append, Nat.reduceSub]; rfl) (o := 0x025#9) rfl rfl

theorem movk3 (d : BitVec 7) (im : BitVec 16) : Statement (.movk3 d im) := by
  intro w h _
  cases h
  exact assigned (by simp (disch := decide) only [extract_append, Nat.reduceSub]; rfl) (o := 0x026#9) rfl rfl

theorem icmpi (d : BitVec 5) (a : BitVec 7) (im : BitVec 7) (c : BitVec 2) : Statement (.icmpi d a im c) := by
  intro w h _
  cases h
  exact assigned (by simp (disch := decide) only [extract_append, Nat.reduceSub]; rfl) (o := 0x027#9) rfl rfl

theorem andi (d : BitVec 7) (im : BitVec 16) : Statement (.andi d im) := by
  intro w h _
  cases h
  exact assigned (by simp (disch := decide) only [extract_append, Nat.reduceSub]; rfl) (o := 0x028#9) rfl rfl

theorem ori (d : BitVec 7) (im : BitVec 16) : Statement (.ori d im) := by
  intro w h _
  cases h
  exact assigned (by simp (disch := decide) only [extract_append, Nat.reduceSub]; rfl) (o := 0x029#9) rfl rfl

theorem xori (d : BitVec 7) (im : BitVec 16) : Statement (.xori d im) := by
  intro w h _
  cases h
  exact assigned (by simp (disch := decide) only [extract_append, Nat.reduceSub]; rfl) (o := 0x02A#9) rfl rfl

theorem shli (d : BitVec 7) (a : BitVec 7) (im : BitVec 6) : Statement (.shli d a im) := by
  intro w h _
  cases h
  exact assigned (by simp (disch := decide) only [extract_append, Nat.reduceSub]; rfl) (o := 0x02B#9) rfl rfl

theorem shri (d : BitVec 7) (a : BitVec 7) (im : BitVec 6) : Statement (.shri d a im) := by
  intro w h _
  cases h
  exact assigned (by simp (disch := decide) only [extract_append, Nat.reduceSub]; rfl) (o := 0x02C#9) rfl rfl

theorem sari (d : BitVec 7) (a : BitVec 7) (im : BitVec 6) : Statement (.sari d a im) := by
  intro w h _
  cases h
  exact assigned (by simp (disch := decide) only [extract_append, Nat.reduceSub]; rfl) (o := 0x02D#9) rfl rfl

theorem imuli (d : BitVec 7) (im : BitVec 16) : Statement (.imuli d im) := by
  intro w h _
  cases h
  exact assigned (by simp (disch := decide) only [extract_append, Nat.reduceSub]; rfl) (o := 0x02E#9) rfl rfl

theorem dot4 (d : BitVec 7) (a : BitVec 7) (b : BitVec 7) (x : BitVec 2) : Statement (.dot4 d a b x) := by
  intro w h _
  cases h
  exact assigned (by simp (disch := decide) only [extract_append, Nat.reduceSub]; rfl) (o := 0x02F#9) rfl rfl

theorem plop (d : BitVec 5) (a : BitVec 5) (b : BitVec 5) (t : BitVec 8) : Statement (.plop d a b t) := by
  intro w h _
  cases h
  exact assigned (by simp (disch := decide) only [extract_append, Nat.reduceSub]; rfl) (o := 0x040#9) rfl rfl

theorem p2v (d : BitVec 7) (a : BitVec 7) (x : BitVec 2) : Statement (.p2v d a x) := by
  intro w h _
  cases h
  exact assigned (by simp (disch := decide) only [extract_append, Nat.reduceSub]; rfl) (o := 0x041#9) rfl rfl

theorem v2p (d : BitVec 7) (a : BitVec 7) (x : BitVec 2) : Statement (.v2p d a x) := by
  intro w h _
  cases h
  exact assigned (by simp (disch := decide) only [extract_append, Nat.reduceSub]; rfl) (o := 0x042#9) rfl rfl

theorem vote (d : BitVec 7) (a : BitVec 7) (x : BitVec 2) : Statement (.vote d a x) := by
  intro w h _
  cases h
  exact assigned (by simp (disch := decide) only [extract_append, Nat.reduceSub]; rfl) (o := 0x043#9) rfl rfl

theorem setmode (im : BitVec 16) : Statement (.setmode im) := by
  intro w h _
  cases h
  exact assigned (by simp (disch := decide) only [extract_append, Nat.reduceSub]; rfl) (o := 0x044#9) rfl rfl

theorem setmodeh (im : BitVec 4) : Statement (.setmodeh im) := by
  intro w h _
  cases h
  exact assigned (by simp (disch := decide) only [extract_append, Nat.reduceSub]; rfl) (o := 0x045#9) rfl rfl

theorem getmode (d : BitVec 7) : Statement (.getmode d) := by
  intro w h _
  cases h
  exact assigned (by simp (disch := decide) only [extract_append, Nat.reduceSub]; rfl) (o := 0x046#9) rfl rfl

theorem xl (d : BitVec 7) (a : BitVec 7) (b : BitVec 7) (x : BitVec 2) : Statement (.xl d a b x) := by
  intro w h _
  cases h
  exact assigned (by simp (disch := decide) only [extract_append, Nat.reduceSub]; rfl) (o := 0x047#9) rfl rfl

theorem xli (d : BitVec 7) (a : BitVec 7) (e : BitVec 7) (m : BitVec 2) : Statement (.xli d a e m) := by
  intro w h _
  cases h
  exact assigned (by simp (disch := decide) only [extract_append, Nat.reduceSub]; rfl) (o := 0x048#9) rfl rfl

theorem qx (d : BitVec 7) (a : BitVec 7) (h : BitVec 2) (g : BitVec 2) (f : BitVec 2) (e : BitVec 2) : Statement (.qx d a h g f e) := by
  intro w h _
  cases h
  exact assigned (by simp (disch := decide) only [extract_append, Nat.reduceSub]; rfl) (o := 0x049#9) rfl rfl

theorem gred (d : BitVec 7) (a : BitVec 7) (o : BitVec 3) : Statement (.gred d a o) := by
  intro w h _
  cases h
  exact assigned (by simp (disch := decide) only [extract_append, Nat.reduceSub]; rfl) (o := 0x04A#9) rfl rfl

theorem gscan (d : BitVec 7) (a : BitVec 7) (e : BitVec 1) (o : BitVec 3) : Statement (.gscan d a e o) := by
  intro w h _
  cases h
  exact assigned (by simp (disch := decide) only [extract_append, Nat.reduceSub]; rfl) (o := 0x04B#9) rfl rfl

theorem pack (d : BitVec 7) (a : BitVec 7) (b : BitVec 7) (x : BitVec 2) : Statement (.pack d a b x) := by
  intro w h _
  cases h
  exact assigned (by simp (disch := decide) only [extract_append, Nat.reduceSub]; rfl) (o := 0x04C#9) rfl rfl

theorem unpack (d : BitVec 7) (a : BitVec 7) (x : BitVec 2) : Statement (.unpack d a x) := by
  intro w h _
  cases h
  exact assigned (by simp (disch := decide) only [extract_append, Nat.reduceSub]; rfl) (o := 0x04D#9) rfl rfl

theorem specr (d : BitVec 7) (k : BitVec 9) : Statement (.specr d k) := by
  intro w h _
  cases h
  exact assigned (by simp (disch := decide) only [extract_append, Nat.reduceSub]; rfl) (o := 0x04E#9) rfl rfl

theorem fadd (d : BitVec 7) (a : BitVec 7) (b : BitVec 7) : Statement (.fadd d a b) := by
  intro w h _
  cases h
  exact assigned (by simp (disch := decide) only [extract_append, Nat.reduceSub]; rfl) (o := 0x080#9) rfl rfl

theorem fsub (d : BitVec 7) (a : BitVec 7) (b : BitVec 7) : Statement (.fsub d a b) := by
  intro w h _
  cases h
  exact assigned (by simp (disch := decide) only [extract_append, Nat.reduceSub]; rfl) (o := 0x081#9) rfl rfl

theorem fmul (d : BitVec 7) (a : BitVec 7) (b : BitVec 7) : Statement (.fmul d a b) := by
  intro w h _
  cases h
  exact assigned (by simp (disch := decide) only [extract_append, Nat.reduceSub]; rfl) (o := 0x082#9) rfl rfl

theorem fma (d : BitVec 7) (a : BitVec 7) (b : BitVec 7) : Statement (.fma d a b) := by
  intro w h _
  cases h
  exact assigned (by simp (disch := decide) only [extract_append, Nat.reduceSub]; rfl) (o := 0x083#9) rfl rfl

theorem fms (d : BitVec 7) (a : BitVec 7) (b : BitVec 7) : Statement (.fms d a b) := by
  intro w h _
  cases h
  exact assigned (by simp (disch := decide) only [extract_append, Nat.reduceSub]; rfl) (o := 0x084#9) rfl rfl

theorem fnma (d : BitVec 7) (a : BitVec 7) (b : BitVec 7) : Statement (.fnma d a b) := by
  intro w h _
  cases h
  exact assigned (by simp (disch := decide) only [extract_append, Nat.reduceSub]; rfl) (o := 0x085#9) rfl rfl

theorem fmin (d : BitVec 7) (a : BitVec 7) (b : BitVec 7) : Statement (.fmin d a b) := by
  intro w h _
  cases h
  exact assigned (by simp (disch := decide) only [extract_append, Nat.reduceSub]; rfl) (o := 0x086#9) rfl rfl

theorem fmax (d : BitVec 7) (a : BitVec 7) (b : BitVec 7) : Statement (.fmax d a b) := by
  intro w h _
  cases h
  exact assigned (by simp (disch := decide) only [extract_append, Nat.reduceSub]; rfl) (o := 0x087#9) rfl rfl

theorem fabs (d : BitVec 7) (a : BitVec 7) : Statement (.fabs d a) := by
  intro w h _
  cases h
  exact assigned (by simp (disch := decide) only [extract_append, Nat.reduceSub]; rfl) (o := 0x088#9) rfl rfl

theorem fneg (d : BitVec 7) (a : BitVec 7) : Statement (.fneg d a) := by
  intro w h _
  cases h
  exact assigned (by simp (disch := decide) only [extract_append, Nat.reduceSub]; rfl) (o := 0x089#9) rfl rfl

theorem fcmp (d : BitVec 5) (a : BitVec 7) (b : BitVec 7) (c : BitVec 2) : Statement (.fcmp d a b c) := by
  intro w h _
  cases h
  exact assigned (by simp (disch := decide) only [extract_append, Nat.reduceSub]; rfl) (o := 0x08A#9) rfl rfl

theorem fclass (d : BitVec 7) (a : BitVec 7) : Statement (.fclass d a) := by
  intro w h _
  cases h
  exact assigned (by simp (disch := decide) only [extract_append, Nat.reduceSub]; rfl) (o := 0x08B#9) rfl rfl

theorem fdiv (d : BitVec 7) (a : BitVec 7) (b : BitVec 7) : Statement (.fdiv d a b) := by
  intro w h _
  cases h
  exact assigned (by simp (disch := decide) only [extract_append, Nat.reduceSub]; rfl) (o := 0x08C#9) rfl rfl

theorem fsqrt (d : BitVec 7) (a : BitVec 7) : Statement (.fsqrt d a) := by
  intro w h _
  cases h
  exact assigned (by simp (disch := decide) only [extract_append, Nat.reduceSub]; rfl) (o := 0x08D#9) rfl rfl

theorem fscale (d : BitVec 7) (a : BitVec 7) (b : BitVec 7) : Statement (.fscale d a b) := by
  intro w h _
  cases h
  exact assigned (by simp (disch := decide) only [extract_append, Nat.reduceSub]; rfl) (o := 0x08E#9) rfl rfl

theorem rnd (d : BitVec 7) (a : BitVec 7) : Statement (.rnd d a) := by
  intro w h _
  cases h
  exact assigned (by simp (disch := decide) only [extract_append, Nat.reduceSub]; rfl) (o := 0x08F#9) rfl rfl

theorem frcp (d : BitVec 7) (a : BitVec 7) : Statement (.frcp d a) := by
  intro w h _
  cases h
  exact assigned (by simp (disch := decide) only [extract_append, Nat.reduceSub]; rfl) (o := 0x0C0#9) rfl rfl

theorem frsq (d : BitVec 7) (a : BitVec 7) : Statement (.frsq d a) := by
  intro w h _
  cases h
  exact assigned (by simp (disch := decide) only [extract_append, Nat.reduceSub]; rfl) (o := 0x0C1#9) rfl rfl

theorem fexp2 (d : BitVec 7) (a : BitVec 7) : Statement (.fexp2 d a) := by
  intro w h _
  cases h
  exact assigned (by simp (disch := decide) only [extract_append, Nat.reduceSub]; rfl) (o := 0x0C2#9) rfl rfl

theorem flog2 (d : BitVec 7) (a : BitVec 7) : Statement (.flog2 d a) := by
  intro w h _
  cases h
  exact assigned (by simp (disch := decide) only [extract_append, Nat.reduceSub]; rfl) (o := 0x0C3#9) rfl rfl

theorem fsinpi (d : BitVec 7) (a : BitVec 7) : Statement (.fsinpi d a) := by
  intro w h _
  cases h
  exact assigned (by simp (disch := decide) only [extract_append, Nat.reduceSub]; rfl) (o := 0x0C4#9) rfl rfl

theorem fcospi (d : BitVec 7) (a : BitVec 7) : Statement (.fcospi d a) := by
  intro w h _
  cases h
  exact assigned (by simp (disch := decide) only [extract_append, Nat.reduceSub]; rfl) (o := 0x0C5#9) rfl rfl

theorem ftanh (d : BitVec 7) (a : BitVec 7) : Statement (.ftanh d a) := by
  intro w h _
  cases h
  exact assigned (by simp (disch := decide) only [extract_append, Nat.reduceSub]; rfl) (o := 0x0C6#9) rfl rfl

theorem cvt (d : BitVec 7) (a : BitVec 7) (k : BitVec 1) (t : BitVec 4) (sf : BitVec 4) : Statement (.cvt d a k t sf) := by
  intro w h _
  cases h
  exact assigned (by simp (disch := decide) only [extract_append, Nat.reduceSub]; rfl) (o := 0x0C7#9) rfl rfl

theorem cvtg (d : BitVec 7) (a : BitVec 7) (b : BitVec 7) (x : BitVec 2) : Statement (.cvtg d a b x) := by
  intro w h _
  cases h
  exact assigned (by simp (disch := decide) only [extract_append, Nat.reduceSub]; rfl) (o := 0x0C8#9) rfl rfl

theorem cbenc (d : BitVec 7) (a : BitVec 7) (x : BitVec 2) : Statement (.cbenc d a x) := by
  intro w h _
  cases h
  exact assigned (by simp (disch := decide) only [extract_append, Nat.reduceSub]; rfl) (o := 0x0C9#9) rfl rfl

theorem cbdec (d : BitVec 7) (a : BitVec 7) (x : BitVec 2) : Statement (.cbdec d a x) := by
  intro w h _
  cases h
  exact assigned (by simp (disch := decide) only [extract_append, Nat.reduceSub]; rfl) (o := 0x0CA#9) rfl rfl

theorem bra (p : BitVec 5) (n : BitVec 1) (o : BitVec 17) : Statement (.bra p n o) := by
  intro w h _
  cases h
  exact assigned (by simp (disch := decide) only [extract_append, Nat.reduceSub]; rfl) (o := 0x100#9) rfl rfl

theorem jmpi (a : BitVec 7) (x : BitVec 2) : Statement (.jmpi a x) := by
  intro w h _
  cases h
  exact assigned (by simp (disch := decide) only [extract_append, Nat.reduceSub]; rfl) (o := 0x101#9) rfl rfl

theorem call (sf : BitVec 6) (o : BitVec 17) : Statement (.call sf o) := by
  intro w h _
  cases h
  exact assigned (by simp (disch := decide) only [extract_append, Nat.reduceSub]; rfl) (o := 0x102#9) rfl rfl

theorem calli (a : BitVec 7) (sf : BitVec 6) : Statement (.calli a sf) := by
  intro w h _
  cases h
  exact assigned (by simp (disch := decide) only [extract_append, Nat.reduceSub]; rfl) (o := 0x103#9) rfl rfl

theorem meet (d : BitVec 7) (a : BitVec 7) (sf : BitVec 1) : Statement (.meet d a sf) := by
  intro w h _
  cases h
  exact assigned (by simp (disch := decide) only [extract_append, Nat.reduceSub]; rfl) (o := 0x105#9) rfl rfl

theorem join (d : BitVec 7) : Statement (.join d) := by
  intro w h _
  cases h
  exact assigned (by simp (disch := decide) only [extract_append, Nat.reduceSub]; rfl) (o := 0x106#9) rfl rfl

theorem yieldw (k : BitVec 2) (t : BitVec 4) (o : BitVec 17) : Statement (.yieldw k t o) := by
  intro w h _
  cases h
  exact assigned (by simp (disch := decide) only [extract_append, Nat.reduceSub]; rfl) (o := 0x108#9) rfl rfl

theorem exit (a : BitVec 7) (n : BitVec 3) : Statement (.exit a n) := by
  intro w h _
  cases h
  exact assigned (by simp (disch := decide) only [extract_append, Nat.reduceSub]; rfl) (o := 0x109#9) rfl rfl

theorem give (im : BitVec 16) : Statement (.give im) := by
  intro w h _
  cases h
  exact assigned (by simp (disch := decide) only [extract_append, Nat.reduceSub]; rfl) (o := 0x10A#9) rfl rfl

theorem claim (im : BitVec 16) : Statement (.claim im) := by
  intro w h _
  cases h
  exact assigned (by simp (disch := decide) only [extract_append, Nat.reduceSub]; rfl) (o := 0x10B#9) rfl rfl

theorem trap (c : BitVec 9) : Statement (.trap c) := by
  intro w h _
  cases h
  exact assigned (by simp (disch := decide) only [extract_append, Nat.reduceSub]; rfl) (o := 0x10C#9) rfl rfl

theorem rtt (x : BitVec 2) : Statement (.rtt x) := by
  intro w h _
  cases h
  exact assigned (by simp (disch := decide) only [extract_append, Nat.reduceSub]; rfl) (o := 0x10D#9) rfl rfl

theorem tmask (im : BitVec 1) : Statement (.tmask im) := by
  intro w h _
  cases h
  exact assigned (by simp (disch := decide) only [extract_append, Nat.reduceSub]; rfl) (o := 0x10E#9) rfl rfl

theorem ld (d : BitVec 7) (a : BitVec 7) (sf : BitVec 3) (r : BitVec 3) (w : BitVec 3) : Statement (.ld d a sf r w) := by
  intro w h _
  cases h
  exact assigned (by simp (disch := decide) only [extract_append, Nat.reduceSub]; rfl) (o := 0x140#9) rfl rfl

theorem st (d : BitVec 7) (a : BitVec 7) (sf : BitVec 3) (r : BitVec 3) (w : BitVec 3) : Statement (.st d a sf r w) := by
  intro w h _
  cases h
  exact assigned (by simp (disch := decide) only [extract_append, Nat.reduceSub]; rfl) (o := 0x141#9) rfl rfl

theorem lds (d : BitVec 7) (a : BitVec 7) (sf : BitVec 3) (r : BitVec 3) (w : BitVec 3) : Statement (.lds d a sf r w) := by
  intro w h _
  cases h
  exact assigned (by simp (disch := decide) only [extract_append, Nat.reduceSub]; rfl) (o := 0x142#9) rfl rfl

theorem sts (d : BitVec 7) (a : BitVec 7) (sf : BitVec 3) (r : BitVec 3) (w : BitVec 3) : Statement (.sts d a sf r w) := by
  intro w h _
  cases h
  exact assigned (by simp (disch := decide) only [extract_append, Nat.reduceSub]; rfl) (o := 0x143#9) rfl rfl

theorem ldc (d : BitVec 7) (a : BitVec 7) (b : BitVec 7) (x : BitVec 2) : Statement (.ldc d a b x) := by
  intro w h _
  cases h
  exact assigned (by simp (disch := decide) only [extract_append, Nat.reduceSub]; rfl) (o := 0x144#9) rfl rfl

theorem stc (d : BitVec 7) (a : BitVec 7) (b : BitVec 7) (x : BitVec 2) : Statement (.stc d a b x) := by
  intro w h _
  cases h
  exact assigned (by simp (disch := decide) only [extract_append, Nat.reduceSub]; rfl) (o := 0x145#9) rfl rfl

theorem pref (a : BitVec 7) (sf : BitVec 3) : Statement (.pref a sf) := by
  intro w h _
  cases h
  exact assigned (by simp (disch := decide) only [extract_append, Nat.reduceSub]; rfl) (o := 0x146#9) rfl rfl

theorem acp (d : BitVec 7) (a : BitVec 7) (b : BitVec 7) : Statement (.acp d a b) := by
  intro w h _
  cases h
  exact assigned (by simp (disch := decide) only [extract_append, Nat.reduceSub]; rfl) (o := 0x147#9) rfl rfl

theorem acps (d : BitVec 7) (a : BitVec 7) (b : BitVec 7) (x : BitVec 2) : Statement (.acps d a b x) := by
  intro w h _
  cases h
  exact assigned (by simp (disch := decide) only [extract_append, Nat.reduceSub]; rfl) (o := 0x148#9) rfl rfl

theorem acpt (d : BitVec 7) (a : BitVec 7) (b : BitVec 7) (x : BitVec 2) : Statement (.acpt d a b x) := by
  intro w h _
  cases h
  exact assigned (by simp (disch := decide) only [extract_append, Nat.reduceSub]; rfl) (o := 0x149#9) rfl rfl

theorem atom (d : BitVec 7) (a : BitVec 7) (p : BitVec 4) (sf : BitVec 3) (r : BitVec 2) : Statement (.atom d a p sf r) := by
  intro w h _
  cases h
  exact assigned (by simp (disch := decide) only [extract_append, Nat.reduceSub]; rfl) (o := 0x14A#9) rfl rfl

theorem atoms (d : BitVec 7) (a : BitVec 7) (p : BitVec 4) (sf : BitVec 3) (r : BitVec 2) : Statement (.atoms d a p sf r) := by
  intro w h _
  cases h
  exact assigned (by simp (disch := decide) only [extract_append, Nat.reduceSub]; rfl) (o := 0x14B#9) rfl rfl

theorem red (d : BitVec 7) (a : BitVec 7) (p : BitVec 4) (sf : BitVec 3) (r : BitVec 2) : Statement (.red d a p sf r) := by
  intro w h _
  cases h
  exact assigned (by simp (disch := decide) only [extract_append, Nat.reduceSub]; rfl) (o := 0x14C#9) rfl rfl

theorem redc (d : BitVec 7) (a : BitVec 7) (p : BitVec 4) (sf : BitVec 3) (r : BitVec 2) : Statement (.redc d a p sf r) := by
  intro w h _
  cases h
  exact assigned (by simp (disch := decide) only [extract_append, Nat.reduceSub]; rfl) (o := 0x14D#9) rfl rfl

theorem bar (d : BitVec 7) (a : BitVec 7) (c : BitVec 1) (p : BitVec 2) (b : BitVec 5) : Statement (.bar d a c p b) := by
  intro w h _
  cases h
  exact assigned (by simp (disch := decide) only [extract_append, Nat.reduceSub]; rfl) (o := 0x14E#9) rfl rfl

theorem bara (d : BitVec 7) (a : BitVec 7) (c : BitVec 1) (p : BitVec 2) (b : BitVec 5) : Statement (.bara d a c p b) := by
  intro w h _
  cases h
  exact assigned (by simp (disch := decide) only [extract_append, Nat.reduceSub]; rfl) (o := 0x14F#9) rfl rfl

theorem barw (d : BitVec 7) (a : BitVec 7) (p : BitVec 2) (b : BitVec 5) : Statement (.barw d a p b) := by
  intro w h _
  cases h
  exact assigned (by simp (disch := decide) only [extract_append, Nat.reduceSub]; rfl) (o := 0x150#9) rfl rfl

theorem cbar (d : BitVec 7) (a : BitVec 7) (c : BitVec 1) (p : BitVec 2) (b : BitVec 5) : Statement (.cbar d a c p b) := by
  intro w h _
  cases h
  exact assigned (by simp (disch := decide) only [extract_append, Nat.reduceSub]; rfl) (o := 0x151#9) rfl rfl

theorem fence (p : BitVec 2) (k : BitVec 2) (sf : BitVec 3) : Statement (.fence p k sf) := by
  intro w h _
  cases h
  exact assigned (by simp (disch := decide) only [extract_append, Nat.reduceSub]; rfl) (o := 0x152#9) rfl rfl

theorem flush (a : BitVec 7) (b : BitVec 7) (x : BitVec 2) : Statement (.flush a b x) := by
  intro w h _
  cases h
  exact assigned (by simp (disch := decide) only [extract_append, Nat.reduceSub]; rfl) (o := 0x153#9) rfl rfl

theorem ckpt (a : BitVec 7) (sf : BitVec 2) : Statement (.ckpt a sf) := by
  intro w h _
  cases h
  exact assigned (by simp (disch := decide) only [extract_append, Nat.reduceSub]; rfl) (o := 0x154#9) rfl rfl

theorem waitc (k : BitVec 2) (t : BitVec 4) : Statement (.waitc k t) := by
  intro w h _
  cases h
  exact assigned (by simp (disch := decide) only [extract_append, Nat.reduceSub]; rfl) (o := 0x180#9) rfl rfl

theorem cntrd (d : BitVec 7) (x : BitVec 2) : Statement (.cntrd d x) := by
  intro w h _
  cases h
  exact assigned (by simp (disch := decide) only [extract_append, Nat.reduceSub]; rfl) (o := 0x181#9) rfl rfl

theorem bbc (d : BitVec 7) (im : BitVec 16) : Statement (.bbc d im) := by
  intro w h _
  cases h
  exact assigned (by simp (disch := decide) only [extract_append, Nat.reduceSub]; rfl) (o := 0x182#9) rfl rfl

theorem redset (d : BitVec 7) (a : BitVec 7) (b : BitVec 7) (x : BitVec 2) : Statement (.redset d a b x) := by
  intro w h _
  cases h
  exact assigned (by simp (disch := decide) only [extract_append, Nat.reduceSub]; rfl) (o := 0x183#9) rfl rfl

theorem redpoll (d : BitVec 7) (a : BitVec 7) (x : BitVec 2) : Statement (.redpoll d a x) := by
  intro w h _
  cases h
  exact assigned (by simp (disch := decide) only [extract_append, Nat.reduceSub]; rfl) (o := 0x184#9) rfl rfl

theorem perfrd (d : BitVec 7) (n : BitVec 9) : Statement (.perfrd d n) := by
  intro w h _
  cases h
  exact assigned (by simp (disch := decide) only [extract_append, Nat.reduceSub]; rfl) (o := 0x185#9) rfl rfl

theorem sample (a : BitVec 7) (k : BitVec 1) : Statement (.sample a k) := by
  intro w h _
  cases h
  exact assigned (by simp (disch := decide) only [extract_append, Nat.reduceSub]; rfl) (o := 0x186#9) rfl rfl

theorem mma (c : BitVec 4) (a : BitVec 5) (b : BitVec 5) (f : BitVec 7) : Statement (.mma c a b f) := by
  intro w h _
  cases h
  exact assigned (by simp (disch := decide) only [extract_append, Nat.reduceSub]; rfl) (o := 0x1C0#9) rfl rfl

theorem mmas (c : BitVec 4) (a : BitVec 5) (b : BitVec 5) (f : BitVec 7) (sf : BitVec 2) : Statement (.mmas c a b f sf) := by
  intro w h _
  cases h
  exact assigned (by simp (disch := decide) only [extract_append, Nat.reduceSub]; rfl) (o := 0x1C1#9) rfl rfl

theorem mmaq (c : BitVec 4) (a : BitVec 5) (b : BitVec 5) (f : BitVec 7) (sf : BitVec 2) : Statement (.mmaq c a b f sf) := by
  intro w h _
  cases h
  exact assigned (by simp (disch := decide) only [extract_append, Nat.reduceSub]; rfl) (o := 0x1C2#9) rfl rfl

theorem mmaqs (c : BitVec 4) (a : BitVec 5) (b : BitVec 5) (f : BitVec 7) (sf : BitVec 2) : Statement (.mmaqs c a b f sf) := by
  intro w h _
  cases h
  exact assigned (by simp (disch := decide) only [extract_append, Nat.reduceSub]; rfl) (o := 0x1C3#9) rfl rfl

theorem accz (c : BitVec 4) (sf : BitVec 2) : Statement (.accz c sf) := by
  intro w h _
  cases h
  exact assigned (by simp (disch := decide) only [extract_append, Nat.reduceSub]; rfl) (o := 0x1C4#9) rfl rfl

theorem accrd (c : BitVec 4) (a : BitVec 5) (sf : BitVec 2) : Statement (.accrd c a sf) := by
  intro w h _
  cases h
  exact assigned (by simp (disch := decide) only [extract_append, Nat.reduceSub]; rfl) (o := 0x1C5#9) rfl rfl

theorem accwr (c : BitVec 4) (a : BitVec 5) (sf : BitVec 2) : Statement (.accwr c a sf) := by
  intro w h _
  cases h
  exact assigned (by simp (disch := decide) only [extract_append, Nat.reduceSub]; rfl) (o := 0x1C6#9) rfl rfl

theorem accsc (c : BitVec 4) (a : BitVec 5) (sf : BitVec 2) : Statement (.accsc c a sf) := by
  intro w h _
  cases h
  exact assigned (by simp (disch := decide) only [extract_append, Nat.reduceSub]; rfl) (o := 0x1C7#9) rfl rfl

theorem accmax (c : BitVec 4) (a : BitVec 5) (sf : BitVec 2) : Statement (.accmax c a sf) := by
  intro w h _
  cases h
  exact assigned (by simp (disch := decide) only [extract_append, Nat.reduceSub]; rfl) (o := 0x1C8#9) rfl rfl

theorem accsum (c : BitVec 4) (a : BitVec 5) (sf : BitVec 2) : Statement (.accsum c a sf) := by
  intro w h _
  cases h
  exact assigned (by simp (disch := decide) only [extract_append, Nat.reduceSub]; rfl) (o := 0x1C9#9) rfl rfl

theorem accst (c : BitVec 4) (f : BitVec 7) (sf : BitVec 2) : Statement (.accst c f sf) := by
  intro w h _
  cases h
  exact assigned (by simp (disch := decide) only [extract_append, Nat.reduceSub]; rfl) (o := 0x1CA#9) rfl rfl

theorem accld (c : BitVec 4) (f : BitVec 7) (sf : BitVec 2) : Statement (.accld c f sf) := by
  intro w h _
  cases h
  exact assigned (by simp (disch := decide) only [extract_append, Nat.reduceSub]; rfl) (o := 0x1CB#9) rfl rfl

theorem mtr (d : BitVec 7) (a : BitVec 7) : Statement (.mtr d a) := by
  intro w h _
  cases h
  exact assigned (by simp (disch := decide) only [extract_append, Nat.reduceSub]; rfl) (o := 0x1CC#9) rfl rfl

theorem safept (n : BitVec 12) : Statement (.safept n) := by
  intro w h _
  cases h
  exact assigned (by simp (disch := decide) only [extract_append, Nat.reduceSub]; rfl) (o := 0x1E0#9) rfl rfl

theorem xfer (a : BitVec 7) (sf : BitVec 1) (v : BitVec 8) : Statement (.xfer a sf v) := by
  intro w h _
  cases h
  exact assigned (by simp (disch := decide) only [extract_append, Nat.reduceSub]; rfl) (o := 0x1E1#9) rfl rfl

theorem xferq (d : BitVec 7) : Statement (.xferq d) := by
  intro w h _
  cases h
  exact assigned (by simp (disch := decide) only [extract_append, Nat.reduceSub]; rfl) (o := 0x1E2#9) rfl rfl

theorem mcall (d : BitVec 7) (k : BitVec 8) : Statement (.mcall d k) := by
  intro w h _
  cases h
  exact assigned (by simp (disch := decide) only [extract_append, Nat.reduceSub]; rfl) (o := 0x1E3#9) rfl rfl

theorem mstore (d : BitVec 7) (a : BitVec 7) (k : BitVec 8) : Statement (.mstore d a k) := by
  intro w h _
  cases h
  exact assigned (by simp (disch := decide) only [extract_append, Nat.reduceSub]; rfl) (o := 0x1E4#9) rfl rfl

theorem dtload (d : BitVec 7) (a : BitVec 7) (c : BitVec 2) : Statement (.dtload d a c) := by
  intro w h _
  cases h
  exact assigned (by simp (disch := decide) only [extract_append, Nat.reduceSub]; rfl) (o := 0x1E5#9) rfl rfl

theorem dtset (a : BitVec 7) (o : BitVec 2) (c : BitVec 2) : Statement (.dtset a o c) := by
  intro w h _
  cases h
  exact assigned (by simp (disch := decide) only [extract_append, Nat.reduceSub]; rfl) (o := 0x1E6#9) rfl rfl

theorem dadd (d : BitVec 7) (a : BitVec 7) (b : BitVec 7) (c : BitVec 2) : Statement (.dadd d a b c) := by
  intro w h _
  cases h
  exact assigned (by simp (disch := decide) only [extract_append, Nat.reduceSub]; rfl) (o := 0x1E7#9) rfl rfl

theorem dsub (d : BitVec 7) (a : BitVec 7) (b : BitVec 7) (c : BitVec 2) : Statement (.dsub d a b c) := by
  intro w h _
  cases h
  exact assigned (by simp (disch := decide) only [extract_append, Nat.reduceSub]; rfl) (o := 0x1E8#9) rfl rfl

theorem dcmp (d : BitVec 7) (a : BitVec 7) (b : BitVec 7) (c : BitVec 2) : Statement (.dcmp d a b c) := by
  intro w h _
  cases h
  exact assigned (by simp (disch := decide) only [extract_append, Nat.reduceSub]; rfl) (o := 0x1E9#9) rfl rfl

theorem dconv (d : BitVec 7) (a : BitVec 7) (c : BitVec 2) : Statement (.dconv d a c) := by
  intro w h _
  cases h
  exact assigned (by simp (disch := decide) only [extract_append, Nat.reduceSub]; rfl) (o := 0x1EA#9) rfl rfl

theorem dstate (d : BitVec 7) (c : BitVec 2) : Statement (.dstate d c) := by
  intro w h _
  cases h
  exact assigned (by simp (disch := decide) only [extract_append, Nat.reduceSub]; rfl) (o := 0x1EB#9) rfl rfl

theorem cbload (a : BitVec 7) (x : BitVec 2) : Statement (.cbload a x) := by
  intro w h _
  cases h
  exact assigned (by simp (disch := decide) only [extract_append, Nat.reduceSub]; rfl) (o := 0x1EC#9) rfl rfl

theorem cbrd (d : BitVec 7) (q : BitVec 2) (b : BitVec 1) : Statement (.cbrd d q b) := by
  intro w h _
  cases h
  exact assigned (by simp (disch := decide) only [extract_append, Nat.reduceSub]; rfl) (o := 0x1ED#9) rfl rfl

theorem sysrd (d : BitVec 7) (n : BitVec 9) : Statement (.sysrd d n) := by
  intro w h _
  cases h
  exact assigned (by simp (disch := decide) only [extract_append, Nat.reduceSub]; rfl) (o := 0x1F0#9) rfl rfl

theorem syswr (a : BitVec 7) (n : BitVec 9) : Statement (.syswr a n) := by
  intro w h _
  cases h
  exact assigned (by simp (disch := decide) only [extract_append, Nat.reduceSub]; rfl) (o := 0x1F1#9) rfl rfl

theorem tlog (a : BitVec 7) : Statement (.tlog a) := by
  intro w h _
  cases h
  exact assigned (by simp (disch := decide) only [extract_append, Nat.reduceSub]; rfl) (o := 0x1F2#9) rfl rfl

theorem runArbitration (q : Nat) : Statement (.runArbitration q) := none_word rfl

theorem gangPromotion (g : Nat) : Statement (.gangPromotion g) := none_word rfl

theorem instructionFetchFill (g lane : Nat) : Statement (.instructionFetchFill g lane) := none_word rfl

theorem resultReturn (g ticket : Nat) : Statement (.resultReturn g ticket) := none_word rfl

theorem replaySlotFree (cu : Nat) : Statement (.replaySlotFree cu) := none_word rfl

theorem faultAck (ctx obj tile sub frame : Nat) (fill : List Byte) : Statement (.faultAck ctx obj tile sub frame fill) := none_word rfl

theorem faultDecline (ctx obj tile sub : Nat) : Statement (.faultDecline ctx obj tile sub) := none_word rfl

theorem copyPiece (g ticket k : Nat) : Statement (.copyPiece g ticket k) := none_word rfl

theorem matrixExecute (q : Nat) : Statement (.matrixExecute q) := none_word rfl

theorem remoteWriteAck (g ticket : Nat) : Statement (.remoteWriteAck g ticket) := none_word rfl

theorem counterReport (g k : Nat) : Statement (.counterReport g k) := none_word rfl

theorem redcContribution (g ticket lane : Nat) : Statement (.redcContribution g ticket lane) := none_word rfl

theorem claimGrant (blk q : Nat) : Statement (.claimGrant blk q) := none_word rfl

theorem ckptCommit (g : Nat) : Statement (.ckptCommit g) := none_word rfl

theorem transferSequence (g : Nat) : Statement (.transferSequence g) := none_word rfl

theorem transferReleaseTimeout (g lane : Nat) : Statement (.transferReleaseTimeout g lane) := none_word rfl

theorem gangEnd (g : Nat) : Statement (.gangEnd g) := none_word rfl

theorem taskDispatch (cu q slot : Nat) : Statement (.taskDispatch cu q slot) := none_word rfl

theorem taskRunnable (cu slot : Nat) : Statement (.taskRunnable cu slot) := none_word rfl

theorem blockPlace (grid index : Nat) (cus q0s slots : List Nat) : Statement (.blockPlace grid index cus q0s slots) := none_word rfl

theorem gridEnd (grid : Nat) : Statement (.gridEnd grid) := none_word rfl

theorem gangKill (g code detail : Nat) : Statement (.gangKill g code detail) := none_word rfl

theorem sliceEnd (ctx : Nat) : Statement (.sliceEnd ctx) := none_word rfl

theorem stopRequest (ctx : Nat) : Statement (.stopRequest ctx) := none_word rfl

theorem emergencyCopyOut (cu : Nat) : Statement (.emergencyCopyOut cu) := none_word rfl

theorem dieReset (die : Nat) : Statement (.dieReset die) := none_word rfl

theorem deviceReset (err : Nat) : Statement (.deviceReset err) := none_word rfl

theorem rstkey (v : W64) : Statement (.rstkey v) := none_word rfl

theorem registerWrite (off : Nat) (v : W64) : Statement (.registerWrite off v) := none_word rfl

theorem wakeWord (q : Nat) (v : W64) : Statement (.wakeWord q v) := none_word rfl

theorem queueNop (q : Nat) : Statement (.queueNop q) := none_word rfl

theorem resume (q : Nat) : Statement (.resume q) := none_word rfl

theorem signal (q : Nat) : Statement (.signal q) := none_word rfl

theorem waitv (q : Nat) : Statement (.waitv q) := none_word rfl

theorem waitvRecheck (q : Nat) : Statement (.waitvRecheck q) := none_word rfl

theorem waitvPollTimer (q : Nat) : Statement (.waitvPollTimer q) := none_word rfl

theorem writev (q : Nat) : Statement (.writev q) := none_word rfl

theorem flushc (q : Nat) : Statement (.flushc q) := none_word rfl

theorem resync (q : Nat) : Statement (.resync q) := none_word rfl

theorem handler (q : Nat) : Statement (.handler q) := none_word rfl

theorem objectRecordWrite (ctx obj : Nat) (record : List W64) (entries : List (Nat × W64)) : Statement (.objectRecordWrite ctx obj record entries) := none_word rfl

theorem objectRetire (ctx obj : Nat) : Statement (.objectRetire ctx obj) := none_word rfl

theorem rindDesignate (base size mirror : Nat) : Statement (.rindDesignate base size mirror) := none_word rfl

theorem exportSet (slot ctx off len : Nat) (ptr : W64) : Statement (.exportSet slot ctx off len ptr) := none_word rfl

theorem queueCreate (q : Nat) (desc : List W64) : Statement (.queueCreate q desc) := none_word rfl

theorem queueDestroy (q : Nat) : Statement (.queueDestroy q) := none_word rfl

theorem queueResume (q : Nat) : Statement (.queueResume q) := none_word rfl

theorem contextCreate (ctx slot : Nat) (attrs : List W64) : Statement (.contextCreate ctx slot attrs) := none_word rfl

theorem contextDestroy (ctx : Nat) : Statement (.contextDestroy ctx) := none_word rfl

theorem contextRecover (ctx : Nat) (attrs : List W64) : Statement (.contextRecover ctx attrs) := none_word rfl

theorem xferRequest (ctx : Nat) (vtab : W64) (target : Nat) : Statement (.xferRequest ctx vtab target) := none_word rfl

theorem curveSet (die : Nat) (table : List Byte) : Statement (.curveSet die table) := none_word rfl

theorem budgetSet (n lim : Nat) : Statement (.budgetSet n lim) := none_word rfl

theorem faultModeSet (die : Nat) (normal : Bool) : Statement (.faultModeSet die normal) := none_word rfl

theorem debugStop (scope id : Nat) : Statement (.debugStop scope id) := none_word rfl

theorem debugResume (g : Nat) : Statement (.debugResume g) := none_word rfl

theorem debugSingleStep (g lane : Nat) : Statement (.debugSingleStep g lane) := none_word rfl

theorem debugWrite (g item idx lane : Nat) (v : W64) : Statement (.debugWrite g item idx lane v) := none_word rfl

theorem breakpointSet (ctx n : Nat) (bp : Option (Nat × Nat)) : Statement (.breakpointSet ctx n bp) := none_word rfl

theorem dieResetRequest (die : Nat) : Statement (.dieResetRequest die) := none_word rfl

theorem samplerSet (ctx period : Nat) : Statement (.samplerSet ctx period) := none_word rfl

theorem fabricTopology (routes : List (Nat × List Nat)) (err : Bool) : Statement (.fabricTopology routes err) := none_word rfl

theorem attestationQuote (nonce : List Byte) : Statement (.attestationQuote nonce) := none_word rfl

theorem hostFlagWrite (off : Nat) (bytes : List Byte) : Statement (.hostFlagWrite off bytes) := none_word rfl

theorem hostBar2Read (off len : Nat) : Statement (.hostBar2Read off len) := none_word rfl

theorem hostBar2Write (off : Nat) (bytes : List Byte) : Statement (.hostBar2Write off bytes) := none_word rfl

theorem pcieAtomicop (off op width : Nat) (v c : W64) : Statement (.pcieAtomicop off op width v c) := none_word rfl

theorem remoteRequest (port tag ctx kind : Nat) (ptr v c : W64) : Statement (.remoteRequest port tag ctx kind ptr v c) := none_word rfl

theorem flitResend (port : Nat) : Statement (.flitResend port) := none_word rfl

theorem portDown (port : Nat) : Statement (.portDown port) := none_word rfl

theorem remoteTimeout (g : Nat) : Statement (.remoteTimeout g) := none_word rfl

theorem shootdown (ctx obj : Nat) : Statement (.shootdown ctx obj) := none_word rfl

theorem relocation (ctx obj : Nat) (tile : Option Nat) (target : Nat) : Statement (.relocation ctx obj tile target) := none_word rfl

theorem relocationPublish (ctx obj : Nat) (tile : Option Nat) : Statement (.relocationPublish ctx obj tile) := none_word rfl

theorem recordRebuild (ctx obj : Nat) (tile : Option Nat) (intact : Bool) : Statement (.recordRebuild ctx obj tile intact) := none_word rfl

theorem scrub (sector : Nat) (uncorrectable : Bool) : Statement (.scrub sector uncorrectable) := none_word rfl

theorem budgetPeriod (die : Nat) : Statement (.budgetPeriod die) := none_word rfl

theorem droopEvent (die vat : Nat) : Statement (.droopEvent die vat) := none_word rfl

theorem vatThermal (die vat : Nat) (celsius : Int) : Statement (.vatThermal die vat celsius) := none_word rfl

theorem pcSample (ctx q : Nat) : Statement (.pcSample ctx q) := none_word rfl

theorem unassignedOpcode (w : BitVec 32) : Statement (.unassignedOpcode w) := by
  intro v h hw
  cases h
  simpa [wellFormed, fieldChecks, unassigned] using hw

theorem pktbad (q : Nat) : Statement (.pktbad q) := none_word rfl

theorem writeAccepted (g n : Nat) : Statement (.writeAccepted g n) := none_word rfl

theorem queueCoreRestart : Statement .queueCoreRestart := none_word rfl

theorem ret  : Statement .ret := by
  intro w h _
  cases h
  exact assigned (by simp (disch := decide) only [extract_append, Nat.reduceSub]; rfl) (o := 0x104#9) rfl rfl

theorem yield  : Statement .yield := by
  intro w h _
  cases h
  exact assigned (by simp (disch := decide) only [extract_append, Nat.reduceSub]; rfl) (o := 0x107#9) rfl rfl

theorem halt  : Statement .halt := by
  intro w h _
  cases h
  exact assigned (by simp (disch := decide) only [extract_append, Nat.reduceSub]; rfl) (o := 0x10F#9) rfl rfl

theorem nop  : Statement .nop := by
  intro w h _
  cases h
  exact assigned (by simp (disch := decide) only [extract_append, Nat.reduceSub]; rfl) (o := 0x110#9) rfl rfl

theorem powerLoss : Statement .powerLoss := none_word rfl

theorem thermalShutdown : Statement .thermalShutdown := none_word rfl

theorem firmwareRestart : Statement .firmwareRestart := none_word rfl

theorem powerOn : Statement .powerOn := none_word rfl

end Sys2Proof.Laws.Opcode
end

