-- ==== Sys2Proof/Tests/Slice0.lean ====
section
/-! SUPPORT. Tests: terms that the checks refuse, words written out from the spec's encodings, one-step results worked by hand from the
spec, and for every statement with hypotheses a state and operands that meet them. -/

namespace Sys2Proof.Tests

open Sys2Proof.Machine

set_option Elab.async false

/-! The states the tests use. Gang 0 stands at slot 1 of packet 0 of code object 1, alone in block 0 of system context 1; objects 2 and 3
hold one residency tile of data each, at physical addresses 0x40000 and 0x50000, object 3 in the recovery domain. -/

/-- Records 1, 2 and 3 of the object table at 0x10000 (R184, R186): one residency tile each; object 1 is executed, objects 2 and 3 read,
written and used atomically, object 3 in the recovery domain. -/
def recordCells : List Host.Cell :=
  [(0x10081, 0x40), (0x10083, 0x20), (0x1008A, 1), (0x1008C, 1), (0x10090, 1), (0x10094, 1), (0x100BA, 2), (0x100C4, 1),
    (0x10101, 0xB0), (0x10103, 0x20), (0x1010A, 1), (0x1010C, 1), (0x10110, 1), (0x10114, 1), (0x10138, 8), (0x1013A, 2), (0x10144, 1),
    (0x10181, 0xB0), (0x10182, 1), (0x10183, 0x20), (0x1018A, 1), (0x1018C, 1), (0x10190, 1), (0x10194, 1), (0x101B8, 0x10), (0x101BA, 2),
    (0x101C4, 1)]

/-- Their tile-map entries, all sub-tiles present in frames 3, 4 and 5 (R189). -/
def entryCells : List Host.Cell :=
  [(0x20000, 0xFF), (0x20001, 0xFF), (0x20002, 3), (0x20007, 1), (0x20008, 0xFF), (0x20009, 0xFF), (0x2000A, 4), (0x2000F, 1),
    (0x20010, 0xFF), (0x20011, 0xFF), (0x20012, 5), (0x20017, 1)]

/-- The data of object 2: at 0 a launch block of 32 lanes that waits for one more EXIT (R288); at 0x100 a trap log whose handler table, at
0x140, names slot 1 of packet 0 for version 0 (R294, R370); at 0x400 a Harp table of one state on single digits of one bit (R308, R309); at
0x800 the control-store slots 0 (IADD v108, v108, v109), 1 (empty) and 2 (25 instructions, R307); at 0xC00 a version table of two entries,
the second valid,
both of the map at 0x1400: safe point 7 at slot 1 of packet 0, with one value in v5, draining KC0 (R297 to R300). -/
def dataCells : List Host.Cell :=
  [(0x40000, 0x1F), (0x40006, 0x4C), (0x40007, 0x4B), (0x40008, 4), (0x4000C, 0x10), (0x4000E, 0x80), (0x4000F, 0xFF), (0x40010, 1),
    (0x40018, 8), (0x40019, 8), (0x40120, 0x40), (0x40121, 1), (0x40124, 0x20), (0x40126, 0x80), (0x40127, 0xFF), (0x40140, 4),
    (0x40400, 0x20), (0x40406, 0x48), (0x40407, 0x4B), (0x40408, 2), (0x40441, 6), (0x40442, 0x20), (0x40443, 6),
    (0x40800, 1), (0x40820, 0xB4), (0x40821, 0xD9), (0x40822, 0x6C), (0x40900, 25), (0x40C00, 2), (0x40C06, 0x56), (0x40C07, 0x4B),
    (0x40C49, 0x14), (0x40C4C, 0x20), (0x40C4E, 0x80), (0x40C4F, 0xFF), (0x40C50, 0x70), (0x40C51, 0x70),
    (0x40C84, 0x10), (0x40C86, 0x80), (0x40C87, 0xFF), (0x40C89, 0x14), (0x40C8C, 0x20), (0x40C8E, 0x80), (0x40C8F, 0xFF),
    (0x40C90, 0x70), (0x40C91, 0x70), (0x40CA0, 1),
    (0x41400, 1), (0x41406, 0x4D), (0x41407, 0x4B), (0x41440, 0x80), (0x41446, 0x70), (0x41480, 4), (0x41486, 0x70), (0x41488, 1), (0x41490, 0x10),
    (0x414A0, 5), (0x414A6, 1)]

/-- Descriptors of Harp tables of one state of class 2 on digits of one bit, of one operand and of two (R308). -/
def harpUnary : List W64 := [word (0x4B48 * 2 ^ 48 + 0x20), 2, 0, 0]

def harpBinary : List W64 := [word (0x4B48 * 2 ^ 48), 2, 0, 0]

/-- CU 0, whose caches hold the records and entries of objects 2 and 3 (R184). -/
def warmCu : Cu :=
  let record := fun (flags tmap : Nat) => [word (2 ^ 29 + flags), word (2 ^ 32 + 65536), word (2 ^ 32 + 1), 0, 0, 0, 0, word tmap,
    word (2 ^ 32), 0, 0, 0, 0, 0, 0, 0]
  { Cu.reset with
    orc := [(1, 2, record 0xB000 0x20008), (1, 3, record 0x1B000 0x20010)]
    ttc := [(1, 2, 0, word (2 ^ 56 + 4 * 2 ^ 16 + 65535)), (1, 3, 0, word (2 ^ 56 + 5 * 2 ^ 16 + 65535))] }

/-- The loaded machine with objects 2 and 3 and a trap log. -/
def world : State :=
  { (State.reset.withFetchWord 32 0).onCtx 1 fun c => { c with tlog := ownPtr 2 + 0x100, cstore := ownPtr 2 + 0x800 } with
    mem := recordCells ++ entryCells ++ dataCells
    cus := [(0, warmCu)] }

theorem test_world_caches : ∀ o ∈ [2, 3], recordOf world 0 1 ⟨1, true, 0, 0, 0, 0, 0, 0, 0x10000, 64, 0, [], 0, 0, [], 0, [], 0, false, none⟩ o =
    recordOf { world with cus := [] } 0 1 ⟨1, true, 0, 0, 0, 0, 0, 0, 0x10000, 64, 0, [], 0, 0, [], 0, [], 0, false, none⟩ o := by
  decide +kernel

theorem test_world_canonical : Memory.wf world.mem = true := by decide

/-- What an answer holds. -/
def held? {ε α : Type} : Except ε α → Option α
  | .ok x => some x
  | .error _ => none

theorem ok_iff {ε α : Type} (x : Except ε α) (y : α) : x = .ok y ↔ held? x = some y := by
  cases x <;> simp [held?]

/-- The loaded gang under a MODE. -/
def gangIn (mode : W32) : Gang := { loadedGang with mode := mode }

/-- 64-bit integers under guard 31. -/
def gInt : Gang := gangIn 0x1F

/-- Packed bytes under guard 31. -/
def gByte : Gang := gangIn 0xDF

/-- FP32 under guard 31. -/
def gFloat : Gang := gangIn 0xC5F

/-- Codebook elements under guard 31. -/
def gBook : Gang := gangIn 0x341F

/-- Why there is none. -/
def missed? {ε α : Type} : Except ε α → Option ε
  | .ok _ => none
  | .error m => some m

theorem fault_iff {ε α : Type} (x : Except ε α) (m : ε) : x = .error m ↔ missed? x = some m := by
  cases x <;> simp [missed?]

/-- 64-bit integers, lane 0 alone active, s0 = a pointer, s1 and s2 values. -/
def gOne (a b c : W64) : Gang := { gangIn 0 with p := [(0, 1)], sreg := [(0, ⟨a, .full⟩), (1, ⟨b, .full⟩), (2, ⟨c, .full⟩)] }

/-- The issue of an instruction by some lanes. -/
def issueOf (m : Mask) (i : Instr) : Issue := ⟨0, m, ownPtr 1 + 4, 0, (encode i).getD 0⟩

/-- Gang 0 is g and issues i. -/
def placeBy (m : Mask) (s : State) (g : Gang) (i : Instr) : State := { s with cur := some (issueOf m i), gangs := [(0, g)] }

/-- What i finds there. -/
def envBy (m : Mask) (g : Gang) (i : Instr) : Env := ⟨0, issueOf m i, g, 16, true⟩

/-- All lanes of gang g issue i. -/
def onWorld (g : Gang) (i : Instr) : State := placeBy allLanes world g i

/-- What i finds there. -/
def envAt (g : Gang) (i : Instr) : Env := envBy allLanes g i

theorem envOf_onWorld (g : Gang) (i : Instr) (hb : g.block = 0) (hc : g.ctx = 1) : envOf (onWorld g i) = some (envAt g i) := by
  have h1 : tilesFor (onWorld g i) g = 16 := by simp only [tilesFor, hb]; rfl
  have h2 : systemContext (onWorld g i) g = true := by simp only [systemContext, hc]; rfl
  have h3 : envOf (onWorld g i) = some ⟨0, issueOf allLanes i, g, tilesFor (onWorld g i) g, systemContext (onWorld g i) g⟩ := rfl
  rw [h3, h1, h2]; rfl

/-- Every instruction of a list issues for gang g. -/
theorem issue_all {g : Gang} {is : List Instr} (hb : g.block = 0) (hc : g.ctx = 1)
    (h : (is.all fun i => verdict (envAt g i) (operands (envAt g i) i) == .go) = true) :
    ∀ i ∈ is, Issues i (onWorld g i) (envAt g i) := fun i hi =>
  ⟨envOf_onWorld g i hb hc, by simpa using List.all_eq_true.mp h i hi⟩


/-! Words written out bit by bit from the encodings of the spec (R57, R60, the opcode table), fields apart, one for each instruction. -/

/-- The decoder reads each word as the instruction beside it. -/
def readsAs (ws : List (BitVec 32 × Sys2Proof.Instr)) : Bool := ws.all fun x => match Sys2Proof.decode x.1 with
  | .ok i => decide (i = x.2)
  | .error _ => false

theorem test_words_integer1 : readsAs [
    (0b000000000_0100001_1110111_0100000_00#32, .iadd 33 119 32),
    (0b000000001_0000100_0001101_0001110_00#32, .isub 4 13 14),
    (0b000000010_1110011_0110000_0101100_00#32, .iadds 115 48 44),
    (0b000000011_1111010_1010100_0000100_00#32, .isubs 122 84 4),
    (0b000000100_1010110_0011010_0010110_00#32, .imul 86 26 22),
    (0b000000101_1111111_0001010_0111000_00#32, .imulh 127 10 56),
    (0b000000110_1110001_1010100_1111100_00#32, .imac 113 84 124),
    (0b000000111_0010011_1110000_0101000_00#32, .idiv 19 112 40),
    (0b000001000_0001101_1111110_0010111_00#32, .irem 13 126 23),
    (0b000001001_1111101_1011100_0010100_00#32, .imin 125 92 20),
    (0b000001010_0011010_1110111_0000100_00#32, .imax 26 119 4),
    (0b000001011_0110100_0001101_000000000#32, .iabs 52 13),
    (0b000001100_1111111_0111100_000000000#32, .ineg 127 60),
    (0b000001101_1110111_1111000_1110011_00#32, .and 119 120 115),
    (0b000001110_1111011_1111101_1111110_00#32, .or 123 125 126),
    (0b000001111_0100100_0101100_1001000_00#32, .xor 36 44 72),
    (0b000010000_0101101_1100100_1101000_00#32, .andn 45 100 104),
    (0b000010001_1110010_1110011_000000000#32, .not 114 115),
    (0b000010010_0100100_0001011_0010000_00#32, .shl 36 11 16),
    (0b000010011_1110000_0011000_0011111_00#32, .shr 112 24 31)] = true := by decide +kernel

theorem test_words_integer2 : readsAs [
    (0b000010100_1110000_0100000_0001111_00#32, .sar 112 32 15),
    (0b000010101_1100000_1101101_1000100_00#32, .rotl 96 109 68),
    (0b000010110_0000111_1011101_0000101_01#32, .bfx 7 93 5 1),
    (0b000010111_0010111_0011100_1010100_00#32, .bfi 23 28 84),
    (0b000011000_1110000_0100001_000000000#32, .popc 112 33),
    (0b000011001_0101101_1110110_000000000#32, .clz 45 118),
    (0b000011010_0010111_0110111_000000000#32, .ctz 23 55),
    (0b000011011_1110000_0101000_000000000#32, .brev 112 40),
    (0b000011100_1111111_0010100_1011110_00#32, .bytep 127 20 94),
    (0b000011101_1101011_0100100_0001111_11#32, .sel 107 36 15 3),
    (0b000011110_1111001_1110100_000000000#32, .mov 121 116),
    (0b000011111_1110001_0000101_0010000_10#32, .lea 113 5 16 2)] = true := by decide +kernel

theorem test_words_immediate : readsAs [
    (0b000100000_00_00101_1110100_0101101_11#32, .icmp 5 116 45 3),
    (0b000100001_0010011_0100111011001001#32, .iaddi 19 20169),
    (0b000100010_1001100_1111110011000110#32, .movi 76 64710),
    (0b000100011_0010100_1000000000001001#32, .movk0 20 32777),
    (0b000100100_1111001_0100110101111101#32, .movk1 121 19837),
    (0b000100101_1110001_0000000010011001#32, .movk2 113 153),
    (0b000100110_0111100_0000111100110110#32, .movk3 60 3894),
    (0b000100111_00_10011_1001000_0010110_01#32, .icmpi 19 72 22 1),
    (0b000101000_0000110_1101000001010101#32, .andi 6 53333),
    (0b000101001_0010000_1111010110001010#32, .ori 16 62858),
    (0b000101010_0010100_0011001111111010#32, .xori 20 13306),
    (0b000101011_1110101_0011010_000_100100#32, .shli 117 26 36),
    (0b000101100_1110000_0001100_000_001111#32, .shri 112 12 15),
    (0b000101101_0100100_1110000_000_101100#32, .sari 36 112 44),
    (0b000101110_0000010_1110011001010110#32, .imuli 2 58966),
    (0b000101111_1001110_1110111_0001110_01#32, .dot4 78 119 14 1)] = true := by decide +kernel

theorem test_words_lanes : readsAs [
    (0b001000000_10011_01101_11111_10110010#32, .plop 19 13 31 178),
    (0b001000001_1001100_0001010_0000000_01#32, .p2v 76 10 1),
    (0b001000010_0010011_0001010_0000000_01#32, .v2p 19 10 1),
    (0b001000011_0011101_0010001_0000000_10#32, .vote 29 17 2),
    (0b001000100_0000000_0111011001011011#32, .setmode 30299),
    (0b001000101_0000000000000000000_1001#32, .setmodeh 9),
    (0b001000110_1110011_0000000000000000#32, .getmode 115),
    (0b001000111_0101011_1111101_0001111_01#32, .xl 43 125 15 1),
    (0b001001000_0010110_0101000_0110111_11#32, .xli 22 40 55 3),
    (0b001001001_0010100_0010111_0_01_10_11_00#32, .qx 20 23 1 2 3 0),
    (0b001001010_1111110_0011111_000000_010#32, .gred 126 31 2),
    (0b001001011_0100001_1010100_00000_1_100#32, .gscan 33 84 1 4),
    (0b001001100_1100110_1110110_0100100_01#32, .pack 102 118 36 1),
    (0b001001101_1100110_0001110_0000000_11#32, .unpack 102 14 3),
    (0b001001110_1110010_0000000_000011000#32, .specr 114 24)] = true := by decide +kernel

theorem test_words_float : readsAs [
    (0b010000000_1110110_1111011_1101010_00#32, .fadd 118 123 106),
    (0b010000001_0011100_0011000_0001011_00#32, .fsub 28 24 11),
    (0b010000010_0001000_0001100_1110001_00#32, .fmul 8 12 113),
    (0b010000011_0001011_0010001_1000010_00#32, .fma 11 17 66),
    (0b010000100_0010000_1001100_1100000_00#32, .fms 16 76 96),
    (0b010000101_1110110_0111000_1111101_00#32, .fnma 118 56 125),
    (0b010000110_0101001_0011000_1000100_00#32, .fmin 41 24 68),
    (0b010000111_0001000_0110011_0110000_00#32, .fmax 8 51 48),
    (0b010001000_0111010_1100010_000000000#32, .fabs 58 98),
    (0b010001001_1100111_1111111_000000000#32, .fneg 103 127),
    (0b010001010_00_01101_0010000_0011100_11#32, .fcmp 13 16 28 3),
    (0b010001011_1111111_0001101_000000000#32, .fclass 127 13),
    (0b010001100_0010011_0001100_1111110_00#32, .fdiv 19 12 126),
    (0b010001101_0111001_1011101_000000000#32, .fsqrt 57 93),
    (0b010001110_0101101_1110101_1110111_00#32, .fscale 45 117 119),
    (0b010001111_0100111_0011000_000000000#32, .rnd 39 24)] = true := by decide +kernel

theorem test_words_convert : readsAs [
    (0b011000000_0001100_1101001_000000000#32, .frcp 12 105),
    (0b011000001_0011001_1000101_000000000#32, .frsq 25 69),
    (0b011000010_1011000_0100100_000000000#32, .fexp2 88 36),
    (0b011000011_1110000_0000101_000000000#32, .flog2 112 5),
    (0b011000100_0001101_1011111_000000000#32, .fsinpi 13 95),
    (0b011000101_1111000_1010100_000000000#32, .fcospi 120 84),
    (0b011000110_0001010_1101101_000000000#32, .ftanh 10 109),
    (0b011000111_1110001_0001000_1_0011_1111#32, .cvt 113 8 1 3 15),
    (0b011001000_1011100_1011110_1011000_10#32, .cvtg 92 94 88 2),
    (0b011001001_1011011_1111001_0000000_10#32, .cbenc 91 121 2),
    (0b011001010_0111100_0001000_0000000_01#32, .cbdec 60 8 1)] = true := by decide +kernel

theorem test_words_control : readsAs [
    (0b100000000_01011_1_01001110011011011#32, .bra 11 1 40155),
    (0b100000001_0000000_1110101_0000000_01#32, .jmpi 117 1),
    (0b100000010_001000_10111000111110111#32, .call 8 94711),
    (0b100000011_0000000_0011101_000_101010#32, .calli 29 42),
    (0b100000100_00000000000000000000000#32, .ret),
    (0b100000101_0000100_0111010_00000000_1#32, .meet 4 58 1),
    (0b100000110_0000101_0000000000000000#32, .join 5),
    (0b100000111_00000000000000000000000#32, .yield),
    (0b100001000_10_1100_01100110010011101#32, .yieldw 2 12 52381),
    (0b100001001_0000000_0010101_000000_010#32, .exit 21 2),
    (0b100001010_0000000_0000000001100000#32, .give 96),
    (0b100001011_0000000_0000000001011000#32, .claim 88),
    (0b100001100_00000000000000_000100001#32, .trap 33),
    (0b100001101_000000000000000000000_01#32, .rtt 1),
    (0b100001110_0000000000000000000000_1#32, .tmask 1),
    (0b100001111_00000000000000000000000#32, .halt),
    (0b100010000_00000000000000000000000#32, .nop)] = true := by decide +kernel

theorem test_words_memory1 : readsAs [
    (0b101000000_0010011_0001000_100_001_011#32, .ld 19 8 4 1 3),
    (0b101000001_0010110_0100001_100_001_010#32, .st 22 33 4 1 2),
    (0b101000010_0001101_0011100_000_010_100#32, .lds 13 28 0 2 4),
    (0b101000011_0001000_1110111_001_011_100#32, .sts 8 119 1 3 4),
    (0b101000100_1000101_0010010_0011001_01#32, .ldc 69 18 25 1),
    (0b101000101_0000110_0100111_0101000_01#32, .stc 6 39 40 1),
    (0b101000110_0000000_1010000_100_000000#32, .pref 80 4),
    (0b101000111_1110101_0100000_1000100_00#32, .acp 117 32 68),
    (0b101001000_1110100_1110101_0001011_01#32, .acps 116 117 11 1),
    (0b101001001_1110001_1110010_1110100_01#32, .acpt 113 114 116 1),
    (0b101001010_0011000_1010000_0101_010_11#32, .atom 24 80 5 2 3),
    (0b101001011_0001111_1001010_0110_001_11#32, .atoms 15 74 6 1 3),
    (0b101001100_0011100_0001011_1001_100_10#32, .red 28 11 9 4 2),
    (0b101001101_0100101_0010110_1001_100_10#32, .redc 37 22 9 4 2),
    (0b101001110_0010101_1111110_1_0_11_11000#32, .bar 21 126 1 3 24),
    (0b101001111_1101111_0001011_1_0_10_10100#32, .bara 111 11 1 2 20),
    (0b101010000_0010100_1110000_00_11_10000#32, .barw 20 112 3 16),
    (0b101010001_0010011_1101000_1_0_10_00100#32, .cbar 19 104 1 2 4),
    (0b101010010_0000000000000000_10_01_101#32, .fence 2 1 5),
    (0b101010011_0000000_0010001_0001110_00#32, .flush 17 14 0)] = true := by decide +kernel

theorem test_words_memory2 : readsAs [
    (0b101010100_0000000_1111010_0000000_11#32, .ckpt 122 3)] = true := by decide +kernel

theorem test_words_progress : readsAs [
    (0b110000000_10_1111_00000000000000000#32, .waitc 2 15),
    (0b110000001_0000111_00000000000000_01#32, .cntrd 7 1),
    (0b110000010_1110111_1111100000101100#32, .bbc 119 63532),
    (0b110000011_0001100_0110001_0110100_00#32, .redset 12 49 52 0),
    (0b110000100_1100000_1000101_0000000_01#32, .redpoll 96 69 1),
    (0b110000101_0110111_0000000_000000110#32, .perfrd 55 6),
    (0b110000110_0000000_1111111_00000000_0#32, .sample 127 0)] = true := by decide +kernel

theorem test_words_matrix : readsAs [
    (0b111000000_1101_10110_01000_0000001_00#32, .mma 13 22 8 1),
    (0b111000001_1011_10111_00011_1001000_10#32, .mmas 11 23 3 72 2),
    (0b111000010_1100_01101_11000_1111100_10#32, .mmaq 12 13 24 124 2),
    (0b111000011_1100_01110_01101_0100010_01#32, .mmaqs 12 14 13 34 1),
    (0b111000100_1000_00000000000000000_10#32, .accz 8 2),
    (0b111000101_1011_00010_000000000000_01#32, .accrd 11 2 1),
    (0b111000110_1011_11010_000000000000_01#32, .accwr 11 26 1),
    (0b111000111_0100_10011_000000000000_01#32, .accsc 4 19 1),
    (0b111001000_1100_01111_000000000000_11#32, .accmax 12 15 3),
    (0b111001001_1010_10011_000000000000_10#32, .accsum 10 19 2),
    (0b111001010_0010_0000000000_1110001_01#32, .accst 2 113 1),
    (0b111001011_1010_0000000000_1110000_01#32, .accld 10 112 1),
    (0b111001100_1101000_1011100_000000000#32, .mtr 104 92)] = true := by decide +kernel

theorem test_words_system : readsAs [
    (0b111100000_00000000000_110101001000#32, .safept 3400),
    (0b111100001_0000000_0000000_0_01101001#32, .xfer 0 0 105),
    (0b111100010_0001111_0000000000000000#32, .xferq 15),
    (0b111100011_0011000_00000000_01010100#32, .mcall 24 84),
    (0b111100100_0001001_1110111_0_11001010#32, .mstore 9 119 202),
    (0b111100101_0010100_0110011_0000000_11#32, .dtload 20 51 3),
    (0b111100110_0000000_1010110_00000_10_01#32, .dtset 86 2 1),
    (0b111100111_0100000_0101001_0010100_10#32, .dadd 32 41 20 2),
    (0b111101000_1001000_1110111_0001110_10#32, .dsub 72 119 14 2),
    (0b111101001_0010000_0110111_1001110_10#32, .dcmp 16 55 78 2),
    (0b111101010_0010000_0011101_0000000_11#32, .dconv 16 29 3),
    (0b111101011_0111110_00000000000000_10#32, .dstate 62 2),
    (0b111101100_0000000_0010100_0000000_10#32, .cbload 20 2),
    (0b111101101_0001010_0000000000000_11_1#32, .cbrd 10 3 1),
    (0b111110000_1110111_0000000_110100111#32, .sysrd 119 423),
    (0b111110001_0000000_1111010_101111001#32, .syswr 122 377),
    (0b111110010_0000000_0101010_000000000#32, .tlog 42)] = true := by decide +kernel

/-! The words that the worked examples of the spec give, against their assembly. -/

theorem test_spec_words1 : readsAs [
    (0x27000000#32, .specr 0 0),
    (0x2772000F#32, .specr 114 15),
    (0x82810000#32, .meet 1 0 0),
    (0xA900000C#32, .fence 0 1 4),
    (0xA0870603#32, .st 7 3 0 0 3),
    (0xA088049B#32, .st 8 2 2 3 3),
    (0xA0060493#32, .ld 6 2 2 2 3),
    (0xA0090603#32, .ld 9 3 0 0 3),
    (0xC0200000#32, .waitc 1 0),
    (0xA9000028#32, .fence 1 1 0),
    (0xF0000007#32, .safept 7),
    (0xF0800001#32, .xfer 0 0 1),
    (0xF080E700#32, .xfer 115 1 0),
    (0xF1720000#32, .xferq 114),
    (0xF1940003#32, .mcall 20 3),
    (0xF203EC03#32, .mstore 3 118 3),
    (0xF281E802#32, .dtload 1 116 2),
    (0xF3000000#32, .dtset 0 0 0),
    (0xF3830208#32, .dadd 3 1 2 0),
    (0xF4840209#32, .dcmp 4 1 2 1)] = true := by decide +kernel

theorem test_spec_words2 : readsAs [
    (0xF5040601#32, .dconv 4 3 1),
    (0xF5850000#32, .dstate 5 0),
    (0xF600E802#32, .cbload 116 2),
    (0xF6860005#32, .cbrd 6 2 1),
    (0xC0020000#32, .waitc 0 1),
    (0xC0F30000#32, .cntrd 115 0),
    (0xC1F4E5CC#32, .redset 116 114 115 0),
    (0xC2060401#32, .redpoll 6 2 1),
    (0xC1770012#32, .bbc 119 18),
    (0xC2F20001#32, .perfrd 114 1),
    (0xC300EA00#32, .sample 117 0),
    (0xC3000001#32, .sample 0 1),
    (0xA5050448#32, .atom 5 2 2 2 0),
    (0x86800000#32, .rtt 0),
    (0x86800001#32, .rtt 1),
    (0xE50001C0#32, .accst 0 112 0),
    (0xA71F0060#32, .bar 31 0 0 3 0),
    (0x85000008#32, .give 8),
    (0x61060000#32, .fexp2 6 0),
    (0x638F0C21#32, .cvt 15 6 0 2 1)] = true := by decide +kernel

theorem test_spec_words3 : readsAs [
    (0xA4FCE9F8#32, .acpt 124 116 126 0),
    (0x81100003#32, .call 8 3),
    (0xE2888000#32, .accrd 1 2 0),
    (0xA9800220#32, .flush 1 8 0),
    (0x20930600#32, .p2v 19 3 0),
    (0x8010002A#32, .bra 4 0 0x2A),
    (0x807DFFC7#32, .bra 31 0 0x1FFC7),
    (0xA08C3D0A#32, .st 12 30 4 1 2),
    (0x8600002E#32, .trap 0x2E),
    (0xE000C9E0#32, .mma 0 3 4 120),
    (0xA11E0602#32, .lds 30 3 0 0 2),
    (0xAA00FE00#32, .ckpt 127 0),
    (0x01030208#32, .iadds 3 1 2),
    (0x220000DF#32, .setmode 0xDF),
    (0x10020816#32, .icmp 2 4 5 2),
    (0x63820241#32, .cvt 2 1 0 4 1),
    (0x64060816#32, .cvtg 6 4 5 2),
    (0xE0000230#32, .mma 0 0 1 12)] = true := by decide +kernel

/-! Ill-formed terms, one for each check of the syntax (R54, R56, R58), each refused by the name of its check. -/

/-- Each instruction is refused for the reason beside it. -/
def refusedFor (is : List (Sys2Proof.Instr × String)) : Bool := is.all fun x => decide (Sys2Proof.firstFault x.1 = some x.2)

theorem test_refuses1 : refusedFor [
    (.icmp 27 127 2 3, "predicate d"),
    (.icmpi 30 1 2 3, "predicate d"),
    (.fcmp 26 3 0 2, "predicate d"),
    (.bfx 65 1 0 2, "x of BFX"),
    (.plop 24 31 0 255, "predicate pd"),
    (.plop 31 25 3 8, "predicate pa"),
    (.plop 12 31 24 0, "predicate pb"),
    (.v2p 81 20 0, "predicate d"),
    (.v2p 1 2 3, "x of V2P"),
    (.v2p 3 1 2, "d zero"),
    (.vote 127 92 3, "predicate a"),
    (.vote 35 3 3, "predicate d"),
    (.xl 127 3 1 3, "v destination"),
    (.xl 0 127 119 2, "x of XL"),
    (.xli 127 127 124 0, "v destination"),
    (.qx 127 41 1 1 1 3, "v destination"),
    (.gred 0 1 7, "op of GRED"),
    (.gscan 127 0 1 1, "v destination"),
    (.gscan 8 1 1 7, "op of GSCAN"),
    (.pack 127 127 2 3, "v destination"),
    (.pack 0 127 4 2, "x of PACK"),
    (.unpack 127 2 0, "v destination")] = true := by decide +kernel

theorem test_refuses2 : refusedFor [
    (.specr 3 511, "kind of SPECR"),
    (.specr 127 0, "per-lane kind"),
    (.cbenc 2 3 3, "x of CBENC"),
    (.cbdec 3 127 3, "x of CBDEC"),
    (.bra 30 0 77988, "predicate p"),
    (.jmpi 0 3, "x of JMPI"),
    (.call 0 1, "slide of CALL"),
    (.calli 3 0, "slide of CALLI"),
    (.meet 44 4 0, "cb of MEET"),
    (.meet 1 85 0, "a zero"),
    (.join 127, "cb of JOIN"),
    (.exit 56 7, "count of EXIT"),
    (.exit 57 0, "a zero"),
    (.give 12078, "rows of GIVE"),
    (.claim 65535, "rows of CLAIM"),
    (.rtt 3, "x of RTT"),
    (.ld 127 1 2 0 3, "ord and sc of LD"),
    (.ld 0 127 2 1 7, "w of LD"),
    (.ld 127 3 2 1 0, "v destination"),
    (.st 127 0 7 1 0, "ord and sc of ST"),
    (.st 8 0 1 3 7, "w of ST"),
    (.st 127 2 0 1 4, "pair of ST")] = true := by decide +kernel

theorem test_refuses3 : refusedFor [
    (.lds 60 3 2 4 0, "ord and sc of LDS"),
    (.lds 0 8 0 1 7, "w of LDS"),
    (.lds 127 123 0 1 0, "v destination"),
    (.sts 4 23 2 2 4, "ord and sc of STS"),
    (.sts 0 2 1 1 7, "w of STS"),
    (.ldc 127 1 127 3, "v destination"),
    (.ldc 89 3 2 2, "x of LDC"),
    (.ldc 1 0 127 0, "pair b"),
    (.stc 2 127 127 3, "x of STC"),
    (.stc 3 1 127 0, "pair b"),
    (.pref 30 7, "sc of PREF"),
    (.acps 1 85 2 3, "x of ACPS"),
    (.acpt 12 3 16 2, "s operands of ACPT"),
    (.atom 127 1 3 7 3, "v destination"),
    (.atom 1 41 11 2 0, "aop of ATOM"),
    (.atom 12 1 2 7 2, "sc of ATOM"),
    (.atoms 127 1 0 1 3, "v destination"),
    (.atoms 16 0 12 2 2, "aop of ATOMS"),
    (.atoms 3 3 0 3 2, "sc of ATOMS"),
    (.red 1 0 12 2 1, "aop of RED"),
    (.red 3 24 0 7 0, "sc of RED"),
    (.red 2 127 2 1 1, "ord of RED")] = true := by decide +kernel

theorem test_refuses4 : refusedFor [
    (.redc 2 127 1 0 1, "aop of REDC"),
    (.redc 0 3 2 6 1, "sc of REDC"),
    (.redc 2 16 0 1 1, "ord of REDC"),
    (.bar 24 3 0 0 4, "predicate d"),
    (.bar 2 35 0 2 3, "a zero"),
    (.bara 127 3 0 0 31, "a zero"),
    (.barw 90 2 3 20, "predicate d"),
    (.cbar 127 2 1 2 0, "predicate d"),
    (.cbar 0 2 0 2 2, "a zero"),
    (.cbar 2 63 1 0 12, "bar of CBAR"),
    (.fence 0 3 2, "kind of FENCE"),
    (.fence 0 1 7, "sc of FENCE"),
    (.flush 3 3 2, "x of FLUSH"),
    (.flush 2 2 1, "a and b zero"),
    (.bbc 0 28891, "s operand of BBC"),
    (.redset 9 123 1 3, "x of REDSET"),
    (.redset 3 14 1 1, "d and b zero"),
    (.redpoll 119 0 0, "v destination"),
    (.redpoll 16 55 2, "x of REDPOLL"),
    (.perfrd 24 20, "number of PERFRD"),
    (.sample 1 1, "a zero"),
    (.mma 15 3 31 0, "a4 and b4")] = true := by decide +kernel

theorem test_refuses5 : refusedFor [
    (.mma 13 21 3 127, "bundle f"),
    (.mmas 0 31 7 70 3, "a4 and b4"),
    (.mmas 15 3 24 127 0, "bundle f"),
    (.mmaq 3 1 3 2 0, "acc of MMAQ"),
    (.mmaq 0 1 31 0 3, "a4 and b4"),
    (.mmaq 4 1 3 127 0, "bundle f"),
    (.mmaqs 15 20 31 3 0, "acc of MMAQS"),
    (.mmaqs 4 31 2 29 3, "a4 and b4"),
    (.mmaqs 0 0 4 127 0, "bundle f"),
    (.accz 1 3, "sel of ACCZ"),
    (.accz 15 2, "acc of ACCZ"),
    (.accrd 0 30 0, "a4"),
    (.accwr 3 31 0, "a4"),
    (.accsc 0 31 0, "a4"),
    (.accsc 10 1 3, "sel of ACCSC"),
    (.accsc 15 1 1, "acc of ACCSC"),
    (.accmax 0 31 2, "a4"),
    (.accmax 1 3 1, "acc of ACCMAX"),
    (.accsum 12 31 3, "a4"),
    (.accsum 1 1 3, "acc of ACCSUM"),
    (.accst 8 4 1, "s operand f"),
    (.accst 4 127 3, "sel of ACCST")] = true := by decide +kernel

theorem test_refuses6 : refusedFor [
    (.accld 0 1 3, "s operand f"),
    (.accld 2 127 3, "sel of ACCLD"),
    (.mtr 127 127, "group d"),
    (.mtr 4 3, "group a"),
    (.xfer 62 0 2, "a zero"),
    (.xfer 82 1 255, "version zero"),
    (.mcall 127 255, "parameters of MCALL"),
    (.mstore 55 1 0, "predicate d"),
    (.dtload 127 8 0, "predicate d"),
    (.dtset 3 3 1, "op of DTSET"),
    (.dtset 3 1 2, "a zero"),
    (.dadd 127 3 0 0, "v destination"),
    (.dsub 127 3 9 0, "v destination"),
    (.dcmp 86 122 127 1, "predicates of DCMP"),
    (.dconv 127 1 0, "v destination"),
    (.dstate 127 1, "v destination"),
    (.cbload 16 3, "x of CBLOAD"),
    (.sysrd 0 511, "s destination"),
    (.syswr 0 511, "s operand a"),
    (.unassignedOpcode 2, "unassigned opcode"),
    (.sts 111 0 0 0 4, "pair of STS"),
    (.acpt 113 114 116 2, "x of ACPT")] = true := by decide +kernel

/-! One step each of the spec's worked examples, its results in hand. -/

/-- Register v of lane 31 after a step of the loaded gang, all of whose lanes hold three values in v1, v2 and v3 under a MODE. -/
def after (mode : W32) (harp : List (Nat × HarpTable)) (a b c : W64) (i : Sys2Proof.Instr) (r : Nat) : Option W64 :=
  let v := laneNumbers.map (fun l => (32 + l, (⟨a, .full⟩ : Reg))) ++ laneNumbers.map (fun l => (64 + l, ⟨b, .full⟩)) ++
    laneNumbers.map fun l => (96 + l, ⟨c, .full⟩)
  match exec i (placeBy allLanes (world.onBlock 0 fun x => { x with harp := harp }) { gangIn mode with v := v } i) with
  | .next t => (t.gang? 0).map fun g => match g.pending.getLast? with
    | some p => (find p.vs (32 * r + 31)).getD 0
    | none => g.read r 31
  | _ => none

/-- A saturating byte add (after R92). -/
theorem test_byte_add_wraps : after 0xDF [] 0x7F800102FF007F10 0x0180FF0201000110 0 (.iadd 4 1 2) 4 = some 0x8000000400008020 := by
  decide +kernel

theorem test_byte_add_clamps_signed : after 0xDF [] 0x7F800102FF007F10 0x0180FF0201000110 0 (.iadds 3 1 2) 3 = some 0x7F80000400007F20 := by
  decide +kernel

theorem test_byte_add_clamps_unsigned : after 0x2DF [] 0x7F800102FF007F10 0x0180FF0201000110 0 (.iadds 5 1 2) 5 = some 0x80FFFF04FF008020 := by
  decide +kernel

/-- Byte reversal (after R99). -/
theorem test_bytep_reverses : after 0x1F [] 0x0102030405060708 0x01234567 0 (.bytep 4 1 2) 4 = some 0x0807060504030201 := by decide +kernel

/-- FP32 to E4M3 (R42, after R126). -/
theorem test_cvt_narrows : after 0x1F [] 0x000000003F9C0000 0 0 (.cvt 2 1 0 4 1) 2 = some 0x3A := by decide +kernel

/-- Two FP32 values quantised to INT4 of scale 0.25 and zero point −1 (after R127): 2 and −8 in four bits each. -/
theorem test_cvtg_quantises : after 0xC5F [] 0xBFE000003F200000 0xFF3400 0 (.cvtg 6 1 2 2) 6 = some 0x82 := by decide +kernel

/-- The negabinary adder: 3 + 5 = 8 (after R311). -/
def negabinary : HarpTable := ⟨[0x4B48000000000080, 0x110, 0, 0], [(0, 0x600), (1, 0x620), (2, 0x620), (3, 0x602), (4, 0x620), (5, 0x602),
  (6, 0x602), (7, 0x622), (8, 0x621), (9, 0x600), (10, 0x600), (11, 0x620)], true⟩

theorem test_negabinary_adds : after 0x1F [(0, negabinary)] 7 5 0 (.dadd 3 1 2 0) 3 = some 0x18 := by decide +kernel

/-- The four-state AND (after R311). -/
def fourState : HarpTable := ⟨[0x4B48000000000001, 0, 0, 0], (List.range 16).zip
  [0x600, 0x600, 0x600, 0x600, 0x600, 0x620, 0x640, 0x640, 0x600, 0x640, 0x640, 0x640, 0x600, 0x640, 0x640, 0x640], true⟩

theorem test_four_state_and : after 0x1F [(1, fourState)] 0xE5 0x91 0 (.dadd 3 1 2 1) 3 = some 0xA1 := by decide +kernel

/-- The stack and the home die of the address of the example after R212. -/
theorem test_home_die : stackOf 0x2A31639A = 0 ∧ homeDie 0x2A31639A = 0 := by decide
/-! Hypotheses met. -/

theorem met_integer : ∀ i ∈ [.iadd 0 1 127, .isub 0 1 2, .imul 0 1 2, .imac 0 1 2, .iabs 0 1, .ineg 111 1, .iaddi 0 0x8000,
      .imuli 0 0xFFFF, .iadds 0 1 2, .isubs 0 1 2, .imulh 0 1 2, .imin 0 1 2, .imax 0 1 2, .idiv 0 1 2, .irem 0 1 2,
      .shl 0 1 2, .shr 0 1 2, .sar 0 1 2, .rotl 0 1 2, .shli 0 1 63, .shri 0 1 0, .sari 0 1 63, .popc 0 1, .clz 0 1,
      .ctz 0 1, .brev 0 1], Issues i (onWorld gByte i) (envAt gByte i) := issue_all rfl rfl (by decide +kernel)

theorem met_wholeRegister : ∀ i ∈ [.and 0 1 2, .or 0 1 2, .xor 0 1 2, .andn 0 1 2, .not 0 1, .mov 0 112, .andi 0 1, .ori 0 1, .xori 0 1,
      .bfx 0 1 2 1, .bfi 0 1 2, .bytep 0 1 2, .sel 0 1 2 31, .lea 0 1 2 15, .movi 0 0x8000, .movk0 0 1, .movk1 0 1, .movk2 0 1,
      .movk3 0 1, .dot4 0 1 2 3, .icmp 0 1 2 3, .icmpi 23 1 0x100 2], Issues i (onWorld gInt i) (envAt gInt i) :=
  issue_all rfl rfl (by decide +kernel)

theorem met_predicates : ∀ i ∈ [.plop 31 0 23 0xE8, .p2v 0 5 0, .p2v 0 5 1, .p2v 0 0 2, .v2p 0 1 0, .v2p 0 1 1, .v2p 0 1 2, .vote 0 5 0,
      .vote 0 5 1, .vote 0 5 2, .vote 0 5 3, .setmode 0, .setmodeh 15, .getmode 127], Issues i (onWorld gInt i) (envAt gInt i) :=
  issue_all rfl rfl (by decide +kernel)

theorem met_float : ∀ i ∈ [.fadd 0 1 2, .fsub 0 1 2, .fmul 0 1 2, .fma 0 1 2, .fms 0 1 2, .fnma 0 1 2, .fdiv 0 1 2, .fsqrt 0 1,
      .fscale 0 1 2, .rnd 0 1, .fmin 0 1 2, .fmax 0 1 2, .fabs 0 1, .fneg 0 1, .fclass 0 1, .fcmp 0 1 2 3, .cvt 0 1 1 2 3,
      .cvtg 0 1 2 3, .frcp 0 1, .frsq 0 1, .fexp2 0 1, .flog2 0 1, .fsinpi 0 1, .fcospi 0 1, .ftanh 0 1],
    Issues i (onWorld gFloat i) (envAt gFloat i) := issue_all rfl rfl (by decide +kernel)

theorem met_books : ∀ i ∈ [.cbenc 0 1 2, .cbdec 0 1 2], Issues i (onWorld gBook i) (envAt gBook i) := issue_all rfl rfl (by decide +kernel)

theorem met_exactFloat : (0 < 1 ∧ 0 < 2) ∧ (3 ≠ 0 ∧ (Val.inf true).isNan = false ∧ (Val.fin true 0 1).isNan = false) := by decide

theorem met_rounding : 0 < 1 ∧ 0 < 3 ∧ 0 < roundMag .fp32 0 false 1 3 := by decide +kernel

theorem met_specialValues : sourceVal false .fp32 0x7FC00000 = .nan ∧ sourceVal true .bf16 0xFF80 = .inf true ∧
    sourceVal true .bf16 0x8001 = .fin true 0 1 ∧ sourceVal false .fp32 0xBF800000 = .fin true 8388608 8388608 ∧
    sourceVal false .fp32 0x3F800000 = .fin false 8388608 8388608 ∧ 0x3F800000 ≠ 0 ∧ 0x3F800000 < Format.maxBits .fp32 ∧
    (specialElem .rcp .fp32 false true 0x3F800000).1 = signed .fp32 false 0x3F800000 := by decide +kernel

theorem met_lanes : ∀ i ∈ [.xl 0 1 2 0, .xl 0 1 2 1, .xli 0 1 127 0, .xli 0 1 127 1, .xli 0 1 127 2, .xli 0 1 127 3, .qx 0 1 3 2 1 0,
      .gred 127 1 5, .gscan 0 1 1 0, .gscan 0 1 0 5, .pack 0 1 2 0, .pack 0 1 2 1, .unpack 0 1 0, .unpack 0 1 1, .unpack 0 1 2,
      .unpack 0 1 3, .specr 0 0, .specr 0 20, .specr 120 28], Issues i (onWorld gByte i) (envAt gByte i) :=
  issue_all rfl rfl (by decide +kernel)

theorem met_branches :
    (Issues (.bra 31 0 5) (onWorld gInt (.bra 31 0 5)) (envAt gInt (.bra 31 0 5)) ∧
      CopiesAgree (envAt gInt (.bra 31 0 5)) allLanes fun _ => (0 : W64)) ∧
    (let g := { gInt with gstat := 8, p := [(0, 0x55555555)] }
     let e := envAt g (.bra 0 0 5)
     Issues (.bra 0 0 5) (onWorld g (.bra 0 0 5)) e ∧ ¬CopiesAgree e e.strand fun l =>
       if lane (e.g.pred (0 : BitVec 5).toNat) l != ((0 : BitVec 1) == 1) then target e.iss.pc (5 : BitVec 17).toNat
       else nextSlot e.iss.pc) ∧
    (let g := gOne (ownPtr 1 + 8) 0 0
     Issues (.jmpi 112 0) (onWorld g (.jmpi 112 0)) (envAt g (.jmpi 112 0)) ∧
       ∀ l < 32, goodTarget (onWorld g (.jmpi 112 0)) (g.pcOf l) ((envAt g (.jmpi 112 0)).rd 112 l) = true) ∧
    (Issues (.jmpi 0 0) (onWorld gInt (.jmpi 0 0)) (envAt gInt (.jmpi 0 0)) ∧
      goodTarget (onWorld gInt (.jmpi 0 0)) (gInt.pcOf 31) ((envAt gInt (.jmpi 0 0)).rd 0 31) = false) ∧
    (let g := { gInt with gstat := 8, v := [(1, ⟨4, .full⟩)] }
     Issues (.jmpi 0 0) (onWorld g (.jmpi 0 0)) (envAt g (.jmpi 0 0)) ∧
       ¬CopiesAgree (envAt g (.jmpi 0 0)) (envAt g (.jmpi 0 0)).strand (jmpiTarget (envAt g (.jmpi 0 0)) 0 0)) ∧
    Issues (.jmpi 112 1) (onWorld (gOne (-4) 0 0) (.jmpi 112 1)) (envAt (gOne (-4) 0 0) (.jmpi 112 1)) := by
  unfold Issues CopiesAgree
  refine ⟨?_, ?_, ?_, ?_, ?_, ?_⟩ <;> decide +kernel

/-- A call by one row out of the rows held, and a return by two rows back into a row that was spilled. -/
def gCall : Gang := { gInt with spill := ownPtr 2, sreg := [(0, ⟨ownPtr 1 + 8, .full⟩)] }

def gRet : Gang := { gInt with
  wb := 2, lrow := 1, spill := ownPtr 2, v := laneNumbers.map fun l => (32 + l, ⟨word (2 * 2 ^ 58 + 8), .full⟩) }

/-- The places of the first spilled row. -/
def rowPlaces (k : Nat) : List Place := (List.range 264).map fun j => .phys (k + j)

theorem met_calls : ∀ i ∈ [.call 1 5, .calli 112 1], Issues i (onWorld gCall i) (envAt gCall i) ∧
      (envAt gCall i).strand = gCall.liveLanes ∧ (envAt gCall i).strand ≠ 0 ∧ 0 < (1 : BitVec 6).toNat ∧
      gCall.wb + gCall.wsize ≤ gCall.lrow + gCall.nrows ∧ gCall.wb + 1 + gCall.wsize ≤ 65536 ∧ gCall.lrow ≤ gCall.wb ∧
      gCall.wsize ≤ gCall.nrows ∧ gCall.lrow + gCall.nrows < gCall.wb + 1 + gCall.wsize ∧
      spillPlaces (envAt gCall i) (onWorld gCall i) .write (rowRange 0 1) = .ok [rowPlaces 0x40000] ∧
      rising (onWorld gCall i).dies = true ∧ (rowPlaces 0x40000).Nodup ∧ ((rowPlaces 0x40000).all fun p => match p with
        | .phys k => inHbm k
        | _ => false) = true ∧
      (∀ l < 32, (envAt gCall i).rd 112 l = ownPtr 1 + 8) ∧
      goodTarget (onWorld gCall i) (envAt gCall i).iss.pc (ownPtr 1 + 8) = true := by
  intro i hi
  refine ⟨issue_all (is := [.call 1 5, .calli 112 1]) rfl rfl (by decide +kernel) i hi, ?_⟩
  revert i hi
  simp only [ok_iff]; decide +kernel

/-- The link row, spilled, and a return by one row. -/
def gBack : Gang := { gInt with wb := 2, lrow := 2, spill := ownPtr 3 }

def linkBytes : List Byte := (List.replicate 32 [8, 0, 0, 0, 0, 0, 0, 4]).flatten ++ List.replicate 8 0

/-- Link words in the second row of the spill object. -/
def spilled : State :=
  { world with mem := world.mem ++ laneNumbers.flatMap fun l => [(0x50108 + 8 * l, 8), (0x50108 + 8 * l + 7, 4)] }

theorem met_returns :
    (let e := envAt gRet .ret
     Issues .ret (onWorld gRet .ret) e ∧ gRet.wb ≠ 0 ∧ e.strand = gRet.liveLanes ∧ e.strand ≠ 0 ∧
     spilledRows e (onWorld gRet .ret) (if gRet.wb - 1 < gRet.lrow then [gRet.wb - 1] else []) = .ok [] ∧
     (∀ l < 32, lane e.strand l = true → (linkReg gRet [] l).isEmpty = false ∧ fld (linkReg gRet [] l).read 63 58 = 2 ∧
       fld (linkReg gRet [] l).read 57 36 = 0 ∧ goodPc (word (fld (linkReg gRet [] l).read 35 0)) = true) ∧
     (∃ bs, bs.length = 264 ∧ spilledRows e (onWorld gRet .ret) (rowRange 0 1) = .ok [(0, bs)]) ∧
     CopiesAgree e e.strand (fun l => withOff (gRet.pcOf l) (fld (linkReg gRet [] l).read 35 0))) ∧
    (let e := envAt gBack .ret
     let s := placeBy allLanes spilled gBack .ret
     Issues .ret s e ∧ gBack.wb ≠ 0 ∧ e.strand = gBack.liveLanes ∧ e.strand ≠ 0 ∧
     spilledRows e s (if gBack.wb - 1 < gBack.lrow then [gBack.wb - 1] else []) = .ok [(1, linkBytes)] ∧
     (∀ l < 32, lane e.strand l = true → (linkReg gBack [(1, linkBytes)] l).isEmpty = false ∧
       fld (linkReg gBack [(1, linkBytes)] l).read 63 58 = 1 ∧
       fld (linkReg gBack [(1, linkBytes)] l).read 57 36 = 0 ∧
       goodPc (word (fld (linkReg gBack [(1, linkBytes)] l).read 35 0)) = true) ∧
     spilledRows e s (rowRange 1 2) = .ok [(1, linkBytes)] ∧
     CopiesAgree e e.strand (fun l => withOff (gBack.pcOf l) (fld (linkReg gBack [(1, linkBytes)] l).read 35 0))) := by
  refine ⟨?_, ?_⟩
  · simp only [ok_iff, Issues, CopiesAgree]
    refine ⟨by decide +kernel, by decide, by decide, by decide, by decide +kernel, by decide +kernel,
      ⟨List.replicate 264 0 |>.mapIdx fun j _ => byteNow world (.phys (0x40000 + j)), by decide +kernel, by decide +kernel⟩, by decide⟩
  · simp only [ok_iff, Issues, CopiesAgree]
    refine ⟨by decide +kernel, by decide, by decide, by decide, by decide +kernel, by decide +kernel, by decide +kernel, by decide⟩

theorem met_conv : (∀ i ∈ [.ret, .call 1 5, .calli 0 1], let e := envBy 1 gRet i
      Issues i (placeBy 1 world gRet i) e ∧ gRet.wb ≠ 0 ∧ gRet.c16 = false ∧ e.strand ≠ gRet.liveLanes) ∧
    (let g := { gRet with gstat := 16, pc := setAt 0 gRet.pc 31 (ownPtr 1 + 8) }
     let e := envBy 0xFFFF g .ret
     envOf (placeBy 0xFFFF world g .ret) = some e ∧ g.c16 = true ∧
       (lane g.liveLanes 31 = true ∧ g.pcOf 31 ≠ e.iss.pc) ∧ e.strand ≠ g.liveLanes) := by
  unfold Issues; decide +kernel

/-- Lane 31 has gone on past the JOIN at which the others stand. -/
def gSplit : Gang := { gInt with cb := [(1, 0x80000001)], pc := setAt 0 gInt.pc 31 (ownPtr 1 + 8) }

theorem met_convergence : (∀ i ∈ [.meet 15 0 0, .meet 1 112 1, .join 1, .yield, .yieldw 3 0 5, .yieldw 0 8191 5],
      Issues i (onWorld gSplit i) (envAt gSplit i)) ∧
    (∀ l < 32, lane (getAt 0 gInt.cb 1) l = true → gInt.pcOf l = ownPtr 1 + 4) ∧
    (lane (getAt 0 gSplit.cb 1) 31 = true ∧ lane gSplit.liveLanes 31 = true ∧ gSplit.pcOf 31 ≠ ownPtr 1 + 4) ∧
    (getAt 0 gInt.kc 3).toNat ≤ 0 ∧ ¬(getAt 0 [(3, (1 : BitVec 16))] 3).toNat ≤ 0 := by
  refine ⟨issue_all rfl rfl (by decide +kernel), ?_⟩
  decide

/-- Nothing of the gang's stands in the way of an EXIT (R153). -/
abbrev NothingLeft (s : State) (g : Gang) : Prop :=
  (∀ k < 4, g.kcOf k = 0) ∧ g.remotes = [] ∧ g.accesses = [] ∧ shownTo s g = [] ∧ g.xferPend = false ∧
    (s.cu g.cuKey).bbc = [] ∧ bbcOwed (writeOutBbc s 0) 0 g.cuKey = false

/-- The launch block of object 2 waiting for two EXITs, and naming slot 0 of a packet. -/
def blockCell (k : Nat) (b : Byte) : State := { world with mem := world.mem.map fun c => if c.1 = k then (k, b) else c }

theorem met_exit :
    (let g := gOne (ownPtr 2) 0 0
     let e := envAt g (.exit 0 0)
     Issues (.exit 0 0) (onWorld g (.exit 0 0)) e ∧ e.active ≠ 0 ∧ g.killed = false ∧
       g.liveLanes &&& ~~~e.active &&& ~~~g.helpers ≠ 0 ∧ NothingLeft (onWorld g (.exit 0 0)) g) ∧
    (let g := gOne (ownPtr 2) 0 0
     let s := { onWorld g (.exit 0 0) with
       cus := [(0, { Cu.reset with bbc := [(0, ownPtr 2, 1)] })]
       mem := world.mem.filter fun c => c.1 != 0x2000F }
     Issues (.exit 0 0) s (envAt g (.exit 0 0)) ∧ bbcOwed (writeOutBbc s 0) 0 g.cuKey = true) ∧
    (let g := { gInt with sreg := [(0, ⟨ownPtr 2, .full⟩)] }
     let e := envAt g (.exit 112 1)
     (e.active = g.liveLanes ∧ lane e.active 0 = true ∧ lane g.helpers 0 = false ∧ (∀ l < 32, e.rd 112 l = ownPtr 2)) ∧
     ∀ c ∈ [(world, 1, true), (blockCell 0x40010 2, 2, true), (blockCell 0x40008 0, 1, false)],
       let s := placeBy allLanes c.1 g (.exit 112 1)
       Issues (.exit 112 1) s e ∧ NothingLeft s g ∧ isRemote s (ownPtr 2) = false ∧ fld (ownPtr 2) 35 0 % 128 = 0 ∧
       translate s g.cuKey g.ctx (ownPtr 2) .atomic false true 128 = .ok ((List.range 128).map fun i => .phys (0x40000 + i)) ∧
       bytesNat (coherentBytes s (0x40000 + 16) 4) = c.2.1 ∧
       (c.2.1 = 1 → (s.cu g.cuKey).tasks.length < 64 ∧
         taskFault (blockWords (performBytes s g.die (some g.cuKey) ((List.range 4).map fun i => (.phys (0x40000 + 16 + i), 0)))
           ((List.range 128).map fun i => .phys (0x40000 + i))) 1 = none) ∧
       goodPc (word (fld (lbEntry (blockWords s ((List.range 128).map fun i => .phys (0x40000 + i)))) 3 0)) = c.2.2) := by
  simp only [ok_iff, Issues, NothingLeft]
  refine ⟨by decide +kernel, by decide +kernel, by decide, by decide +kernel⟩

/-- A gang with 16 rows below its greatest window, and a block whose pool has them. -/
def gRows : Gang := { gInt with nrows := 96, wsize := 96 }

def pooled : State := world.onBlock 0 fun b => { b with pool := [(0, 16)] }

theorem met_rows : (Issues (.give 88) (onWorld gRows (.give 88)) (envAt gRows (.give 88))) ∧
    (let s := placeBy allLanes pooled gRows (.claim 16)
     Issues (.claim 16) s (envAt gRows (.claim 16)) ∧ (∃ b, s.block? 0 = some b ∧ waitingClaims s b 0 = []) ∧ poolHas s gRows 16 = true) ∧
    Issues (.claim 8) (onWorld gRows (.claim 8)) (envAt gRows (.claim 8)) ∧ poolHas (onWorld gRows (.claim 8)) gRows 8 = false := by
  refine ⟨issue_all (is := [.give 88]) rfl rfl (by decide +kernel) _ (by simp), ⟨⟨by decide +kernel, by decide +kernel⟩,
    ⟨_, rfl, by decide +kernel⟩, by decide +kernel⟩, issue_all (is := [.claim 8]) rfl rfl (by decide +kernel) _ (by simp), by decide +kernel⟩

/-- Context 1 without a trap log. -/
def unhandled : State := world.onCtx 1 fun c => { c with tlog := ownPtr 5 }

theorem met_traps : (∀ i ∈ [.trap 0xFFFF, .unassignedOpcode 0x18000000, .rtt 0, .rtt 1, .tmask 1, .halt, .nop],
      Issues i (onWorld gInt i) (envAt gInt i)) ∧
    (gInt.tmask.getLsbD 0 = false ∧ ({ gInt with tmask := 1 } : Gang).tmask.getLsbD 0 = true) ∧ gInt.killed = false ∧
    handlerOf (onWorld gInt .nop) gInt = some 4 ∧ handlerOf (placeBy allLanes unhandled gInt .nop) gInt = none := by
  refine ⟨issue_all rfl rfl (by decide +kernel), ?_⟩
  decide +kernel

theorem tidy_of {s : State} (hm : Memory.wf s.mem = true ∧ Memory.wf s.hostMem = true) (hd : s.dies = []) (hg : rising s.gangs = true)
    (hc : rising s.cus = true) : Tidy s := by
  refine ⟨hm, ?_, hg, hc, ?_, ?_, ?_⟩ <;> simp [hd, rising]

theorem sameAccess_of {e : Env} {acc : Nat → Access} (h : e.g.prot = false) : SameAccess e acc := fun h' => by simp [h] at h'

/-- Places in the one residency tile of object 2, or in scratchpad. -/
def bytesFrom (n a : Nat) : List Place := (List.range n).map fun j => .phys (a + j)

def spadFrom (n o : Nat) : List Place := (List.range n).map fun j => .spad 0 (o + j)

/-- Lane 0 active, s0 naming byte 0x1000 of object 2. -/
def gMem : Gang := gOne (ownPtr 2 + 0x1000) 0x103 0

/-- Lane 0 active, s0 the offset of the last 16 bytes of scratchpad. -/
def gSpad : Gang := gOne 65520 65528 0

/-- Elements of 16 bytes in object 2 (R186). -/
def wideWorld : State := { world with
  cus := [(0, { warmCu with orc := warmCu.orc.map fun x => (x.1, x.2.1, (word (4 * 2 ^ 24) + x.2.2.getD 0 0) :: word (2 ^ 32 + 4096) :: x.2.2.drop 2) })] }

/-- The record of object 2 is under rebuild. -/
def mending : State := { world with rebuilds := [⟨1, 2, none, 0x10100⟩] }

/-- What a load needs of the state, and of the registers it fills. -/
abbrev LoadReady (s : State) (e : Env) (i : Sys2Proof.Instr) (n : Nat) (acc : Nat → Access) (ps : List Place) : Prop :=
  Issues i s e ∧ Quiet s e ∧ performers e = [0] ∧ 8 * (n - 1) < ps.length ∧ ps.length ≤ 8 * n ∧ Reaches s e acc fun _ => ps

theorem met_loads :
    (let i : Instr := .ld 0 112 0 0 4
     LoadReady (onWorld gMem i) (envAt gMem i) i 2 (loadAccess false 0 112 0 0 4 (envAt gMem i) 0) (bytesFrom 16 0x41000)) ∧
    (let i : Instr := .ld 111 112 4 2 3
     LoadReady (onWorld gMem i) (envAt gMem i) i 1 (loadAccess false 111 112 4 2 3 (envAt gMem i) 0) (bytesFrom 8 0x41000)) ∧
    (let i : Instr := .lds 0 112 0 0 4
     LoadReady (onWorld gSpad i) (envAt gSpad i) i 2 (loadAccess true 0 112 0 0 4 (envAt gSpad i) 0) (spadFrom 16 65520)) ∧
    (let i : Instr := .ldc 0 112 113 1
     elemHeld (onWorld gMem i) (envAt gMem i) 112 = false ∧ wideElem (onWorld gMem i) (envAt gMem i) 112 = false ∧
       laneElem (onWorld gMem i) (envAt gMem i) 112 0 = 1 ∧
       LoadReady (onWorld gMem i) (envAt gMem i) i 1 (ldcAccess (onWorld gMem i) 0 112 113 1 (envAt gMem i) 0) [.phys 0x40103]) ∧
    (let i : Instr := .ldc 110 112 113 1
     let s := placeBy allLanes wideWorld gMem i
     elemHeld s (envAt gMem i) 112 = false ∧ wideElem s (envAt gMem i) 112 = true ∧ pairMissing (envAt gMem i) 110 = false ∧
       laneElem s (envAt gMem i) 112 0 = 16 ∧
       LoadReady s (envAt gMem i) i 2 (ldcAccess s 110 112 113 1 (envAt gMem i) 0) (bytesFrom 16 0x41030)) ∧
    (let i : Instr := .ldc 111 112 113 1
     let s := placeBy allLanes wideWorld gMem i
     Issues i s (envAt gMem i) ∧ elemHeld s (envAt gMem i) 112 = false ∧ wideElem s (envAt gMem i) 112 = true ∧
       pairMissing (envAt gMem i) 111 = true) ∧
    (let i : Instr := .ldc 111 112 113 1
     let s := placeBy allLanes mending gMem i
     Issues i s (envAt gMem i) ∧ Quiet s (envAt gMem i) ∧ elemHeld s (envAt gMem i) 112 = true) := by
  simp only [LoadReady, Issues, Quiet, Reaches, ok_iff]; and_intros <;> decide +kernel

/-- Lane 0 active, s0 naming byte 0x1000 of object 3, in the recovery domain. -/
def gRcv : Gang := gOne (ownPtr 3 + 0x1000) 0 0

/-- What a store or an atomic needs. -/
abbrev StoreReady (s : State) (e : Env) (i : Sys2Proof.Instr) (acc : Nat → Access) (ps : List Place) : Prop :=
  Issues i s e ∧ Quiet s e ∧ performers e = [0] ∧ SameAccess e acc ∧ Reaches s e acc fun _ => ps

theorem met_stores :
    (let i : Instr := .st 110 112 0 0 4
     StoreReady (onWorld gMem i) (envAt gMem i) i (storeAccess false 110 112 0 0 4 (envAt gMem i) 0) (bytesFrom 16 0x41000)) ∧
    (let i : Instr := .sts 0 113 1 3 3
     StoreReady (onWorld gSpad i) (envAt gSpad i) i (storeAccess true 0 113 1 3 3 (envAt gSpad i) 0) (spadFrom 8 65528)) ∧
    (let i : Instr := .stc 0 112 113 1
     let s := placeBy allLanes wideWorld gMem i
     elemHeld s (envAt gMem i) 112 = false ∧ wideElem s (envAt gMem i) 112 = true ∧ pairMissing (envAt gMem i) 0 = false ∧
       (∀ l < 32, (gMem.reg 0 l).isEmpty = false ∧ (gMem.reg 1 l).isEmpty = false) ∧
       StoreReady s (envAt gMem i) i (stcAccess true 0 112 113 1 (envAt gMem i) 0) (bytesFrom 16 0x41030)) ∧
    (let i : Instr := .st 0 112 5 3 3
     StoreReady (onWorld gRcv i) (envAt gRcv i) i (storeAccess false 0 112 5 3 3 (envAt gRcv i) 0) (bytesFrom 8 0x51000)) := by
  simp only [StoreReady, Issues, Quiet, Reaches, ok_iff]; and_intros <;> first | exact sameAccess_of rfl | decide +kernel

theorem met_units :
    (let a := storeAccess false 110 112 2 1 4 (envAt gMem (.st 110 112 2 1 4)) 0 0
     a.kind = .store ∧ a.strong = true ∧ (bytesFrom 16 0x41000).length = 16 ∧ Place.zero ∉ bytesFrom 16 0x41000 ∧
       ∀ p ∈ bytesFrom 16 0x41000, p.isRemote = false) ∧
    (let a := storeAccess false 110 112 0 0 3 (envAt gMem (.st 110 112 0 0 3)) 0 0
     a.kind = .store ∧ a.strong = false ∧ (bytesFrom 8 0x41000).length ≤ 8 ∧
       ∀ j < 4, (bytesFrom 8 0x41000)[4 + j]? = some (.phys (0x41004 + j))) := by decide

theorem met_atomics :
    (let i : Instr := .atom 0 112 1 4 3
     StoreReady (onWorld gMem i) (envAt gMem i) i (atomAccess .atom false [0] 0 112 1 4 3 (envAt gMem i) 0) (bytesFrom 8 0x41000)) ∧
    (let i : Instr := .atoms 0 113 0 1 3
     StoreReady (onWorld gSpad i) (envAt gSpad i) i (atomAccess .atom true [0] 0 113 0 1 3 (envAt gSpad i) 0) (spadFrom 8 65528)) ∧
    bytesFrom 8 0x41000 ≠ [] ∧ spadFrom 8 65528 ≠ [] := by
  simp only [StoreReady, Issues, Quiet, Reaches, ok_iff]; and_intros <;> first | exact sameAccess_of rfl | decide +kernel

theorem met_reductions :
    (let i : Instr := .red 0 112 9 0 2
     StoreReady (onWorld gMem i) (envAt gMem i) i (atomAccess .red false [] 0 112 9 0 2 (envAt gMem i) 0) (bytesFrom 8 0x41000)) ∧
    (let i : Instr := .redc 0 112 0 2 0
     StoreReady (onWorld gMem i) (envAt gMem i) i (atomAccess .redc false [] 0 112 0 2 0 (envAt gMem i) 0) (bytesFrom 8 0x41000)) ∧
    gMem.contribs = [] := by
  simp only [StoreReady, Issues, Quiet, Reaches, ok_iff]; and_intros <;> first | exact sameAccess_of rfl | decide +kernel

/-- Source and destination of copies: s0 in object 2, s1 in object 3, s2 one byte less than 64 KiB, or a scratchpad offset. -/
def gCopy : Gang := gOne (ownPtr 2) (ownPtr 3) 65535

def gBox : Gang := { gOne (ownPtr 2) 0 0 with sreg := [(0, ⟨ownPtr 2, .full⟩), (1, ⟨word (63 * 2 ^ 32 + 65472), .full⟩)] }

/-- Every lane of the gang is a helper (R17). -/
def gHelp : Gang := { gInt with special := { gInt.special with blanes := 0 } }

theorem met_copies :
    (∀ i ∈ [.pref 112 4, .acp 113 112 114], Issues i (onWorld gCopy i) (envAt gCopy i)) ∧
    (let e := envAt gCopy (.acp 113 112 114)
     Quiet (onWorld gCopy (.acp 113 112 114)) e ∧
       performers e = [0] ∧ gCopy.prot = false ∧
       copyCheck (onWorld gCopy (.acp 113 112 114)) gCopy ⟨0, e.rd 113 0, false, e.rd 112 0, false, 0, fld (e.rd 114 0) 15 0 + 1⟩ = []) ∧
    (let g := gOne (ownPtr 2 + 0x1000) 65532 3
     let e := envAt g (.acps 113 112 114 0)
     Issues (.acps 113 112 114 0) (onWorld g (.acps 113 112 114 0)) e ∧ Quiet (onWorld g (.acps 113 112 114 0)) e ∧
       performers e = [0] ∧ g.prot = false ∧
       copyCheck (onWorld g (.acps 113 112 114 0)) g ⟨0, e.rd 113 0, true, e.rd 112 0, false, 0, 4⟩ = []) ∧
    (let i : Instr := .acpt 113 112 114 0
     Quiet (onWorld gHelp i) (envAt gHelp i) ∧ Issues i (onWorld gHelp i) (envAt gHelp i) ∧
       fld ((envAt gHelp i).once 113) 63 56 = 0 ∧ (envAt gHelp i).strand &&& ~~~gHelp.helpers = 0) ∧
    (let i : Instr := .acpt 113 112 114 0
     let g := gOne (ownPtr 2) (word (2 ^ 63)) 0
     Issues i (onWorld g i) (envAt g i) ∧ fld ((envAt g i).once 113) 63 56 ≠ 0) ∧
    (let i : Instr := .acpt 113 112 114 0
     let e := envAt gBox i
     let s := onWorld gBox i
     let box : CopyBox := ⟨ownPtr 2, e.once 113, 0, 0, false, 1⟩
     Issues i s e ∧ Quiet s e ∧ fld (e.once 113) 63 56 = 0 ∧ e.strand &&& ~~~gBox.helpers ≠ 0 ∧ isRemote s (e.once 112) = false ∧ box.bytes = 64 ∧
       (∃ r, findRecord s 0 1 511 2 = .ok r ∧ r.esize = 1) ∧
       issueMisses [(word 65472, spadPlaces s gBox 65472 64), (ownPtr 2, box.places s gBox [0]), (ownPtr 2, box.places s gBox [63])] = []) := by
  refine ⟨issue_all rfl rfl (by decide +kernel), ?_⟩
  simp only [Issues, Quiet, ok_iff]
  refine ⟨by decide +kernel, by decide +kernel, by decide +kernel, by decide +kernel, by decide +kernel, by decide +kernel, by decide +kernel,
    by decide +kernel, by decide +kernel, by decide +kernel, ⟨_, rfl, by decide +kernel⟩, by decide +kernel⟩

/-- Block 0 of two gangs, in a cluster of its own. -/
def paired : State := { world with
  blocks := [(0, { loadedBlock with gangs := [0, 1], bars := [(0, barWord true false 2 1)] })] }

theorem met_barriers :
    (∀ i ∈ [.bar 31 0 0 0 31, .bar 23 112 1 0 0, .cbar 0 0 0 0 31, .bara 0 0 0 0 31, .barw 0 112 0 31],
      Issues i (onWorld gInt i) (envAt gInt i) ∧ Quiet (onWorld gInt i) (envAt gInt i) ∧ (envAt gInt i).strand = gInt.liveLanes ∧
      0 ∈ barGangs (onWorld gInt i) false 0 ∧ 0 ∈ barGangs (onWorld gInt i) true 0 ∧ gInt.counts = true ∧
      (find (onWorld gInt i).clusters (clusterOf (onWorld gInt i) 0)).isSome = true ∧ ((onWorld gInt i).block? 0).isSome = true ∧
      hasArrived gInt false 31 = false ∧ hasArrived gInt true 31 = false) ∧
    (∀ l < 32, gInt.parkOf l = .ready) ∧ (barPhase 0 = ((0 : W64)).getLsbD 0) ∧
    (let v := barGet (placeBy allLanes paired gInt (.bar 0 0 0 0 0)) false 0 0
     barPhase v = true ∧ barExp v ≤ barArr v + 1 ∧ barArr v ≠ 0) ∧
    (let s := placeBy allLanes { paired with gangs := [(0, gInt), (1, gInt)] } gInt (.bar 0 0 0 0 1)
     countOf { s with gangs := [(0, gInt), (1, gInt)] } (barGangs s false 0) = 2) := by
  simp only [Issues, Quiet]; and_intros <;> decide +kernel

theorem met_fences :
    (∀ i ∈ [.fence 0 0 0, .fence 3 2 5, .flush 112 113 0, .flush 0 0 1], Issues i (onWorld gMem i) (envAt gMem i)) ∧
    (gMem.remotes = [] ∧ gMem.accesses = [] ∧ shownTo (onWorld gMem (.fence 3 2 5)) gMem = []) ∧
    (∀ i ∈ [.fence 0 0 0, .fence 3 2 5], (match exec i (onWorld gMem i) with
      | .next t => t.cur.isSome && (t.gang? 0).isSome
      | _ => false) = true) ∧
    (let i : Instr := .flush 112 113 0
     Quiet (onWorld gMem i) (envAt gMem i) ∧ Tidy (onWorld gMem i) ∧
       (∀ l < 32, invalidObject (onWorld gMem i) gMem.cuKey gMem.ctx ((envAt gMem i).rd 112 l) = none) ∧
       (∃ ks, rangeKeys (onWorld gMem i) gMem.cuKey gMem.ctx (ownPtr 2 + 0x1000) 0x103 = some ks)) ∧
    (let e := envBy 1 gMem (.flush 112 113 0)
     e.strand = oneLane 0 ∧ isRemote world (e.rd 112 0) = false ∧ fld (e.rd 113 0) 31 0 ≠ 0) := by
  refine ⟨issue_all rfl rfl (by decide +kernel), by decide, by decide +kernel, ?_, by decide +kernel⟩
  dsimp only
  refine ⟨by simp only [Quiet]; decide +kernel, tidy_of (by decide +kernel) rfl rfl rfl, by decide +kernel, ⟨_, rfl⟩⟩

/-- A checkpoint into object 3, generation 7. -/
def gCkpt : Gang := gOne (word (3 * 2 ^ 32 + 7)) 0 0

theorem met_ckpt :
    let i : Instr := .ckpt 112 3
    let e := envAt gCkpt i
    let s := settleFor (onWorld gCkpt i) 0 fun x => x.toRind e.strand
    Issues i (onWorld gCkpt i) e ∧ (∀ y ∈ (e.renew s).g.accesses, y.toRind e.strand = false) ∧ (e.renew s).g.checkpoint = none ∧
      ckptMiss s (e.renew s) 3 = none ∧ readTable (readOnce (e.renew s) s) 3 = .ok (0, []) ∧
      translateFrom s gCkpt.cuKey gCkpt.ctx (ownPtr 3) .write (imageSize s gCkpt.cuKey gCkpt.ctx 3 - 256) 256 =
        .ok (bytesFrom 256 (0x60000 - 256)) := by
  simp only [Issues, ok_iff]; and_intros <;> decide +kernel

/-- Lane 0 active, s0 a variable in object 2, s1 a ready flag, s2 the contributions. -/
def gCount : Gang := gOne (ownPtr 2 + 0x1000) (ownPtr 2 + 0x2000) 3

theorem met_counters :
    (∀ i ∈ [.waitc 3 0, .waitc 0 15, .cntrd 127 3, .bbc 112 1, .redset 114 112 113 0, .redset 0 112 0 1, .redpoll 0 112 1, .perfrd 0 0,
        .perfrd 0 11, .perfrd 0 32, .perfrd 0 41, .sample 0 1, .sample 112 0], Issues i (onWorld gCount i) (envAt gCount i)) ∧
    (∀ i ∈ [.bbc 112 1, .redset 114 112 113 0], Issues i (onWorld gHelp i) (envAt gHelp i) ∧ (envAt gHelp i).strand &&& ~~~gHelp.helpers = 0) ∧
    (gCount.kcOf 3 ≤ 0 ∧ ¬({ gCount with kc := [(3, 1)] } : Gang).kcOf 3 ≤ 0) ∧
    (let e := envAt gCount (.bbc 112 1)
     let s := onWorld gCount (.bbc 112 1)
     e.strand &&& ~~~gCount.helpers ≠ 0 ∧ Quiet s e ∧ e.sys = true ∧ rising s.dies = true ∧
       translate s gCount.cuKey gCount.ctx (withOff (e.once 112) (fld (e.once 112) 35 0 + 8)) .atomic false true 8 = .ok (bytesFrom 8 0x41008) ∧
       fld (withOff (e.once 112) (fld (e.once 112) 35 0 + 8)) 35 0 % 8 = 0 ∧
       (bytesFrom 8 0x41008).any (placePoisoned s) = false ∧ (s.cu gCount.cuKey).bbc = [] ∧
       translate s gCount.cuKey gCount.ctx (e.once 112) .read false false 1 = .ok [.phys 0x41000] ∧
       lineBase s gCount.cuKey gCount.ctx (e.once 112) = some 0x41000 ∧
       fld (e.once 113) 35 0 % 8 = 0 ∧
       translate s gCount.cuKey gCount.ctx (e.once 113) .write false true 8 = .ok (bytesFrom 8 0x42000) ∧
       (s.die (homeDie 0x41000)).counters.length < 2 ^ 21 ∧ fld (e.once 112) 35 0 % 64 = 0 ∧
       translate s gCount.cuKey gCount.ctx (e.once 112) .write false false 64 = .ok (bytesFrom 64 0x41000)) ∧
    Reaches (onWorld gCount (.redpoll 0 112 1)) (envAt gCount (.redpoll 0 112 1)) (pollAccess 0 112 1 (envAt gCount (.redpoll 0 112 1)) 0)
      (fun _ => [.phys 0x41000]) := by
  refine ⟨issue_all rfl rfl (by decide +kernel), fun i hi => ⟨issue_all (g := gHelp) (is := [.bbc 112 1, .redset 114 112 113 0]) rfl rfl
    (by decide +kernel) i hi, by revert i hi; decide +kernel⟩, by decide +kernel, ?_⟩
  simp only [Quiet, Reaches, ok_iff]; and_intros <;> decide +kernel

/-- A gang with all lanes active whose s0 is a format word, s3 sparsity metadata, and s4 the offset of the last 4 KiB of scratchpad. -/
def gMat (fmt : W64) : Gang := { gFloat with
  sreg := [(0, ⟨fmt, .full⟩), (3, ⟨0x4444444444444444, .full⟩), (4, ⟨61440, .full⟩)] }

theorem met_matrixQueue :
    (∀ i ∈ [.mma 15 0 27 112, .mmas 0 0 1 112 0, .mmas 0 0 1 112 3, .accz 15 0, .accz 12 2, .accrd 0 27 3, .accwr 0 1 0, .accsc 14 0 1,
        .accmax 0 0 3, .accsum 15 0 0, .accst 0 116 0, .accld 0 116 1], Issues i (onWorld (gMat 0x122) i) (envAt (gMat 0x122) i)) ∧
    matrixFull (onWorld (gMat 0x122) .nop) (gMat 0x122) = false ∧ (gMat 0x122).c16 = false ∧
    macCheck ⟨0x1C0, 15, 0, 27, 112, 0, false, false⟩ (envAt (gMat 0x122) (.mma 15 0 27 112)) = none ∧
    macCheck ⟨0x1C1, 0, 0, 1, 112, 3, false, true⟩ (envAt (gMat 0x122) (.mmas 0 0 1 112 3)) = none ∧
    (∃ ps, spadPlaces (onWorld (gMat 0x122) (.accst 0 116 0)) (gMat 0x122) 61440 4096 = .ok ps) ∧
    fld ((envAt (gMat 0x122) (.accst 0 116 0)).once 116) 31 0 = 61440 ∧
    (let e := envAt (gOne 0x122 0 0) (.mma 0 0 1 112)
     Issues (.mma 0 0 1 112) (onWorld (gOne 0x122 0 0) (.mma 0 0 1 112)) e ∧ ~~~(e.active &&& ~~~(gOne 0x122 0 0).halted) ≠ 0) := by
  refine ⟨issue_all rfl rfl (by decide +kernel), by decide +kernel, by decide +kernel, by decide +kernel, by decide +kernel, ⟨_, rfl⟩,
    by decide +kernel, ?_⟩
  simp only [Issues]; decide +kernel

/-- A queued instruction of gang 0 on tile 0 of quarter 0. -/
def opOf (fmt : W64) (opcode sel : Nat) : MatrixOp :=
  { matrixOp (envAt (gMat fmt) .nop) 0 opcode 0 sel (List.replicate 128 0) 0 with
    fmt := fmt, b := [List.replicate 128 0], booksB := [[]], pb := [[]], off := 61440 }

/-- Some instructions queued on quarter 0. -/
def queued (ops : List MatrixOp) (i : Instr) : State :=
  { onWorld (gMat 0x122) i with quarters := [(0, { Quarter.reset with matrix := ops })] }

theorem met_fullQueue :
    let s := queued (List.replicate 16 (opOf 0x122 0x1C4 0)) (.accz 0 0)
    matrixFull s (gMat 0x122) = true ∧ envOf s = some (envAt (gMat 0x122) (.accz 0 0)) := by decide +kernel

theorem met_tiles : (∀ op ∈ [opOf 0 0x1C4 2, opOf 0 0x1C6 1, opOf 0 0x1C7 0, opOf 0 0x1C7 1, opOf 0 0x1CB 0, opOf 0 0x1CA 2,
      opOf 0x122 0x1C0 0, opOf 0x1166 0x1C0 0, opOf 0 0x1C0 0, opOf 0 0x1C8 3, opOf 0 0x1C9 0, opOf 0 0x1C5 0],
      ∃ b, AtHead (queued [op] .nop) 0 op [] (gMat 0x122) b ∧ op.lanes ≠ 0 ∧ op.moved = none ∧ op.wb + op.dest < 2 ^ 26) ∧
    (formatOf 0x122 = some (16, 16, 1) ∧ fwGrp 0x122 = 0 ∧ formatOf 0x1166 = some (32, 8, 1) ∧ fwGrp 0x1166 ≠ 0 ∧
      formatOf 0 = some (4, 64, 0)) ∧
    (∃ ps, spadPlaces (queued [] .nop) (gMat 0x122) 61440 (1024 * moveSize 0) = .ok ps) ∧
    (spadFrom 4096 61440).any (placePoisoned (queued [] .nop)) = false ∧ ((queued [] .nop).block? 0).isSome = true := by
  refine ⟨fun op hop => ⟨loadedBlock, ⟨rfl, ?_, rfl, ?_⟩, ?_⟩, by decide +kernel, ⟨_, rfl⟩, by decide +kernel, by decide⟩ <;>
    revert op hop
  · decide +kernel
  · decide +kernel
  · decide +kernel

theorem met_mtr : ∀ i ∈ [.mtr 108 0], Issues i (onWorld gFloat i) (envAt gFloat i) := issue_all rfl rfl (by decide +kernel)

/-- The four gangs of a quadruple; those but gang 0 parked at the MMAQ, or not. -/
def quadGang (parked : Bool) (n : Nat) (i : Instr) : Gang :=
  let g := { gMat 0x122 with special := { gFloat.special with gangId := n }, quarter := n }
  bif parked && n != 0 then { g with park := laneNumbers.map fun l => (l, .rendezvous), rendezvous := some (issueOf allLanes i) } else g

def quad (parked : Bool) (i : Instr) : State :=
  { onWorld (quadGang parked 0 i) i with gangs := (List.range 4).map fun n => (n, quadGang parked n i) }

theorem quadGang_id (b : Bool) (n : Nat) (i : Instr) :
    (quadGang b n i).block = 0 ∧ (quadGang b n i).special.gangId = n := by
  unfold quadGang; cases b && n != 0 <;> exact ⟨rfl, rfl⟩

theorem met_rendezvous : ∀ x ∈ [(Instr.mmaq 0 0 1 112 0, (⟨0x1C2, 0, 0, 1, 112, 0, true, false⟩ : MacFields)),
      (.mmaqs 12 0 1 112 3, ⟨0x1C3, 12, 0, 1, 112, 3, true, true⟩)],
    (Issues x.1 (quad false x.1) (envAt (quadGang false 0 x.1) x.1) ∧ Tidy (quad false x.1) ∧
      macCheck x.2 (envAt (quadGang false 0 x.1) x.1) = none ∧
      (∀ p ∈ quadOf (quad false x.1) (quadGang false 0 x.1), absent p = false) ∧
      some (0, quadGang false 0 x.1) ∈ quadOf (quad false x.1) (quadGang false 0 x.1) ∧
      some (1, quadGang false 1 x.1) ∈ quadOf (quad false x.1) (quadGang false 0 x.1) ∧ atRendezvous (quadGang false 1 x.1) = false) ∧
    (Issues x.1 (quad true x.1) (envAt (quadGang true 0 x.1) x.1) ∧ Tidy (quad true x.1) ∧
      (∀ p ∈ quadOf (quad true x.1) (quadGang true 0 x.1), absent p = false ∧ ∀ h, p = some h →
        matrixFull (quad true x.1) h.2 = false ∧ (h.1 ≠ 0 → atRendezvous h.2 = true ∧ ∀ iss, h.2.rendezvous = some iss →
          (macFields iss).opcode = x.2.opcode ∧ (macFields iss).sel = x.2.sel ∧
            h.2.read (macFields iss).f.toNat 0 = (quadGang true 0 x.1).read 112 0))) := by
  simp only [List.forall_mem_cons, List.not_mem_nil, false_imp_iff, implies_true, and_true, Issues]
  have hq : ∀ b i, quadOf (quad b i) (quadGang b 0 i) = (List.range 4).map fun n => some (n, quadGang b n i) := by
    intro b i; simp [quadOf, quad, List.range, List.range.loop, quadGang_id]
  simp only [hq]
  and_intros <;> first
    | decide +kernel
    | exact fun _ a ha => absurd (show a ∈ [] from ha) List.not_mem_nil

/-- A grid of version 0 whose version table is that of object 2. -/
def gridOf : Grid := ⟨1, 0, ownPtr 2 + 0xC00, 0, [], [], 0, 15, [], [], [], [], 1, 0, false, false, 0, []⟩

def gridWorld : State := { world with grids := [(0, gridOf)] }

/-- A transfer to version 1 is pending. -/
def gXfer : Gang := { gInt with gstat := 0x104 }

theorem met_transfers :
    (∀ i ∈ [.safept 0xFFF, .xfer 0 0 1, .xfer 112 1 0, .xferq 127], Issues i (onWorld gInt i) (envAt gInt i)) ∧
    (Issues (.safept 1) (onWorld gXfer (.safept 1)) (envAt gXfer (.safept 1)) ∧ gXfer.xferPend = true ∧ gXfer.xver = 1 ∧
      safePointParks (onWorld gXfer (.safept 1)) gXfer 1 = true) ∧
    safePointParks (placeBy allLanes gridWorld gXfer (.safept 1)) gXfer 1 = false ∧ gInt.xferPend = false ∧
    (enterable (placeBy allLanes gridWorld gInt (.xfer 0 0 1)) gInt 1).isSome = true ∧
    enterable (placeBy allLanes gridWorld gInt (.xfer 0 0 2)) gInt 2 = none := by
  refine ⟨issue_all rfl rfl (by decide +kernel), ?_⟩
  simp only [Issues]; decide +kernel

theorem met_microprograms :
    (∀ i ∈ [.mcall 108 0, .mcall 0 1, .mcall 112 2, .mstore 31 113 255], Issues i (onWorld gCount i) (envAt gCount i)) ∧
    (let s := onWorld gCount (.mcall 4 0)
     let em := microEnv (envAt gCount (.mcall 4 0)) gCount ⟨0, 0x6CD9B4, .iadd 4 4 5⟩
     microDecode [4, 5, 6, 7] false (slotOf s 0 1 0).1 = some [⟨0, 0x6CD9B4, .iadd 4 4 5⟩] ∧
       verdict em (operands em (.iadd 4 4 5)) = .go ∧ microSpecial (.iadd 4 4 5) = none ∧ (microFx (.iadd 4 4 5)).isSome = true ∧
       microDecode [4, 5, 6, 7] false (slotOf s 0 1 1).1 = some [] ∧ microDecode [4, 5, 6, 7] false (slotOf s 0 1 2).1 = none) ∧
    (let g := gOne (ownPtr 2 + 0x800) (ownPtr 2 + 0x801) 0
     let s := onWorld g (.mstore 0 112 1)
     Quiet s (envAt g (.mstore 0 112 1)) ∧ fld (g.read 112 0) 35 0 % 128 = 0 ∧ fld (g.read 113 0) 35 0 % 128 ≠ 0 ∧
       translate s 0 1 (ownPtr 2 + 0x800) .read false false 128 = .ok (bytesFrom 128 0x40800) ∧
       (bytesFrom 128 0x40800).any (placePoisoned s) = false ∧ world.rind = [] ∧ rising s.dies = true ∧
       (∀ p ∈ bytesFrom 128 0x40800 ++ bytesFrom 128 0x40900, p.isRemote = false ∧ Settled s g p) ∧
       slotAccepted (bytesWords 16 ((bytesFrom 128 0x40800).map (byteNow s))) = true ∧
       slotAccepted (bytesWords 16 ((bytesFrom 128 0x40900).map (byteNow s))) = false ∧
       translate s 0 1 (ownPtr 2 + 0x880) .write false false 128 = .ok (bytesFrom 128 0x40880) ∧
       (bytesFrom 128 0x40880).Nodup ∧ ∀ q ∈ bytesFrom 128 0x40880, ∃ j, q = .phys j ∧ inHbm j = true) := by
  refine ⟨issue_all rfl rfl (by decide +kernel), by decide +kernel, ?_⟩
  simp only [Quiet, Settled, ok_iff]
  and_intros <;> first
    | decide +kernel
    | exact fun q hq => by
        simp only [bytesFrom, List.mem_map, List.mem_range] at hq
        obtain ⟨j, hj, rfl⟩ := hq
        exact ⟨0x40880 + j, rfl, by have : 0x40880 + j < 2 ^ 40 := (by omega); exact decide_eq_true this⟩

/-- Block 0 with Harp tables: context 0 copies digits of one operand, context 1 adds without carry modulo 2, context 2 has no valid entry. -/
def copyTable : HarpTable := ⟨harpUnary, [(0, 0x600), (1, 0x620)], true⟩
def xorTable : HarpTable := ⟨harpBinary, [(0, 0x600), (1, 0x620), (2, 0x620), (3, 0x600)], true⟩
def voidTable : HarpTable := ⟨harpBinary, [], true⟩

def harped : State := world.onBlock 0 fun b => { b with harp := [(0, copyTable), (1, xorTable), (2, voidTable)] }

theorem met_harpTables :
    (∀ i ∈ [.dtload 31 112 3, .dtset 0 0 0, .dtset 0 1 1, .dtset 112 2 0, .dadd 0 1 1 3, .dsub 0 1 1 3, .dconv 0 1 3, .dcmp 0 1 1 3,
        .dstate 0 0], Issues i (onWorld gCount i) (envAt gCount i)) ∧
    (let g := gOne (ownPtr 2 + 0x400) 1 0
     let s := placeBy allLanes harped g (.dtload 0 112 0)
     Quiet s (envAt g (.dtload 0 112 0)) ∧ (s.block? g.block).isSome = true ∧ fld (g.read 112 0) 35 0 % 64 = 0 ∧
       translate s 0 1 (ownPtr 2 + 0x400) .read false false 64 = .ok (bytesFrom 64 0x40400) ∧
       bytesWords 8 ((bytesFrom 64 0x40400).map (byteNow s)) = harpUnary ++ [0, 0, 0, 0] ∧ hdEntries harpUnary = 2 ∧
       translate s 0 1 (ownPtr 2 + 0x400 + 64) .read false false 4 = .ok (bytesFrom 4 0x40440) ∧
       (∀ p ∈ bytesFrom 64 0x40400 ++ bytesFrom 4 0x40440, p.isRemote = false ∧ placePoisoned s p = false ∧ Settled s g p) ∧
       fld (harpUnary.getD 0 0) 63 48 = 0x4B48 ∧ tableOk harpUnary [0x600, 0x620] = true ∧ tableOk harpUnary [0x61F, 0x620] = false ∧
       harpOf s g 0 = some copyTable ∧ harpOf s g 3 = none ∧ fld (g.read 114 0) 4 0 < hdStates copyTable.desc ∧
       hdStates copyTable.desc ≤ fld (g.read 113 0) 4 0) ∧
    (let g := gOne (ownPtr 2 + 0xFFC0) 0 0
     let s := onWorld g (.dtload 0 112 0)
     let desc := bytesWords 8 ((bytesFrom 64 0x4FFC0).map (byteNow s))
     Quiet s (envAt g (.dtload 0 112 0)) ∧ fld (g.read 112 0) 35 0 % 64 = 0 ∧
       translate s 0 1 (ownPtr 2 + 0xFFC0) .read false false 64 = .ok (bytesFrom 64 0x4FFC0) ∧
       (∀ p ∈ bytesFrom 64 0x4FFC0, p.isRemote = false ∧ placePoisoned s p = false ∧ Settled s g p) ∧
       translate s 0 1 (ownPtr 2 + 0xFFC0 + 64) .read false false (2 * hdEntries desc) = .error (.fault .oos 0) ∧
       Code.oos.kills = false) := by
  refine ⟨issue_all rfl rfl (by decide +kernel), ?_⟩
  simp only [Quiet, Settled, ok_iff, fault_iff]; and_intros <;> decide +kernel

theorem met_transductions :
    (∀ i ∈ [.dconv 0 112 0, .dadd 0 112 113 1, .dsub 0 112 113 1, .dcmp 21 112 113 1, .dconv 0 112 1, .dadd 0 112 113 0,
        .dsub 0 112 113 2, .dcmp 0 112 113 2], Issues i (placeBy allLanes harped gMem i) (envAt gMem i)) ∧
    harpOf (placeBy allLanes harped gMem .nop) gMem 0 = some copyTable ∧ harpOf (placeBy allLanes harped gMem .nop) gMem 1 = some xorTable ∧
    harpOf (placeBy allLanes harped gMem .nop) gMem 2 = some voidTable ∧ hdUnary copyTable.desc = true ∧ hdUnary xorTable.desc = false ∧
    Transduces copyTable false false 0 5 0 0 0 5 ∧ Transduces xorTable false false 0 5 3 0 0 6 ∧
    Transduces xorTable true false 0 5 3 0 0 (~~~6) ∧ Transduces xorTable false true 0 5 3 0 0 0 ∧
    ∀ flip keep a b r st' r', ¬Transduces voidTable flip keep 0 a b r st' r' := by
  refine ⟨fun i hi => ⟨?_, ?_⟩, by decide +kernel, by decide +kernel, by decide +kernel, by decide +kernel, by decide +kernel,
    ⟨by decide +kernel, fun _ => 0, rfl, rfl, by decide +kernel⟩, ⟨by decide +kernel, fun _ => 0, rfl, rfl, by decide +kernel⟩,
    ⟨by decide +kernel, fun _ => 0, rfl, rfl, by decide +kernel⟩, ⟨by decide +kernel, fun _ => 0, rfl, rfl, by decide +kernel⟩, ?_⟩
  · rfl
  · revert i hi; decide +kernel
  · rintro flip keep a b r st' r' ⟨-, q, -, -, h⟩
    have h0 := (h 0 (by decide)).1
    cases flip <;> simp [voidTable, getAt] at h0 <;> exact absurd h0 (by decide)

/-- The machine whose context 1 has no system privilege. -/
def userWorld (i : Instr) : State := placeBy allLanes (world.onCtx 1 fun c => { c with system := false }) gInt i

theorem met_codebooksAndSystem :
    (∀ i ∈ [.cbload 112 2, .cbload 112 0, .cbrd 127 3 1, .sysrd 127 5, .sysrd 112 0x17, .sysrd 112 0, .sysrd 112 6, .sysrd 112 0x18,
        .syswr 0 0x10, .syswr 0 0x17, .syswr 0 0xF, .tlog 0], Issues i (onWorld gCount i) (envAt gCount i) ∧ (envAt gCount i).sys = true) ∧
    (let s := onWorld gCount (.cbload 112 2)
     Quiet s (envAt gCount (.cbload 112 2)) ∧ fld (gCount.read 112 0) 35 0 % 64 = 0 ∧ rising s.dies = true ∧
       translate s 0 1 (ownPtr 2 + 0x1000) .read false false 64 = .ok (bytesFrom 64 0x41000) ∧
       translate s 0 1 (ownPtr 2 + 0x1000) .read false false 32 = .ok (bytesFrom 32 0x41000) ∧
       ∀ p ∈ bytesFrom 64 0x41000, p.isRemote = false ∧ placePoisoned s p = false ∧ Settled s gCount p) ∧
    (∀ i ∈ [.sysrd 112 0, .syswr 0 0x10], ∃ e, Issues i (userWorld i) e ∧ e.sys = false) := by
  refine ⟨fun i hi => ⟨issue_all (g := gCount) rfl rfl ?_ i hi, rfl⟩, ?_, ?_⟩
  · decide +kernel
  · simp only [Quiet, Settled, ok_iff]; and_intros <;> decide +kernel
  · simp only [List.forall_mem_cons, List.not_mem_nil, false_imp_iff, implies_true, and_true, Issues]
    exact ⟨⟨_, ⟨rfl, by decide +kernel⟩, rfl⟩, ⟨_, ⟨rfl, by decide +kernel⟩, rfl⟩⟩

/-- The world without an issuing strand, gang 0 being g. -/
def holding (g : Gang) : State := { world with gangs := [(0, g)], quarters := [], focus := none }

/-- Its gang waits for the packet at its PC. -/
def gFetch : Gang := { gInt with park := laneNumbers.map fun l => (l, .fetchWait) }

/-- The code object's one tile has no sub-tile present. -/
def emptyCode (s : State) : State := { s with cus := [(0, { warmCu with ttc := [(1, 1, 0, word (2 ^ 56 + 3 * 2 ^ 16))] })] }

/-- A result owed to v0 of lane 0, an access held, an operation counted, and remote writes. -/
def owed : Pending := ⟨7, [(0, 9)], [(0, 8)]⟩

def heldOne : Held := ⟨0, (envAt gMem .nop).access .load 7 0 0, 1, 2, 0, 0, false, false, false, false, []⟩

def gOwed : Gang := { gInt with
  v := [(0, ⟨0, .empty 7⟩)], pending := [owed], counted := [⟨2, 7, false⟩, ⟨0, 8, true⟩], kc := [(0, 1), (2, 1)]
  remotes := [⟨7, [heldOne.acc], allLanes⟩], park := [(0, .waitc 0 0), (1, .yieldw 0 0 (ownPtr 1 + 8))] }

/-- An access of its instruction is held. -/
def holdingOne : State := { holding gOwed with cus := [(0, { warmCu with replay := [heldOne] })] }

theorem met_scheduling :
    (rising (holding gInt).gangs = true ∧ ((holding gInt).quarter 0).run = none ∧ (∀ x ∈ gangsOn (holding gInt) 0, x.2.waited < 48) ∧
      eligibleGangs (holding gInt) 0 false = [(0, gInt)] ∧ gInt.promoted = none ∧
      eligibleGangs (holding { gInt with promoted := some 3 }) 0 false ≠ []) ∧
    ((holding { gInt with waited := 48 }).gang? 0 = some { gInt with waited := 48 }) ∧
    ((holding gFetch).gang? 0 = some gFetch ∧ gFetch.parkOf 31 = .fetchWait ∧ rising gFetch.park = true ∧
      (held? (fetchPacket (holding gFetch) gFetch (gFetch.pcOf 31))).isSome = true) ∧
    (fetchPacket (emptyCode (holding gFetch)) gFetch (gFetch.pcOf 31) = .error (.notres 0 0)) ∧
    ((holding gOwed).gang? 0 = some gOwed ∧ gOwed.sampled = [] ∧ gOwed.pending.find? (fun x => x.ticket == 7) = some owed ∧
      (owed.vs.map Prod.fst).Nodup ∧ (owed.ss.map Prod.fst).Nodup ∧
      (lane gOwed.exited (0 % 32) = false ∧ (getAt Reg.zero gOwed.v 0).st = .empty 7) ∧
      gOwed.counted.find? (fun x => x.cls == 0) = some ⟨0, 8, true⟩ ∧ 0 < gOwed.kcOf 0 ∧ gOwed.sequencing = false ∧
      gOwed.counted.find? (fun x => x.cls == 2) = some ⟨2, 7, false⟩ ∧
      gOwed.remotes.find? (fun x => x.ticket == 7) = some ⟨7, [heldOne.acc], allLanes⟩ ∧ gOwed.accesses = [] ∧ gOwed.contribs = [] ∧
      gOwed.remotes.erase ⟨7, [heldOne.acc], allLanes⟩ = [] ∧ ((holding gOwed).cu 0).replay = [] ∧ ((holding gOwed).cu 0).replayWait = []) ∧
    (holdingOne.gang? 0 = some gOwed ∧ (holdingOne.cu gOwed.cuKey).replay = [heldOne] ∧ heldOne.gang = 0 ∧ heldOne.acc.ticket = 7) ∧
    (let c : Cu := { warmCu with replay := List.replicate 63 heldOne, replayWait := [heldOne] }
     c.replayWait = [heldOne] ∧ c.replay.length < 64 ∧ (List.replicate 64 heldOne).length = 64) := by
  refine ⟨?_, rfl, ?_, ?_, ?_, ?_, ?_⟩
  · and_intros <;> decide +kernel
  · and_intros <;> decide +kernel
  · simp only [fault_iff]; decide +kernel
  · and_intros <;> decide +kernel
  · and_intros <;> decide +kernel
  · and_intros <;> decide +kernel

/-- An access on its way, at given places, a store's bytes all 7. -/
def onWay (t : Nat) (a : Access) (ps : List Place) : Waiting :=
  ⟨t, a, ps.map fun p => (p, if a.kind = .store then 7 else 0), allLanes, false, none, false, false, []⟩

/-- A weak store, and a release at a scope. -/
def storeOne (t scope : Nat) (rel : Bool) (base : Nat) : Waiting :=
  onWay t { (envAt gMem .nop).access .store t 0 (ownPtr 2 + 0x1000) with release := rel, scope := scope } (bytesFrom 8 base)

def inFlight (xs : List Waiting) : Gang := { gMem with accesses := xs }

/-- Object 3's tile is a Rind range. -/
def rindWorld (g : Gang) : State := { holding g with rind := [(0x50000, 0x10000, none)] }

theorem world_memory : Memory.wf world.mem = true ∧ Memory.wf world.hostMem = true := by decide +kernel

theorem tidy_holding (g : Gang) : Tidy (holding g) := tidy_of (by simp only [holding]; exact world_memory) rfl rfl rfl

theorem tidy_rind (g : Gang) : Tidy (rindWorld g) := tidy_of (by simp only [rindWorld, holding]; exact world_memory) rfl rfl rfl

theorem onWay_places (t : Nat) (a : Access) (ps : List Place) : (onWay t a ps).bytes.map Prod.fst = ps := by
  simp [onWay, Function.comp_def]

theorem bytesFrom_nodup (n a : Nat) : (bytesFrom n a).Nodup := by
  unfold bytesFrom List.Nodup
  rw [List.pairwise_map]
  exact List.nodup_range.imp fun h h' => h (by simpa using h')

theorem writable_from (s : State) (n a : Nat) (h : a + n ≤ 2 ^ 40) : ∀ p ∈ bytesFrom n a, Writable s p := by
  simp only [bytesFrom, List.mem_map, List.mem_range]
  rintro p ⟨j, hj, rfl⟩
  have h' : a + j < 2 ^ 40 := by omega
  exact .inl (decide_eq_true h')

theorem met_performed :
    (let x := storeOne 5 0 false 0x41000
     let g := inFlight [x]
     Performs (holding g) 0 0 g x ∧ x.acc.kind = .store ∧ x.acc.dests = [] ∧ Apart x.bytes) ∧
    (∀ s, ∀ p ∈ (storeOne 5 0 false 0x41000).bytes.map Prod.fst, Writable s p) ∧
    (∀ s, ∀ p ∈ (storeOne 5 5 true 0x51000).bytes.map Prod.fst, Writable s p) ∧
    (let x := storeOne 5 5 true 0x51000
     let g := inFlight [x]
     Performs (rindWorld g) 0 0 g x ∧ (without g x).accesses = [] ∧ Apart x.bytes ∧
       x.acc.release = true ∧ x.acc.scope = 5 ∧ inRind (rindWorld g) 0x51000 = true ∧ rennetVar (rindWorld g) 0x51000 = none ∧
       (∀ j, mirrorOf (rindWorld g).rind j = none)) ∧
    (∀ x ∈ [onWay 5 (loadAccess false 0 112 4 2 3 (envAt gMem .nop) 5 0) (bytesFrom 8 0x41000),
        onWay 5 (pollAccess 0 112 1 (envAt gMem .nop) 5 0) [.phys 0x41000],
        onWay 5 (atomAccess .atom false [0] 0 112 1 4 3 (envAt gMem .nop) 5 0) (bytesFrom 8 0x41000),
        onWay 5 (atomAccess .red false [] 0 112 1 4 3 (envAt gMem .nop) 5 0) (bytesFrom 8 0x41000),
        onWay 5 (atomAccess .atom true [0] 0 112 1 4 3 (envAt gMem .nop) 5 0) (spadFrom 8 65528)],
      Performs (holding (inFlight [x])) 0 0 (inFlight [x]) x ∧ x.acc.dests.Nodup ∧ (∀ k ∈ x.acc.dests, k < 2 ^ 32) ∧
      (∀ p ∈ x.bytes.map Prod.fst, Settled (holding (inFlight [x])) (inFlight [x]) p)) ∧
    (loadAccess false 0 112 4 2 3 (envAt gMem .nop) 5 0).acquire = true ∧ 1 ≤ (loadAccess false 0 112 4 2 3 (envAt gMem .nop) 5 0).scope ∧
    atomWidth gMem.mode = 8 ∧ (∀ g, RennetTakes (holding g) 0x41000) ∧ ((holding gMem).block? 0).isSome = true := by
  simp only [Performs, Settled, Apart]
  refine ⟨by decide +kernel, ?_, ?_, ⟨by decide +kernel, by decide +kernel, by decide +kernel, rfl, rfl, rfl, rfl, ?_⟩, by decide +kernel, by decide, by decide,
    by decide, fun g => ⟨rfl, ?_, rfl, ?_⟩, by decide⟩
  · intro s; simp only [storeOne, onWay_places]; exact writable_from s 8 0x41000 (by decide)
  · intro s; simp only [storeOne, onWay_places]; exact writable_from s 8 0x51000 (by decide)
  · intro j; simp [rindWorld, mirrorOf, firstSome]
  · show 0 < rennetRoom Die.reset false; decide +kernel
  · intro y hy; cases hy

/-- A copy of sixteen bytes from object 2 to object 3. -/
def copyOne : CopyOp := ⟨9, [⟨0, ownPtr 3, false, ownPtr 2, false, 0, 16⟩], [⟨0, ownPtr 3, false, ownPtr 2, false, 0, 16⟩], none, [], none, 0, 0, 0⟩

theorem met_work :
    (let x := storeOne 2 2 true 0x41000
     let g := inFlight [storeOne 1 0 false 0x41000, x]
     (holding g).gang? 0 = some g ∧ g.sampled = [] ∧ g.accesses[1]? = some x ∧ (g.accesses.map Waiting.ticket).Nodup ∧
       mayPerform (holding g) g (g.accesses.take 1) x = false ∧ 1 < x.acc.scope) ∧
    (let x := storeOne 2 1 true 0x42000
     let g := inFlight [storeOne 1 0 false 0x41000, x]
     (holding g).gang? 0 = some g ∧ g.accesses[1]? = some x ∧ (g.accesses.map Waiting.ticket).Nodup ∧ x.acc.kind = .store ∧
       x.acc.dests = [] ∧ x.acc.release = true ∧ x.acc.scope ≤ 1 ∧ x.held = false ∧ shownTo (holding g) g = [] ∧ g.remotes = [] ∧
       Apart x.bytes ∧ ∀ o ∈ g.accesses.take 1, precedes o x = true ∧ o.simple = true ∧ o.acc.kind = .store ∧
         o.acc.ticket ≠ x.acc.ticket ∧ o.acc.acquire = false ∧ (o.toHost && x.toHost) = false ∧
         meets o.bytes (x.bytes.map Prod.fst) = false) ∧
    (∀ s, ∀ b ∈ (storeOne 2 1 true 0x42000).bytes, Writable s b.1) ∧
    (∀ k ∈ [0, 8],
     let g := { gInt with copies := [copyOne] }
     let c : CopyLane := ⟨0, ownPtr 3, false, ownPtr 2, false, 0, 16⟩
     let ps := (List.range (16 - k)).map (k + ·)
     g.copies.find? (fun y => y.ticket == 9) = some copyOne ∧ choosePiece (holding g) g copyOne k = some (c, ps) ∧
       held? (piecePlaces (holding g) g copyOne c ps).1 = some (bytesFrom (16 - k) (0x40000 + k)) ∧
       held? (piecePlaces (holding g) g copyOne c ps).2 = some (bytesFrom (16 - k) (0x50000 + k)) ∧
       (∀ p ∈ bytesFrom 16 0x40000, p.isRemote = false ∧ placePoisoned (holding g) p = false) ∧
       (∀ p ∈ bytesFrom (16 - k) (0x50000 + k), p ∉ clashes (holding g) g copyOne 0) ∧ (copyOne.without c ps = [] ↔ k = 0)) ∧
    (∀ s, ∀ p ∈ bytesFrom 16 0x50000, p ≠ .zero → Writable s p) ∧
    Apart (((bytesFrom 16 0x50000).zip ((bytesFrom 16 0x40000).map (byteNow world))).filter fun b => !decide (b.1 = .zero)) := by
  simp only [Apart]
  refine ⟨by decide +kernel, by decide +kernel, ?_, by decide +kernel, fun s p hp _ => writable_from s 16 0x50000 (by decide) p hp,
    by decide +kernel⟩
  intro s b hb
  exact writable_from s 8 0x42000 (by decide) _
    (by have := List.mem_map_of_mem (f := Prod.fst) hb; rwa [storeOne, onWay_places] at this)

/-- A contribution of lane 0, and a counter at its line. -/
def contribAcc : Access := { atomAccess .redc false [] 0 112 0 0 0 (envAt gCount (.redc 0 112 0 0 0)) 5 0 with size := 8 }

def gContrib : Gang := { gCount with contribs := [⟨5, [contribAcc]⟩] }

def contribWorld : State := (holding gContrib).setDie (homeDie 0x41000)
  { Die.reset with counters := [⟨0x41000, 3, 1, ownPtr 2 + 0x2000, 1, false, false, false⟩] }

/-- A Rennet with room for the variables it holds keeps them. -/
theorem rennetTrim_room {s : State} {d : Nat} (h1 : (s.die d).rennet.length ≤ rennetRoom (s.die d) false) (h2 : (s.die d).overflow = []) :
    rennetTrim s d = s.setDie d { s.die d with overflow := [] } := by
  simp [rennetTrim, List.drop_eq_nil_of_le h1, List.take_of_length_le h1, h2, countOverflow]

/-- The variable at 0x41000, and what changes it. -/
def varKeys : List Key := (List.range 8).map (0x41000 + ·)

def pokeAll (t : State) : State :=
  (varKeys.zip (natBytes varKeys.length (atomNew contribAcc.mode contribAcc.aop
    (bytesNat (varKeys.map (coherent t))) contribAcc.v0.toNat contribAcc.v1.toNat))).foldl
    (fun t x => performByte t 0 (some 0) false x.1 x.2) t

theorem rmwKeys_one (s : State) (d : Nat) (w : Option Nat) (line ks : List Key) (f : Nat → Nat) (v : Key) (h1 : ks.all inHbm = true)
    (h2 : (ks.map fun k => k / 8 * 8).eraseDups = [v]) : (rmwKeys s d w line ks f).1 =
      (ks.zip (natBytes ks.length (f (bytesNat (ks.map (coherent (rennetTake s line v))))))).foldl
        (fun t x => performByte t d w false x.1 x.2) (rennetTake s line v) := by
  simp [rmwKeys, h1, h2]

/-- The Rennet of the variable with room in it. -/
def putOne (s : State) (v : Key) (w : W64) : State :=
  let u := s.setDie (homeDie v) { s.die (homeDie v) with
    rennet := (v, w) :: drop (s.die (homeDie v)).rennet v, overflow := drop (s.die (homeDie v)).overflow v }
  u.setDie (homeDie v) { u.die (homeDie v) with overflow := [] }

theorem rennetPut_room (s : State) (v : Key) (w : W64) (u : State) (hu : u = s.setDie (homeDie v) { s.die (homeDie v) with
      rennet := (v, w) :: drop (s.die (homeDie v)).rennet v, overflow := drop (s.die (homeDie v)).overflow v })
    (h1 : (u.die (homeDie v)).rennet.length ≤ rennetRoom (u.die (homeDie v)) false) (h2 : (u.die (homeDie v)).overflow = []) :
    rennetPut s v w = putOne s v w := by
  subst hu; exact rennetTrim_room h1 h2

theorem met_contribution : contribWorld.gang? 0 = some gContrib ∧ Tidy contribWorld ∧ gContrib.accesses = [] ∧ gContrib.remotes = [] ∧
    shownTo contribWorld gContrib = [] ∧
    (contribWorld.cu gContrib.cuKey).replay = [] ∧ (contribWorld.cu gContrib.cuKey).replayWait = [] ∧ contribAcc.scratch = false ∧
    isRemote contribWorld contribAcc.ptr = false ∧
    checkAccess contribWorld gContrib contribAcc = .ok (bytesFrom 8 0x41000) ∧ atomWidth contribAcc.mode = 8 ∧
    RennetTakes contribWorld 0x41000 ∧
    lineBase (rmwAccess contribWorld gContrib contribAcc (bytesFrom 8 0x41000)).1 gContrib.cuKey gContrib.ctx contribAcc.ptr = some 0x41000 ∧
    counterOf contribWorld 0x41000 = some ⟨0x41000, 3, 1, ownPtr 2 + 0x2000, 1, false, false, false⟩ := by
  refine ⟨rfl, ⟨by unfold MemoryOk; decide +kernel, by decide +kernel, rfl, rfl, by decide +kernel, by decide +kernel, ?_⟩, rfl, rfl, by decide +kernel, rfl, rfl, rfl,
    by decide +kernel, by simp only [ok_iff]; decide +kernel, by decide +kernel, ⟨rfl, by decide +kernel, by decide +kernel, by decide +kernel⟩,
    ?_, by decide +kernel⟩
  · intro k a ha b hb ha' hb'
    rw [(by decide +kernel : ∀ x ∈ contribWorld.dies, x.2.l2 = []) a ha] at ha'
    simp [find] at ha'
  · let line := lineOf contribWorld gContrib.cuKey gContrib.ctx contribAcc.ptr
    let near : Key → Bool := fun k => line.contains k || k / 8 * 8 == 0x41000
    have h : rmwAccess contribWorld gContrib contribAcc (bytesFrom 8 0x41000) = rmwKeys contribWorld 0 (some 0) line varKeys
        (fun old => atomNew contribAcc.mode contribAcc.aop old contribAcc.v0.toNat contribAcc.v1.toNat) := by
      unfold rmwAccess rmwPlaces; rfl
    rw [h, rmwKeys_one _ _ _ _ _ _ 0x41000 (by decide +kernel) (by decide +kernel),
      show rennetTake contribWorld line 0x41000 = putOne (forgetL1 (writeBackL2 contribWorld near) near) 0x41000
        (coherentW64 contribWorld 0x41000) from rennetPut_room _ _ _ _ rfl (by decide +kernel) (by decide +kernel)]
    decide +kernel

/-- A checkpoint of gang 0 into slot 3. -/
def committing : Gang := { gInt with checkpoint := some ⟨3, 3, 7, allLanes⟩ }

theorem met_commit :
    let s := rindWorld committing
    s.gang? 0 = some committing ∧ Tidy s ∧ committing.accesses = [] ∧ committing.remotes = [] ∧ shownTo s committing = [] ∧
    (∃ x, s.ctx? committing.ctx = some x ∧ (getAt 0 x.ckp 3).getLsbD 63 = false ∧ directoryAt s x.slot = some (0x50000 + 64 * x.slot) ∧ x.slot < 16 ∧
      let old : W64 := word (2 ^ 63 + 9)
      ∃ y, (s.onCtx 1 fun x => { x with ckp := [(3, old)] }).ctx? 1 = some y ∧ getAt 0 y.ckp 3 = old ∧ old.getLsbD 63 = true ∧
        7 ≤ fld old 31 0) ∧
    readTable (readObject s committing.cuKey committing.ctx) 3 = .ok (0, []) ∧
    translateFrom s committing.cuKey committing.ctx (ownPtr 3) .write (imageSize s committing.cuKey committing.ctx 3 - 256) 256 =
      .ok (bytesFrom 256 (0x60000 - 256)) ∧ (bytesFrom 256 (0x60000 - 256)).Nodup ∧ inRind s 0x5FF00 = true ∧
    (∀ p ∈ bytesFrom 256 (0x60000 - 256), ∃ j, p = .phys j ∧ inHbm j = true) ∧ rennetVar s 0x5FF00 = none := by
  refine ⟨rfl, tidy_rind _, rfl, rfl, by decide +kernel, ⟨_, rfl, by decide +kernel, by decide +kernel, by decide +kernel, _, rfl, by decide +kernel⟩, ?_⟩
  simp only [ok_iff]
  refine ⟨by decide +kernel, by decide +kernel, bytesFrom_nodup _ _, by decide +kernel, ?_, by decide +kernel⟩
  simp only [bytesFrom, List.mem_map, List.mem_range]
  rintro p ⟨j, hj, rfl⟩
  have h' : 0x60000 - 256 + j < 2 ^ 40 := by omega
  exact ⟨_, rfl, decide_eq_true h'⟩

/-- A computation answers, and its answer passes a check. -/
def okAnd {ε α : Type} (x : Except ε α) (p : α → Bool) : Bool := match x with
  | .ok m => p m
  | .error _ => false

theorem ok_exists {ε α : Type} {x : Except ε α} {p : α → Bool} (h : okAnd x p = true) : ∃ m, x = .ok m ∧ p m = true := by
  cases x with
  | ok m => exact ⟨m, rfl, h⟩
  | error _ => cases h

/-- The world in which gang 0 stands at SAFEPT 7, its transfer to version 1 pending. -/
def parkedGang : Gang := { gXfer with vtab := ownPtr 2 + 0xC00, park := laneNumbers.map fun l => (l, .safept 0) }

def xferWorld : State := { holding parkedGang with
  mem := recordCells ++ entryCells ++ [(0x30004, 7), (0x30007, 0xF0)] ++ dataCells
  grids := [(0, gridOf)] }

theorem some_exists {α : Type} (x : Option α) (p : α → Bool) (h : x.any p = true) : ∃ m, x = some m ∧ p m = true := by
  cases x with
  | some m => exact ⟨m, rfl, h⟩
  | none => cases h

/-- The value that moves in a transfer, one register. -/
def oneCarry (cs : List Carry) : Bool := match cs with
  | [c] => c.desc.kind == 0 && decide (c.desc.loc < 112) && decide (c.lanes = allLanes)
  | _ => false

theorem met_transferSequence :
    (let g := parkedGang
     let s := xferWorld
     s.gang? 0 = some g ∧ g.xferPend = true ∧ g.killed = false ∧ g.debugStop = false ∧ g.liveLanes ≠ 0 ∧
     hasHeld s 0 g.cuKey (fun _ => true) = false ∧ (∀ l < 32, lane g.moving l = true → atSafept (g.parkOf l) = true) ∧
     ∃ w, enterable s g g.xver = some w ∧ transferCheck s g w = none ∧ khProt w = g.prot ∧ ∃ src, runningMap s g = .ok src ∧
      ∃ tgt, readMap s g (verMap w) (fpWindow (verFoot w)) ((s.block? g.block).map Block.spb |>.getD 0) = .ok tgt ∧
      ∃ ms, movers s src tgt g = .ok ms ∧ badIds ms = false ∧ badPlaces g ms = false ∧ (∀ k < 4, drained g ms k = true) ∧
      drained { g with kc := [(0, 1)] } ms 0 = false ∧ ∃ cs, fetchAll s 0 g src tgt ms = .ok cs ∧ oneCarry cs = true) ∧
    parkedGang.moving = allLanes ∧ parkedGang.sequencing = false ∧ ({ parkedGang with sequencing := true } : Gang).sequencing = true ∧
    (holding parkedGang).gang? 0 = some parkedGang ∧ hasHeld (holding parkedGang) 0 parkedGang.cuKey (fun _ => true) = false ∧
    enterable (holding parkedGang) parkedGang parkedGang.xver = none := by
  refine ⟨⟨rfl, by decide +kernel, rfl, rfl, by decide +kernel, by decide +kernel, by decide +kernel, ?_⟩, by decide +kernel, rfl, rfl, rfl, by decide +kernel, by decide +kernel⟩
  have hw : ((enterable xferWorld parkedGang parkedGang.xver).any fun w => (transferCheck xferWorld parkedGang w).isNone &&
      (decide (khProt w = parkedGang.prot) && okAnd (runningMap xferWorld parkedGang) fun src =>
      okAnd (readMap xferWorld parkedGang (verMap w) (fpWindow (verFoot w)) ((xferWorld.block? parkedGang.block).map Block.spb |>.getD 0))
        fun tgt => okAnd (movers xferWorld src tgt parkedGang) fun ms => !badIds ms && (!badPlaces parkedGang ms &&
      ((List.range 4).all (drained parkedGang ms) && (!drained { parkedGang with kc := [(0, 1)] } ms 0 &&
      okAnd (fetchAll xferWorld 0 parkedGang src tgt ms) oneCarry))))) = true := by decide +kernel
  obtain ⟨w, hw, h⟩ := some_exists _ _ hw
  simp only [Bool.and_eq_true, decide_eq_true_eq, Option.isNone_iff_eq_none] at h
  obtain ⟨src, hs, h1⟩ := ok_exists h.2.2
  obtain ⟨tgt, ht, h2⟩ := ok_exists h1
  obtain ⟨ms, hm, h3⟩ := ok_exists h2
  simp only [Bool.and_eq_true, Bool.not_eq_true', List.all_eq_true, List.mem_range] at h3
  obtain ⟨cs, hc, h4⟩ := ok_exists h3.2.2.2.2
  exact ⟨w, hw, h.1, h.2.1, src, hs, tgt, ht, ms, hm, h3.1, h3.2.1, h3.2.2.1, h3.2.2.2.1, cs, hc, h4⟩

/-- The world with a record and entries of object 2 that map nothing. -/
def unmapped : State := { world with mem := recordCells ++ dataCells }

/-- A gang whose oldest remote store is to another device. -/
def gRemote : Gang := { gInt with remotes := [⟨7, [{ heldOne.acc with ptr := 0 }], allLanes⟩] }

theorem miss_iff {α : Type} (x : Except Miss α) (m : Miss) : x = .error m ↔ (match x with | .ok _ => none | .error m => some m) = some m := by
  cases x <;> simp

theorem met_faultsAndDebug :
    (let s := unmapped
     let r := bytesWords 16 (coherentBytes s 0x10100 128)
     (∃ x, s.ctx? 1 = some x ∧ recordNow s x 2 = r) ∧ (∀ c ∈ s.cus, c.2.replay = [] ∧ c.2.replayWait = []) ∧ s.rind = [] ∧
       rising s.dies = true ∧ s.dies = [] ∧ s.poison = [] ∧ Record.state r = 1 ∧ Record.wf r = true ∧ Record.sysm r = false ∧ Record.du r = false ∧
       0 < Record.tmlen r ∧ entState false (entryNow s r 0) = 0 ∧ entDamaged false (entryNow s r 0) = false ∧
       (List.replicate 4096 (7 : Byte)).length = 4096) ∧
    (let s := emptyCode (holding gFetch)
     s.gangs = [(0, gFetch)] ∧ (∀ c ∈ s.cus, c.2.replay = [] ∧ c.2.replayWait = [] ∧ c.2.shadows = []) ∧ s.grids = [] ∧
       gFetch.copies = [] ∧ gFetch.killed = false ∧ gFetch.tmask.getLsbD 0 = false ∧ lowestLane (gFetch.runnable 0) = 0 ∧
       gFetch.runnable 0 ≠ 0 ∧ (∀ k < 32, lane (gFetch.runnable 0) k = false → gFetch.parkOf k ≠ .fetchWait) ∧
       gFetch.parkOf 0 = .fetchWait ∧ ptrObj (gFetch.pcOf 0) = 1 ∧
       fetchPacket s gFetch (gFetch.pcOf 0) = .error (.notres 0 0)) ∧
    (∀ c ∈ [Code.objue, .memue, .regue, .sdc], killCode c.num = some c) ∧ gInt.killed = false ∧ gInt.liveLanes ≠ 0 ∧
    (gRemote.killed = false ∧ ∃ r a, gRemote.remotes.head? = some r ∧ r.accs.head? = some a ∧ reaches (holding gRemote) (ptrNode a.ptr) = false) ∧
    ({ gInt with killed := true } : Gang).killed = true ∧
    (let g := { gInt with debugStop := true }
     g.killed = false ∧ g.sequencing = false ∧ (0 < 1024 * tilesFor (holding g) g ∧ ((holding g).block? g.block).isSome = true) ∧
       lane g.liveLanes 31 = true ∧ (∀ k < 32, lane (g.strandOf 31) k = true → getAt .none g.haltReason k ≠ .halt) ∧
       112 ≤ g.wsize ∧ goodTarget (holding g) (g.pcOf 31) (ownPtr 1 + 8) = true ∧ goodTarget (holding g) (g.pcOf 31) 1 = false) ∧
    (∃ x, world.ctx? 1 = some x) ∧ (∀ b, some (255, 2 ^ 36 - 4) = some b → b.1 < 256 ∧ b.2 < 2 ^ 36) ∧
    (parkedGang.parkOf 31 = .safept 0 ∧ parkedGang.sequencing = false ∧ parkedGang.xferPend = true ∧ gInt.xferPend = false) ∧
    (let s := (holding gRows).onBlock 0 fun b => { b with pool := [(0, 16)], claims := [(0, 0, allLanes, 16)] }
     ∃ b, s.block? gRows.block = some b ∧ waitingClaims s b 0 = [(0, 0, allLanes, 16)] ∧ poolHas s gRows 16 = true ∧
       claimTooWide gRows 16 = false ∧ gRows.nrows = gRows.wsize) ∧
    (let g := { gInt with exited := allLanes }
     (g.killed = false ∧ gangGone (holding g) 0 g = true ∧ (∃ b, (holding g).block? g.block = some b ∧
       (∀ n ∈ b.gangs, n ≠ 0 → (holding g).gang? n = none) ∧ ∀ n ∈ b.gangs, bbcOwed (holding g) n (48 * b.die + b.cu) = false) ∧ ∀ y ∈ (holding g).quarters, y.2.matrix = []) ∧
     (let s := { (holding g).onBlock 0 fun b => { b with gangs := [0, 1] } with gangs := [(0, g), (1, gInt)] }
      gangGone s 0 g = true ∧ ∃ b, s.block? g.block = some b ∧ ∃ n ∈ b.gangs, n ≠ 0 ∧ ∃ h, s.gang? n = some h ∧ h.killed = false)) ∧
    gangGone (holding gInt) 0 gInt = false := by
  have hb : ∀ b, some (255, 2 ^ 36 - 4) = some b → b.1 < 256 ∧ b.2 < 2 ^ 36 := by rintro b ⟨⟩; decide
  refine ⟨⟨⟨_, rfl, rfl⟩, ?_⟩, ?_, ?_, ?_, ?_, ⟨rfl, _, _, rfl, rfl, by decide +kernel⟩, rfl, ?_, ⟨_, rfl⟩, hb, ?_,
    ⟨_, rfl, by decide +kernel, by decide +kernel, by decide +kernel, rfl⟩,
    ⟨⟨rfl, by decide +kernel, ⟨_, rfl, by decide +kernel⟩, by decide +kernel⟩, by decide +kernel, _, rfl, 1, by decide, by decide, _, rfl, rfl⟩, ?_⟩
  all_goals try simp only [miss_iff]
  all_goals and_intros <;> decide +kernel

/-- The world between instructions, its front end's caches as CU 0's. -/
def station : State := { holding gInt with cus := [(0, warmCu), (1000, warmCu)] }

theorem direct_of (n a : Nat) (h : a + n ≤ 2 ^ 40) : ∀ p ∈ bytesFrom n a, ∃ k, p = .phys k ∧ inHbm k = true := by
  intro p hp
  simp only [bytesFrom, List.mem_map, List.mem_range] at hp
  obtain ⟨j, hj, rfl⟩ := hp
  exact ⟨a + j, rfl, decide_eq_true (by omega : a + j < 2 ^ 40)⟩

/-- The task of the launch block of object 2, and that block's words. -/
def taskOne : Task := ⟨ownPtr 2, 1, 0, ownPtr 2 + 0xC00, 1, ownPtr 1, ownPtr 1 + 4, some 0⟩

def taskWords : List W64 := [word (0x4B4C * 2 ^ 48 + 31), ownPtr 1 + 4, 1, word (8 * 2 ^ 8 + 8)] ++ List.replicate 12 0

/-- Its shadow slot, with 256 bytes of object 2 still to be copied to scratchpad. -/
def shadowOne : Shadow := ⟨taskOne, [word (0x4B4C * 2 ^ 48 + 31), ownPtr 1, 1, word (256 * 2 ^ 40 + 8 * 2 ^ 8 + 8), ownPtr 2 + 0x1000, 255] ++
  List.replicate 10 0, 3, 15, [0], [], none⟩

theorem met_tasks :
    (let s := { station with cus := [(0, { warmCu with tasks := [taskOne] }), (1000, warmCu)] }
     (s.cu 0).shadows.length < 8 ∧ objectWords s 0 taskOne.ctx taskOne.ptr 16 = .ok taskWords ∧ taskFits s 0 1 15 taskWords = true ∧
       (s.cu 0).tasks = [] ++ [taskOne]) ∧
    (let s := { station with cus := [(0, warmCu), (3, { warmCu with tasks := [taskOne, taskOne] }), (1000, warmCu)] }
     (s.cu 0).shadows.length < 8 ∧ objectWords s 0 taskOne.ctx taskOne.ptr 16 = .ok taskWords ∧ taskFits s 0 1 15 taskWords = true ∧
       (s.cu 0).tasks = [] ∧ 3 ≠ 0 ∧ (stealOrder 0).find? (fun k => match (s.cu k).tasks.head? with
         | some u => s.blocks.any fun b => b.2.ctx == u.ctx && 48 * b.2.die + b.2.cu == 0
         | none => false) = some 3 ∧ (s.cu 3).tasks = taskOne :: [taskOne]) ∧
    (let s := station.onCtx 1 fun c => { c with taskSpilled := [taskOne] }
     ∃ y, (s.cu 0).tasks = [] ∧ (stealOrder 0).find? (mayLose s 0) = none ∧
       s.contexts.find? (fun u => u.2.taskSpilled.any fun v => v.mayCome 0) = some (1, y) ∧
       y.taskSpilled.find? (fun v => v.mayCome 0) = some taskOne) ∧
    (let s := { station with cus := [(0, { warmCu with shadows := [shadowOne] }), (1000, warmCu)] }
     (s.cu 0).shadows[0]? = some shadowOne ∧ inputPlaces s 0 shadowOne 0 = .ok (bytesFrom 256 0x41000) ∧
       (∀ p ∈ bytesFrom 256 0x41000, p.isRemote = false) ∧ shadowOne.spad = [] ∧ rising s.gangs = true) := by
  simp only [ok_iff]
  refine ⟨by decide +kernel, by decide +kernel, ⟨_, by decide +kernel, by decide +kernel, rfl, by decide +kernel⟩, by decide +kernel⟩

/-- The header of an image of one block of 40 lanes in two gangs, version 1 of the table of object 2 (R283). -/
def headerOne : List W64 := [word (0x4B49 * 2 ^ 48 + 2 ^ 40), ownPtr 2 + 0xC00, word (2 ^ 56 + 4), 0, word (2 ^ 32 + 1), 1, 40,
  word (2 ^ 32 + 40), word (40 * 2 ^ 32 + 1), 0x7070, 2, 0, 0, 512, word (2 ^ 40 + 512), 512] ++ List.replicate 16 5

/-- A grid of it, the block not yet placed. -/
def gridOne : Grid := ⟨1, ownPtr 3, ownPtr 2 + 0xC00, 1, headerOne, [⟨4095, false, 0, 0⟩], 0, 15, [0], [], [], [], 0, 0, false, false, 0, []⟩

/-- A grid of two such blocks. -/
def gridTwo : Grid := { gridOne with header := headerOne.set 4 (word (2 ^ 32 + 2)), unstarted := [0, 1] }

theorem met_blockPlace :
    let s := { station with grids := [(9, gridOne)] }
    s.grid? 9 = some gridOne ∧ gridOne.away = false ∧ gridOne.coop = false ∧ together s gridOne 0 = some [.start 0] ∧
    frontNext s gridOne 0 = some 0 ∧ ctxTurn s 1 = true ∧
    ∃ e, startEntry s gridOne = some e ∧ khMir e = false ∧ fits s 5 2 (ihNeed gridOne.header 0) false = true ∧
      slotsGood s 5 2 (ihNeed gridOne.header 0).gangs [15, 0] = true ∧
      vatAllowed { s with fresh := s.fresh + 2 + ihBlocks gridOne.header } gridOne
        (vatFits { s with fresh := s.fresh + 2 + ihBlocks gridOne.header } 9 e (clusterName s.fresh gridOne) [.start 0]) (5 / 48, 5 % 48 / 4) = true := by
  refine ⟨rfl, rfl, rfl, by decide +kernel, by decide +kernel, by decide +kernel, ?_⟩
  have h : ((startEntry { station with grids := [(9, gridOne)] } gridOne).any fun e => decide (khMir e = false ∧
      fits { station with grids := [(9, gridOne)] } 5 2 (ihNeed gridOne.header 0) false = true ∧
      slotsGood { station with grids := [(9, gridOne)] } 5 2 (ihNeed gridOne.header 0).gangs [15, 0] = true ∧
      vatAllowed { { station with grids := [(9, gridOne)] } with fresh := 2 + ihBlocks gridOne.header } gridOne
        (vatFits { { station with grids := [(9, gridOne)] } with fresh := 2 + ihBlocks gridOne.header } 9 e (clusterName 0 gridOne) [.start 0])
        (0, 1) = true)) = true := by decide +kernel
  obtain ⟨e, he, h⟩ := some_exists _ _ h
  exact ⟨e, he, of_decide_eq_true h⟩

/-- A grid that is over, owing a completion word. -/
def gridDone : Grid := { gridOne with unstarted := [], completions := [⟨4095, false, ownPtr 3 + 8, 77⟩] }

/-- Context 1 among two, of which the other may wait for CUs; its save area is object 3. -/
def sliced (x : Grid) : State := { station with
  gangs := [], blocks := [], grids := [(9, x)]
  contexts := [(1, { loadedContext with saveArea := ownPtr 3 }), (2, { loadedContext with slot := 2 })] }

theorem met_saves :
    (({ gridOne with away := true } : Grid).away = true) ∧
    (together { station with grids := [(9, gridTwo)] } gridTwo 1 = some [.start 1] ∧
      inOrder { station with grids := [(9, gridTwo)] } gridTwo 0 [.start 1] = false) ∧
    ctxTurn { (sliced { gridOne with ctx := 2 }).onCtx 1 (fun c => { c with prio := 0 }) with ctxRr := [(0, 2)] } 1 = false ∧
    (gridOver { gridOne with unstarted := [] } = true ∧ gridOver gridOne = false) ∧
    (let s := { station with grids := [(9, gridDone)], dies := [(0, Die.reset)] }
     s.grid? 9 = some gridDone ∧ gridOver gridDone = true ∧
       translate s frontEnd gridDone.ctx (ownPtr 3 + 8) .write false true 8 = .ok (bytesFrom 8 0x50008) ∧ (bytesFrom 8 0x50008).length = 8 ∧
       (bytesFrom 8 0x50008).Nodup ∧ s.rind = [] ∧ rising s.dies = true) ∧
    (let s := sliced gridOne
     s.grids = [(9, gridOne)] ∧ gridOne.away = false ∧ gridOne.saved = [] ∧ (∀ g ∈ s.gangs, g.2.ctx ≠ 1) ∧ (∀ b ∈ s.blocks, b.2.grid ≠ 9) ∧
       (∃ c, s.ctx? 1 = some c)) ∧
    (∃ c, (sliced { gridOne with ctx := 2 }).ctx? 1 = some c ∧ ∃ y ∈ (sliced { gridOne with ctx := 2 }).contexts,
      y.1 ≠ 1 ∧ c.prio ≤ y.2.prio ∧ wantsCus (sliced { gridOne with ctx := 2 }) y.1 = true) ∧
    (∃ c, (sliced gridOne).ctx? 1 = some c ∧ ∀ y ∈ (sliced gridOne).contexts, y.1 ≠ 1 → c.prio ≤ y.2.prio →
      wantsCus (sliced gridOne) y.1 = false) ∧
    (warmCu.emergency = none) ∧
    (let bs := List.replicate 64 (3 : Byte)
     let s := { station with cus := [(0, { warmCu with emergency := some (1, [(ownPtr 3 + 0x200, bs)]) }), (1000, warmCu)] }
     (s.cu 0).emergency = some (1, [(ownPtr 3 + 0x200, bs)]) ∧ (∀ u ∈ s.cus, u.1 ≠ 0 → u.2.emergency = none) ∧ rising s.cus = true ∧
       (∃ c, s.ctx? 1 = some c) ∧ ptrOff (ownPtr 3 + 0x200) + bs.length ≤ imageRoom s 1 (ownPtr 3 + 0x200) ∧
       translate s frontEnd 1 (ownPtr 3 + 0x200) .write false false bs.length = .ok (bytesFrom 64 0x50200) ∧
       (bytesFrom 64 0x50200).length = bs.length ∧ (bytesFrom 64 0x50200).Nodup) := by
  refine ⟨rfl, by decide +kernel, by decide +kernel, by decide, ?_, ⟨rfl, rfl, rfl, by decide, by decide, _, rfl⟩,
    ⟨_, rfl, (2, { loadedContext with slot := 2 }), by decide, by decide, by decide, by decide⟩, ⟨_, rfl, by decide⟩, rfl,
    ⟨rfl, by decide +kernel, by decide +kernel, ⟨_, rfl⟩, by decide +kernel, ?_⟩⟩
  · simp only [ok_iff]; and_intros <;> decide +kernel
  · simp only [ok_iff]; and_intros <;> decide +kernel

/-- The cells of some words. -/
def cellsAt (a : Nat) (ws : List W64) : List Host.Cell :=
  ((List.range (8 * ws.length)).zip (wordsBytes ws)).filterMap fun x => if x.2 = 0 then none else some (a + x.1, x.2)

/-- Queue 5 of context 1 with a ring at 0x5000 of object 2, and its sibling 6 (R274). -/
def queueFive : Queue := ⟨ownPtr 2 + 0x5000, 1, 0, 4, 0, 1, true, 6, ownPtr 3 + 0x40, 0, [], 0, none⟩

def queueSix : Queue := ⟨ownPtr 2 + 0x6000, 1, 0, 4, 0, 1, false, 0, ownPtr 3 + 0x80, 0, [], 0, none⟩

/-- The world with one packet pending in queue 5. -/
def withPacketIn (x : Queue) (ws : List W64) : State := { station with
  mem := recordCells ++ entryCells ++ dataCells ++ cellsAt 0x45000 ws ++ cellsAt 0x50000 headerOne ++ [(0x50204, 1)] ++ [(wakeKey 5, 1)]
  queues := [(5, x), (6, queueSix)] }

/-- The packets: NOP, SIGNAL set and add, WAITV that holds and that waits, WRITEV, FLUSHC of a range and of an invalid object, RESYNC, a
bad one, RESUME of a good image and at an offset in it. -/
def pkNop : List W64 := List.replicate 8 0
def pkSet : List W64 := [word (2 + 5 * 2 ^ 10), ownPtr 3 + 0x100, 9, 0, 0, 0, 0, 0]
def pkAdd : List W64 := [word (2 + 2 ^ 8 + 4 * 2 ^ 10), ownPtr 3 + 0x100, 9, 0, 0, 0, 0, 0]
def pkWait (v : W64) : List W64 := [3, ownPtr 3 + 0x100, v, 0, 0, 0, 0, 0]
def pkWrite : List W64 := [word (4 + 3 * 2 ^ 8), ownPtr 3 + 0x100, 9, 0, 0, 0, 0, 0]
def pkFlush (o : Nat) (n : W64) : List W64 := [5, ownPtr o, n, 0, 0, 0, 0, 0]
def pkSync : List W64 := [6, ownPtr 3 + 0x1000, 0, 0, 0, 0, 0, 0]
def pkBad : List W64 := [7, 0, 0, 0, 0, 0, 0, 0]
def pkResume (o : W64) : List W64 := [1, ownPtr 3 + o, 0, 0, 0, 0, 0, 0]

/-- The queue is served and the packet at rd is as given. -/
def Here (s : State) (q : Nat) (x : Queue) (ws : List W64) : Prop :=
  s.queue? q = some x ∧ x.state = 1 ∧ servedQueue s = some q ∧ x.handlers = [] ∧ wakeBad x (wakeWord s q) = false ∧ ringPacket s x = .ok ws

theorem met_packetsServed : ∀ ws ∈ [pkNop, pkSet, pkAdd, pkWait 0, pkWait 1, pkWrite, pkFlush 3 256, pkFlush 60 0, pkSync, pkBad, pkResume 0,
    pkResume 0x100], Here (withPacketIn queueFive ws) 5 queueFive ws := by
  simp only [Here, ok_iff]; decide +kernel

theorem met_packets :
    (pkType pkNop = 0 ∧ packetBad pkNop = none) ∧
    (let s := withPacketIn queueFive pkSet
     pkType pkSet = 2 ∧ packetBad pkSet = none ∧ fld (pkSet.getD 0 0) 9 8 = 0 ∧ s.rind = [] ∧ rising s.dies = true ∧
     translate s frontEnd 1 (ownPtr 3 + 0x100) .write (fld (pkSet.getD 0 0) 12 10 == 5) true 8 = .ok (bytesFrom 8 0x50100)) ∧
    (let s := withPacketIn queueFive pkAdd
     pkType pkAdd = 2 ∧ packetBad pkAdd = none ∧ fld (pkAdd.getD 0 0) 9 8 = 1 ∧ (∀ y ∈ s.dies, y.2.l2 = [] ∧ y.2.rennet = [] ∧ y.2.overflow = []) ∧
     translate s frontEnd 1 (ownPtr 3 + 0x100) .write (fld (pkAdd.getD 0 0) 12 10 == 5) true 8 = .ok (bytesFrom 8 0x50100)) ∧
    (let bs := List.replicate 8 (0 : Byte)
     pkType (pkWait 0) = 3 ∧ packetBad (pkWait 0) = none ∧ frontRead (withPacketIn queueFive (pkWait 0)) 1 (ownPtr 3 + 0x100) 8 = .ok bs ∧
     waitHolds (pkWait 0) (bytesW64 bs) = true ∧ pkType (pkWait 1) = 3 ∧ packetBad (pkWait 1) = none ∧
     frontRead (withPacketIn queueFive (pkWait 1)) 1 (ownPtr 3 + 0x100) 8 = .ok bs ∧ waitHolds (pkWait 1) (bytesW64 bs) = false) ∧
    (pkType pkWrite = 4 ∧ packetBad pkWrite = none ∧ translate (withPacketIn queueFive pkWrite) frontEnd 1 (ownPtr 3 + 0x100) .write false true
      (2 ^ fld (pkWrite.getD 0 0) 10 8) = .ok (bytesFrom 8 0x50100)) ∧
    (let s := withPacketIn queueFive (pkFlush 3 256)
     pkType (pkFlush 3 256) = 5 ∧ packetBad (pkFlush 3 256) = none ∧ invalidObject s frontEnd 1 (ownPtr 3) = none ∧ isRemote s (ownPtr 3) = false ∧
     (rangeKeys s frontEnd 1 (ownPtr 3) 256).isSome = true ∧ Memory.wf s.mem = true ∧ rising s.cus = true) ∧
    (pkType (pkFlush 60 0) = 5 ∧ packetBad (pkFlush 60 0) = none ∧ (invalidObject (withPacketIn queueFive (pkFlush 60 0)) frontEnd 1 (ownPtr 60)).isSome = true) ∧
    (packetBad pkBad = some 0) := by
  simp only [ok_iff]; and_intros <;> decide +kernel

theorem allOk_append {ε α : Type} (xs ys : List (Except ε α)) (as bs : List α) (hx : allOk xs = .ok as) (hy : allOk ys = .ok bs) :
    allOk (xs ++ ys) = .ok (as ++ bs) := by
  induction xs generalizing as with
  | nil => simp only [allOk, Except.ok.injEq] at hx; subst hx; simpa using hy
  | cons x xs ih =>
    cases x with
    | error e => simp [allOk] at hx
    | ok a =>
      simp only [allOk] at hx
      cases hr : allOk xs with
      | error e => simp [hr] at hx
      | ok cs =>
        simp only [hr, Except.ok.injEq] at hx
        subst hx
        simp [allOk, ih cs hr]

/-- An access whose every byte has a place has them all. -/
theorem allPlaced_iff (rs : List (Except Miss Place)) (ps : List Place) : allPlaced rs = .ok ps ↔ allOk rs = .ok ps := by
  unfold allPlaced
  split
  · exact Iff.rfl
  · next m ms h =>
    refine ⟨(fun h' => by cases h'), fun h' => ?_⟩
    have hn : ∀ (rs : List (Except Miss Place)) ps, allOk rs = .ok ps → ∀ r ∈ rs, ∃ p, r = .ok p := by
      intro rs
      induction rs with
      | nil => intro _ _ r hr; cases hr
      | cons r rs ih =>
        intro ps hp
        cases r with
        | error e => cases hp
        | ok a =>
          simp only [allOk] at hp
          cases hr : allOk rs with
          | error e => simp [hr] at hp
          | ok cs => simpa using ih cs hr
    have hm : m ∈ m :: ms := by simp
    rw [← h] at hm
    obtain ⟨r, hr, h2⟩ := List.mem_filterMap.mp hm
    obtain ⟨p, rfl⟩ := hn rs ps h' r hr
    cases h2

/-- Two pieces of an object that follow one another translate as one. -/
theorem translate_append (s : State) (cu ctx : Nat) (p q : W64) (k : Kind) (rcv : Bool) (n m : Nat) (xs ys : List Place)
    (hr : isRemote s p = false) (hq : isRemote s q = false) (hn : ptrNode q = ptrNode p) (ho : ptrObj q = ptrObj p)
    (hf : ptrOff q = ptrOff p + n) (hx : translate s cu ctx p k rcv false n = .ok xs) (hy : translate s cu ctx q k rcv false m = .ok ys) :
    translate s cu ctx p k rcv false (n + m) = .ok (xs ++ ys) := by
  have hl : ∀ r, linearBytes r (ptrOff p) (n + m) = linearBytes r (ptrOff p) n ++ linearBytes r (ptrOff q) m := by
    intro r
    simp only [linearBytes, List.range_add, List.map_append, List.map_map, hf]
    congr 1
    apply List.map_congr_left
    intro i _
    simp [Nat.add_assoc]
  unfold Machine.translate at hx hy ⊢
  simp only [hr, hq, Bool.false_eq_true, if_false] at hx hy ⊢
  rw [hn, ho] at hy
  cases h : findRecord s cu ctx (ptrNode p) (ptrObj p) with
  | error e => simp [h] at hx
  | ok r =>
    simp only [h, hl] at hx hy ⊢
    unfold translateBytes at hx hy ⊢
    simp only [Bool.false_and, Bool.false_eq_true, if_false] at hx hy ⊢
    by_cases h2 : (r.state == 2) = true
    · simp [h2] at hx
    · simp only [h2, Bool.false_eq_true, if_false] at hx hy ⊢
      cases hp : permitted r k rcv with
      | error e => simp [hp] at hx
      | ok u =>
        simp only [hp, shapeBytes, List.mapM_append] at hx hy ⊢
        cases h3 : (linearBytes r (ptrOff p) n).mapM (fun cb => shapeByte r cb.1 cb.2) with
        | none => simp [h3] at hx
        | some as =>
          cases h4 : (linearBytes r (ptrOff q) m).mapM (fun cb => shapeByte r cb.1 cb.2) with
          | none => simp [h4] at hy
          | some bs =>
            simp only [h3, h4] at hx hy
            by_cases h5 : as.any (beyondMap r) = true
            · simp [h5] at hx
            · by_cases h6 : bs.any (beyondMap r) = true
              · simp [h6] at hy
              · simp only [h5, h6, Bool.false_eq_true, if_false] at hx hy
                simp only [Option.bind_eq_bind, Option.bind_some, Option.pure_def, List.any_append, h5, h6, Bool.or_self, if_false,
                  Bool.false_eq_true, List.map_append]
                exact (allPlaced_iff _ _).mpr (allOk_append _ _ _ _ ((allPlaced_iff _ _).mp hx) ((allPlaced_iff _ _).mp hy))

theorem translate_pieces (s : State) (cu ctx : Nat) (p : W64) (k : Kind) (a n : Nat)
    (h : ∀ i < n + 1, isRemote s (p + word (64 * i)) = false ∧ ptrNode (p + word (64 * i)) = ptrNode p ∧
      ptrObj (p + word (64 * i)) = ptrObj p ∧ ptrOff (p + word (64 * i)) = ptrOff p + 64 * i ∧
      translate s cu ctx (p + word (64 * i)) k false false 64 = .ok (bytesFrom 64 (a + 64 * i))) :
    translate s cu ctx p k false false (64 * (n + 1)) = .ok (bytesFrom (64 * (n + 1)) a) := by
  have h0 : p + word (64 * 0) = p := by simp [word]
  induction n with
  | zero =>
    have h1 := (h 0 (by decide)).2.2.2.2
    rw [h0, Nat.mul_zero, Nat.add_zero] at h1
    exact h1
  | succ n ih =>
    have hx := ih fun i hi => h i (by omega)
    obtain ⟨hq, hn, ho, hf, hy⟩ := h (n + 1) (by omega)
    have hr := (h 0 (by omega)).1
    rw [h0] at hr
    have hb : bytesFrom (64 * (n + 1) + 64) a = bytesFrom (64 * (n + 1)) a ++ bytesFrom 64 (a + 64 * (n + 1)) := by
      simp only [bytesFrom, List.range_add, List.map_append, List.map_map]
      simp [Function.comp_def, Nat.add_assoc]
    rw [show 64 * (n + 1 + 1) = 64 * (n + 1) + 64 from by omega, hb]
    exact translate_append s cu ctx p _ k false _ _ _ _ hr hq hn ho hf hx hy

theorem length_flatMap_of {α β : Type} (f : α → List β) (n : Nat) (l : List α) (h : ∀ x ∈ l, (f x).length = n) :
    (l.flatMap f).length = n * l.length := by
  induction l with
  | nil => rfl
  | cons x l ih =>
    rw [List.flatMap_cons, List.length_append, h x (by simp), ih fun y hy => h y (by simp [hy]), List.length_cons, Nat.mul_succ, Nat.add_comm]

theorem resyncSummary_length (s : State) : (resyncSummary s).length = 4096 := by
  have hn : ∀ n v, (natBytes n v).length = n := by
    intro n; induction n with
    | zero => intro v; rfl
    | succ n ih => intro v; simp [natBytes, ih]
  have hw : ∀ w, (w64Bytes w).length = 8 := fun w => hn 8 _
  have hc : ∀ i, (contextEntry s i).length = 3 := by
    intro i; unfold contextEntry; split <;> rfl
  have hws : ∀ ws, (wordsBytes ws).length = 8 * ws.length := fun ws => length_flatMap_of _ 8 ws fun w _ => hw w
  have hm : ∀ p, (queueMap s p).length = 512 := fun p => by simp [queueMap]
  have hq : ∀ a b c, (quote a b c).length = 832 := by
    intro a b c
    simp only [quote, List.length_append, hw, List.length_map, List.length_range, List.length_replicate]
    rw [length_flatMap_of _ 64 _ fun n _ => by simp]
    simp
  simp only [resyncSummary, List.length_append, hw, hn, hm, hq, List.length_replicate]
  rw [length_flatMap_of _ 24 _ fun i _ => by rw [hws, hc], length_flatMap_of _ 8 _ fun i _ => hw _, length_flatMap_of _ 8 _ fun i _ => hw _]
  simp

theorem met_resync :
    let s := withPacketIn queueFive pkSync
    pkType pkSync = 6 ∧ packetBad pkSync = none ∧ (∃ c, s.ctx? 1 = some c ∧ c.system = true) ∧ (resyncSummary s).length = 4096 ∧
    translate s frontEnd 1 (ownPtr 3 + 0x1000) .write false false 4096 = .ok (bytesFrom 4096 0x51000) ∧ (bytesFrom 4096 0x51000).Nodup ∧
    (∀ p ∈ bytesFrom 4096 0x51000, ∃ k, p = .phys k ∧ inHbm k = true) ∧
    ∃ c, (s.onCtx 1 fun c => { c with system := false }).ctx? 1 = some c ∧ c.system = false := by
  refine ⟨by decide, by decide, ⟨_, rfl, rfl⟩, resyncSummary_length _, ?_, bytesFrom_nodup _ _, direct_of _ _ (by decide), _, rfl, rfl⟩
  refine translate_pieces _ _ _ _ _ _ 63 fun i hi => ?_
  rw [ok_iff]; revert i; decide +kernel

theorem code_iff {α : Type} (x : Except Refuse α) (m : Refuse) : x = .error m ↔ (match x with | .ok _ => none | .error m => some m) = some m := by
  cases x <;> simp

theorem met_resume :
    (let s := withPacketIn queueFive (pkResume 0)
     pkType (pkResume 0) = 1 ∧ packetBad (pkResume 0) = none ∧ ∃ u, checkPoints s 1 = some u ∧ resumable u 1 (ownPtr 3) = .ok () ∧
       ∃ h, checkImage u 1 (ownPtr 3) = .ok h ∧ unstartedOf h ≠ []) ∧
    (let s := withPacketIn queueFive (pkResume 0x100)
     pkType (pkResume 0x100) = 1 ∧ packetBad (pkResume 0x100) = none ∧ ∃ u, checkPoints s 1 = some u ∧ resumable u 1 (ownPtr 3 + 0x100) = .ok () ∧
       checkImage u 1 (ownPtr 3 + 0x100) = .error (.code hcImgbad 0)) := by
  have h : ((checkPoints (withPacketIn queueFive (pkResume 0)) 1).any fun u => decide (held? (resumable u 1 (ownPtr 3)) = some ()) &&
      okAnd (checkImage u 1 (ownPtr 3)) fun h => decide (unstartedOf h ≠ [])) = true := by decide +kernel
  have h' : ((checkPoints (withPacketIn queueFive (pkResume 0x100)) 1).any fun u =>
      decide (held? (resumable u 1 (ownPtr 3 + 0x100)) = some () ∧
        (match checkImage u 1 (ownPtr 3 + 0x100) with | .ok _ => none | .error m => some m) = some (.code hcImgbad 0))) = true := by decide +kernel
  obtain ⟨u, hu, h⟩ := some_exists _ _ h
  obtain ⟨u', hu', h'⟩ := some_exists _ _ h'
  simp only [Bool.and_eq_true, decide_eq_true_eq] at h h'
  obtain ⟨x, hx, h2⟩ := ok_exists h.2
  exact ⟨⟨by decide, by decide, u, hu, (ok_iff _ _).mpr h.1, x, hx, of_decide_eq_true h2⟩, by decide, by decide, u', hu',
    (ok_iff _ _).mpr h'.1, (code_iff _ _).mpr h'.2⟩

/-- A packet for a handler is due. -/
def queueDue : Queue := { queueFive with handlers := [[word (7 + 256), 6, 0, 0, 1, 0, 0, 0]] }

/-- A descriptor of a queue (R274). -/
def descriptor : List W64 := [ownPtr 2 + 0x7000, word (4 * 2 ^ 32), word (2 ^ 32), ownPtr 3, 0, 0, 0, 0]

theorem met_queueServices :
    (let s := withPacketIn queueDue pkNop
     s.queue? 5 = some queueDue ∧ queueDue.state = 1 ∧ servedQueue s = some 5 ∧ queueDue.handlers = [word (7 + 256), 6, 0, 0, 1, 0, 0, 0] :: [] ∧
       translate s frontEnd queueDue.ctx queueDue.hrec .write false false 64 = .ok (bytesFrom 64 0x50040)) ∧
    (let s := { withPacketIn queueDue pkNop with
       cus := [(0, warmCu), (1000, { warmCu with ttc := [(1, 2, 0, word (2 ^ 56 + 4 * 2 ^ 16 + 65535)), (1, 3, 0, word (2 ^ 56 + 5 * 2 ^ 16))] })] }
     s.queue? 5 = some queueDue ∧ servedQueue s = some 5 ∧
       translate s frontEnd queueDue.ctx queueDue.hrec .write false false 64 = .error (.notres 0 0)) ∧
    (let s := withPacketIn queueFive pkNop
     s.powered = true ∧ (∀ d ∈ s.dies, ∀ y ∈ d.2.l2, inFlags y.1 = false) ∧ wakeBad queueFive 16 = false ∧ wakeBad queueFive 17 = true) ∧
    (let x := { queueFive with state := 2 }
     (let s := withPacketIn x (pkWait 0)
      s.queue? 5 = some x ∧ ringPacket s x = .ok (pkWait 0) ∧ frontRead s 1 (ownPtr 3 + 0x100) 8 = .ok (List.replicate 8 0) ∧
        waitHolds (pkWait 0) (bytesW64 (List.replicate 8 0)) = true) ∧
     (let s := withPacketIn x (pkWait 1)
      s.queue? 5 = some x ∧ ringPacket s x = .ok (pkWait 1) ∧ frontRead s 1 (ownPtr 3 + 0x100) 8 = .ok (List.replicate 8 0) ∧
        waitHolds (pkWait 1) (bytesW64 (List.replicate 8 0)) = false)) ∧
    (let s := { withPacketIn queueFive pkNop with rdy := true }
     s.rdy = true ∧ s.queue? 7 = none ∧ (queueOf s descriptor).isSome = true ∧ queueOf s [] = none ∧ (s.queue? 5).isSome = true) ∧
    (let x : Queue := { queueFive with state := 3, waitGrid := some 9 }
     let s := { withPacketIn x pkNop with rdy := true }
     s.rdy = true ∧ s.queue? 5 = some x ∧ s.queue? 6 = some queueSix ∧ queueSix.state ≠ 3 ∧ queueSix.waitGrid = none ∧ s.grid? 9 = none ∧
       s.recoveries = [] ∧ ({ s with grids := [(9, gridOne)] } : State).grid? 9 = some gridOne) ∧
    (withPacketIn queueFive pkNop).rdy = false := by
  simp only [ok_iff, fault_iff]; and_intros <;> decide +kernel

/-- The world with the firmware serving the mailbox. -/
def service : State := { station with rdy := true, stage := 6 }

/-- Object 2's record. -/
def recordTwo : List W64 := bytesWords 16 (coherentBytes service 0x10100 128)

/-- The attributes of a context whose object table is at 0x800000 (R282, R394). -/
def attributes : List W64 := [1, 100, 1, 0, 0, 0x800000, 64, 0, 0, 0]

/-- A byte of memory changed. -/
def withCell (s : State) (k : Nat) (b : Byte) : State := { s with mem := s.mem.map fun c => if c.1 = k then (k, b) else c }

/-- The record that the object service writes for object 2, and for an object 7 whose tile map is at 0x30000. -/
def newTwo : List W64 := word (fld (recordTwo.getD 0 0) 63 0) :: recordTwo.drop 1

def newSeven : List W64 := word (2 ^ 32 + fld (recordTwo.getD 0 0) 31 0) :: (recordTwo.drop 1).set 6 0x30000

theorem met_recordWrites : ∃ x, service.ctx? 1 = some x ∧ 7 < x.otLen ∧ recordAt x 2 = 0x10100 ∧ recordAt x 7 = 0x10380 ∧
    recordNow service x 2 = recordTwo ∧ service.rdy = true ∧ station.rdy = false ∧
    (service.publishing = [] ∧ service.moves = [] ∧ service.rebuilds = [] ∧ service.poison = [] ∧ service.rind = []) ∧
    (newTwo.length = 16 ∧ Record.state newTwo = 1 ∧ Record.mirror newTwo = 0 ∧ Record.state recordTwo = 1 ∧
      Record.state (recordNow service x 7) = 0 ∧ Record.state newSeven = 1 ∧ Record.mirror newSeven = 0) ∧
    (∀ y ∈ [(2, newTwo, Record.rgen recordTwo), (7, newSeven, 1)],
      let new : Record := word (y.2.2 % 2 ^ 32 * 2 ^ 32 + fld (y.2.1.getD 0 0) 31 0) :: y.2.1.drop 1
      Record.tmap new % 8 = 0 ∧ (Record.tmap new + 8 * Record.tmlen new ≤ recordAt x y.1 ∨ recordAt x y.1 + 128 ≤ Record.tmap new) ∧
        framesGood (newMap (putRecord service x y.1 new) 1 y.1 (recordNow service x y.1) new) new = true) ∧
    (∃ e', serviceEntry service recordTwo (0, word (2 ^ 56 + 6 * 2 ^ 16 + 255)) = some (0, e') ∧
      framesGood (putEntry service recordTwo 0 e') recordTwo = true) ∧
    (∀ y ∈ [(0x20, 1), (0x40, 2), (0x60, 3)], Record.state (recordNow (withCell service 0x10103 y.1) x 2) = y.2 ∧
      Record.mirror (recordNow (withCell service 0x10103 y.1) x 2) = 0) := by
  refine ⟨_, rfl, by decide, by decide, by decide, by decide +kernel, rfl, rfl, ⟨rfl, rfl, rfl, rfl, rfl⟩, ?_, by decide +kernel,
    ⟨word (2 ^ 56 + 6 * 2 ^ 16 + 255), by decide +kernel, by decide +kernel⟩, by decide +kernel⟩
  and_intros <;> decide +kernel

theorem met_shootdown : epochQuiet (drainAll service) = true ∧
    epochQuiet (drainAll { service with gangs := [(0, { inFlight [storeOne 5 2 true 0x41000] with remotes := [⟨7, [heldOne.acc], allLanes⟩] })] }) = false := by
  decide +kernel

theorem met_moves : ∃ x, settledRecord service 1 2 = some (x, recordTwo) ∧ recordNow service x 2 = recordTwo ∧
    (∀ g ∈ service.gangs, g.2.accesses = []) ∧ (∀ d ∈ service.dies, d.2.l2 = [] ∧ d.2.rennet = [] ∧ d.2.overflow = []) ∧
    rising service.dies = true ∧ Record.sysm recordTwo = false ∧ Record.du recordTwo = false ∧ 0 < Record.tmlen recordTwo ∧
    entState false (entryNow service recordTwo 0) = 1 ∧ entDamaged false (entryNow service recordTwo 0) = false ∧
    entFrame (entryNow service recordTwo 0) = 4 ∧ Record.tmap recordTwo + 8 ≤ 7 * 65536 ∧
    recordAt x 2 + 128 ≤ Record.tmap recordTwo ∧ entPresent (entryNow service recordTwo 0) 15 = true ∧
    (∀ y ∈ [(0x2000F, 2, 1), (0x10103, 0x80, 4)],
      let s := { withCell service y.1 y.2.1 with moves := [⟨1, 2, some 0, 7⟩] }
      s.ctx? 1 = some x ∧ Record.state (recordNow s x 2) = y.2.2 ∧ Record.sysm (recordNow s x 2) = false ∧
        (y.2.2 = 1 → entState false (entryNow s (recordNow s x 2) 0) = 2) ∧
        (∀ c ∈ s.cus, c.2.replay = [] ∧ c.2.replayWait = []) ∧ s.dies = [] ∧ s.outside = [] ∧ s.rind = []) ∧
    (∀ p ∈ [([] : List Nat), [0x202]],
      let s := { service with rebuilds := [⟨1, 2, none, recordAt x 2⟩], poison := p }
      s.ctx? 1 = some x ∧ x.otBase % 128 = 0 ∧ recordAt x 2 + 128 ≤ 2 ^ 40 ∧ damagedAt s (recordAt x 2) 128 = !p.isEmpty ∧ s.rind = [] ∧
        (∀ c ∈ s.cus, c.2.replay = [] ∧ c.2.replayWait = []) ∧ s.dies = []) := by
  have h : settledRecord service 1 2 = some ({ loadedContext with tlog := ownPtr 2 + 0x100, cstore := ownPtr 2 + 0x800 }, recordTwo) := by
    decide +kernel
  refine ⟨_, h, ?_⟩
  and_intros <;> decide +kernel

theorem met_firmware :
    (let s := { service with stage := 3 }
     s.stage = 3 ∧ rindGood s 0 (2 ^ 30) none = true ∧ rindGood s 0 1 none = false) ∧
    (5 ∉ service.poison ∧ 5 ∈ ({ service with poison := [5] } : State).poison ∧ service.rind = []) ∧
    (∀ e ∈ service.exports, e.1 ≠ 3 → 65536 ≤ e.2.off ∨ e.2.off + e.2.len ≤ 0) ∧
    (5 ≤ service.stage ∧ service.ctx? 2 = none ∧ (∀ z ∈ service.contexts, z.2.slot ≠ 3) ∧ (contextOf 3 attributes []).isSome = true) ∧
    (let s := { service with heldContexts := [(2, 3, [(0, 7)])] }
     s.heldContexts.find? (fun h => h.1 == 2) = some (2, 3, [(0, 7)]) ∧ (contextOf 3 attributes [(0, 7)]).isSome = true) ∧
    (service.gang? 0 = some gInt ∧ gInt.ctx = 1 ∧ gInt.vtab = 0 ∧ gInt.xferPend = false ∧ gXfer.xferPend = true) ∧
    (curveGood hilbertTable = true ∧ curveGood [] = false) ∧
    (topologyGood [(1, [0, 15]), (383, [])] = true ∧ 4 ≤ service.stage) := by
  and_intros <;> decide +kernel

/-- The world with a sampler of context 1 at work. -/
def sampling : State := station.onCtx 1 fun x => { x with sampler := 1024 }

/-- The sample budget of die 0 spent, and not limited. -/
def sampleDie (lim spent : Nat) : Die := { Die.reset with limits := [(4, lim)], spent := [(4, spent)] }

theorem met_periodsAndResets :
    (∀ v ∈ (station.die 0).vats, v = Vat.reset) ∧ (station.die 0).vats.length = 12 ∧ (station.die 0).vats[11]? = some Vat.reset ∧
    (∃ x, sampling.ctx? 1 = some x ∧ x.sampler ≠ 0) ∧
    leastBy (fun y => roundFrom (sampling.quarter 0).samplePos 16 y.2.slot) ((gangsOn sampling 0).filter fun y => y.2.ctx == 1 && !y.2.killed) =
      some (0, gInt) ∧
    (let s := sampling.setDie 0 (sampleDie 1 1)
     getAt 0 (s.die 0).limits 4 ≠ 0 ∧ getAt 0 (s.die 0).limits 4 ≤ getAt 0 (s.die 0).spent 4) ∧
    (let s := sampling.setDie 0 (sampleDie 2 1)
     getAt 0 (s.die 0).spent 4 < getAt 0 (s.die 0).limits 4) ∧
    (let s := { service with contexts := [] }
     s.rdy = true ∧ s.contexts = [] ∧ s.recoveries = [] ∧ s.rind = [] ∧ rising (s.die 0).l2 = true) ∧
    (∀ g ∈ station.gangs, ∀ x ∈ g.2.sampled, x.finished = none) ∧
    (∃ r, (world.quarter 0).run = some r ∧ r.gang = 0) ∧ ((sampling.quarter 0).run = none ∧ ({ gInt with exited := allLanes } : Gang).liveLanes = 0) ∧
    ((∃ x, service.contexts = [(1, x)] ∧ affected service 0 (1, x) = true ∧ x.ckp = []) ∧ service.rind = [] ∧ service.recoveries = []) ∧
    service.powered = true ∧ service.outside = [] ∧ ({ service with powered := false } : State).powered = false ∧ { service with stage := 4 }.stage = 4 := by
  and_intros <;> first
    | decide +kernel
    | exact ⟨_, rfl, by decide +kernel⟩

/-- BAR2 shows 64 KiB of object 2 at 0x10000. -/
def exporting : State := { station with exports := [(4, ⟨0x10000, 0x10000, ownPtr 2, 1⟩)], ports := [(15, ⟨true, 0, [7]⟩)] }

/-- Its entry maps nothing; its record is under rebuild; or the export names an object that is not there. -/
def exportMissing : State := { exporting with
  cus := [(0, warmCu), (1000, { warmCu with ttc := [(1, 2, 0, word (2 ^ 56 + 4 * 2 ^ 16))] })] }

def exportHeld : State := { exporting with rebuilds := [⟨1, 2, none, 0x10100⟩] }

def exportWrong : State := { exporting with exports := [(4, ⟨0x10000, 0x10000, ownPtr 60, 1⟩)] }

theorem met_host :
    (∀ s ∈ [exporting, exportMissing, exportHeld, exportWrong], s.powered = true ∧ s.outside.any isHost = false ∧ s.exports.length = 1) ∧
    (∀ d ∈ exporting.dies, d.2.l2 = [] ∧ d.2.rennet = [] ∧ d.2.overflow = []) ∧ exporting.rind = [] ∧ rising exporting.dies = true ∧
    exporting.exports = [(4, ⟨0x10000, 0x10000, ownPtr 2, 1⟩)] ∧ (0x10000 ≤ 0x1FFF8) ∧ 0x1FFF8 + 8 ≤ 0x10000 + 0x10000 ∧
    translate exporting frontEnd 1 (ownPtr 2 + word (0x1FFF8 - 0x10000)) .read false false 8 = .ok (bytesFrom 8 0x4FFF8) ∧
    translate exporting frontEnd 1 (ownPtr 2 + word (0x1FFF8 - 0x10000)) .write false false 8 = .ok (bytesFrom 8 0x4FFF8) ∧
    translate exporting frontEnd 1 (ownPtr 2 + word (0x1FFF8 - 0x10000)) .atomic false false 8 = .ok (bytesFrom 8 0x4FFF8) ∧
    translate exportMissing frontEnd 1 (ownPtr 2 + word (0x1FFF8 - 0x10000)) .read false false 8 = .error (.notres 0 15) ∧
    translate exportHeld frontEnd 1 (ownPtr 2 + word (0x1FFF8 - 0x10000)) .read false false 8 = .error (.hold none) ∧
    translate exportHeld frontEnd 1 (ownPtr 2 + word (0x1FFF8 - 0x10000)) .write false false 8 = .error (.hold none) ∧
    translate exportWrong frontEnd 1 (ownPtr 60 + word (0x1FFF8 - 0x10000)) .read false false 8 = .error (.fault .objinv 2) ∧
    (∀ p ∈ bytesFrom 8 0x4FFF8, p.isRemote = false ∧ (match p with
      | .phys k => decide (k < 2 ^ 40)
      | _ => false) = true) ∧ (0x10000 + 0x10000 < 0x1FFF8 + 9) ∧ 0x4FFF8 % 8 = 0 ∧ 0x1FFF8 % 8 = 0 ∧
    ({ exporting with outside := [.hostBar2Read 0 8] } : State).outside.any isHost = true ∧ isHost (.hostBar2Read 8 8) = true := by
  simp only [ok_iff, fault_iff]; and_intros <;> decide +kernel

theorem tidy_exporting : Tidy exporting := tidy_of (by simp only [exporting, station, holding]; exact world_memory) rfl rfl rfl

theorem met_remote :
    exporting.powered = true ∧ rising exporting.dies = true ∧
    (exporting.port 15).up = true ∧ 7 ∈ (exporting.port 15).tags ∧ 8 ∉ (exporting.port 15).tags ∧ 5000 ∉ (exporting.port 15).tags ∧
    decide (8 < 4096) = true ∧ decide (5000 < 4096) = false ∧ word (fld (ownPtr 2 + 8) 54 0 + 511 * 2 ^ 55) = ownPtr 2 + 8 ∧
    (∀ strong ∈ [true, false],
      translate exporting frontEnd 1 (ownPtr 2 + 8) .read false strong (2 ^ (3 * 256 / 256 % 4)) = .ok (bytesFrom 8 0x40008) ∧
      translate exporting frontEnd 1 (ownPtr 2 + 8) .write false strong (2 ^ ((3 * 256 + 1) / 256 % 4)) = .ok (bytesFrom 8 0x40008) ∧
      translate exporting frontEnd 1 (ownPtr 60) .read false strong 8 = .error (.fault .objinv 2) ∧
      translate exporting frontEnd 1 (ownPtr 60) .write false strong 8 = .error (.fault .objinv 2) ∧
      translate exportHeld frontEnd 1 (ownPtr 2 + 8) .read false strong 8 = .error (.hold none) ∧
      translate exportHeld frontEnd 1 (ownPtr 2 + 8) .write false strong 8 = .error (.hold none)) ∧
    (bytesFrom 8 0x40008).any (placePoisoned exporting) = false ∧ (bytesFrom 8 0x40008).Nodup ∧
    (3 * 256 % 256 = 0 ∧ (3 * 256 + 1) % 256 = 1 ∧ 255 % 256 = 255) ∧ (exporting.port 15).resends < 16 ∧
    16 ≤ ({ up := true, resends := 16, tags := [] } : Port).resends := by
  simp only [ok_iff, fault_iff]; and_intros <;> decide +kernel

/-- The loaded machine, about to issue IADD v3, v4, v5. -/
def running : State := State.reset.withFetchWord 32 ((encode (.iadd 3 4 5)).getD 0).toNat

theorem met_step : urgent running = none ∧ running.agenda = [] ∧ running.focus = some 0 ∧
    (running.quarter 0).run = some ⟨0, allLanes, 0, none⟩ ∧ running.gang? 0 = some loadedGang ∧ loadedGang.killed = false ∧
    allLanes &&& loadedGang.liveLanes &&& ~~~loadedGang.halted ≠ 0 ∧
    lowestLane (allLanes &&& loadedGang.liveLanes &&& ~~~loadedGang.halted) = 0 ∧ goodPc (loadedGang.pcOf 0) = true ∧
    loadedGang.parkOf 0 = .ready ∧ breakpointAt running loadedGang (loadedGang.pcOf 0) = false ∧ loadedGang.carried = none ∧
    (let bs := natBytes 4 0 ++ wordBytes ((encode (.iadd 3 4 5)).getD 0) ++ natBytes 8 0
     fetchPacket running loadedGang (loadedGang.pcOf 0) = .ok bs ∧ badControl bs = false ∧ fld (loadedGang.pcOf 0) 3 2 = 1 ∧
       decode (word32 (bytesNat ((bs.drop (4 * 1)).take 4))) = .ok (.iadd 3 4 5)) := by
  simp only [ok_iff]; and_intros <;> decide +kernel

theorem met_tidiness : Tidy running ∧ ∃ t, step running = .next t := by
  refine ⟨tidy_of (by decide +kernel) rfl rfl rfl, ?_⟩
  have h : (match step running with
    | .next _ => true
    | _ => false) = true := by decide +kernel
  split at h
  · next t ht => exact ⟨t, ht⟩
  · cases h

/-- Register v4 of lane 3 empty, v5 of lane 0 dead. -/
def gHoles : Gang := { gInt with v := [(131, ⟨0, .empty 9⟩), (160, ⟨0, .dead⟩)] }

/-- The world issuing an instruction for a gang under a control byte. -/
def hinted (g : Gang) (i : Instr) (c : Byte) : State :=
  { world with cur := some { issueOf allLanes i with ctl := c }, gangs := [(0, g)] }

def hintedEnv (g : Gang) (i : Instr) (c : Byte) : Env := { envAt g i with iss := { issueOf allLanes i with ctl := c } }

theorem envOf_hinted (g : Gang) (i : Instr) (c : Byte) (hb : g.block = 0) (hc : g.ctx = 1) :
    envOf (hinted g i c) = some (hintedEnv g i c) := by
  have h1 : tilesFor (hinted g i c) g = 16 := by simp only [tilesFor, hb]; rfl
  have h2 : systemContext (hinted g i c) g = true := by simp only [systemContext, hc]; rfl
  have h3 : envOf (hinted g i c) = some ⟨0, { issueOf allLanes i with ctl := c }, g, tilesFor (hinted g i c) g, systemContext (hinted g i c) g⟩ := rfl
  rw [h3, h1, h2]; rfl

theorem met_checks :
    (let i : Instr := .iadd 3 4 5
     isEvent i = false ∧ envOf (onWorld gInt i) = some (envAt gInt i) ∧ verdict (envAt gInt i) (operands (envAt gInt i) i) = .go ∧
       Sys2Proof.wellFormed i = true ∧ opcodeUnassigned (opcodeOf ((encode i).getD 0)) = false ∧ (encode i).isSome = true) ∧
    (let i : Instr := .iadd 111 4 5
     let g := { gInt with nrows := 104, wsize := 104 }
     envOf (onWorld g i) = some (envAt g i) ∧ fieldsOk (envAt g i) (operands (envAt g i) i) = false) ∧
    (let i : Instr := .bra 31 0 4
     envOf (onWorld gInt i) = some (envAt gInt i) ∧ fieldsOk (envAt gInt i) (operands (envAt gInt i) i) = true ∧
       (operands (envAt gInt i) i).target.any (badTarget (envAt gInt i).iss.pc) = true) ∧
    (let g := { gInt with gstat := 16, pc := setAt 0 gInt.pc 31 (ownPtr 1 + 8) }
     let e := envBy 0xFFFF g .ret
     isEvent .ret = false ∧ envOf (placeBy 0xFFFF world g .ret) = some e ∧ g.c16 = true ∧ needsWhole .ret = true ∧
       e.strand ≠ g.liveLanes ∧ lane g.liveLanes 31 = true ∧ g.pcOf 31 ≠ e.iss.pc) ∧
    gInt.c16 = false ∧
    (∀ c ∈ [(0 : Byte), 8], envOf (hinted gHoles (.iadd 3 4 5) c) = some (hintedEnv gHoles (.iadd 3 4 5) c) ∧
      (let e := hintedEnv gHoles (.iadd 3 4 5) c
       let o := operands e (.iadd 3 4 5)
       fieldsOk e o = true ∧ o.target = none ∧ o.reads = [] ++ srcA 4 :: [srcB 5] ∧ sourceEmpty e o (srcA 4) = true ∧
         trapsEmpty e o (srcA 4) = decide (c = 8))) ∧
    (gInt.killed = false ∧ gInt.tmask.getLsbD 0 = false ∧ handlerOf (onWorld gInt .nop) gInt = some 4 ∧
      handlerOf (placeBy allLanes unhandled gInt .nop) gInt = none ∧ handlerHeld (placeBy allLanes unhandled gInt .nop) gInt = false ∧
      handlerOf (placeBy allLanes mending gInt .nop) gInt = none ∧ handlerHeld (placeBy allLanes mending gInt .nop) gInt = true ∧ ({ gInt with tmask := 1 } : Gang).tmask.getLsbD 0 = true) ∧
    (∀ a ∈ [(5 : BitVec 7), 112], (operands (hintedEnv gHoles (.mov 3 a) 8) (.mov 3 a)).reads = [srcA a] ∧ (srcA a).readers = .active ∧
      (operands (hintedEnv gHoles (.mov 3 a) 8) (.mov 3 a)).guarded = true ∧ hintOf 8 (srcA a).slot = 2) := by
  refine ⟨⟨rfl, envOf_onWorld _ _ rfl rfl, ?_⟩, ⟨envOf_onWorld _ _ rfl rfl, ?_⟩, ⟨envOf_onWorld _ _ rfl rfl, ?_⟩,
    ?_, rfl, fun c hc => ⟨envOf_hinted _ _ _ rfl rfl, ?_⟩, ?_, ?_⟩
  · and_intros <;> decide +kernel
  · decide +kernel
  · and_intros <;> decide +kernel
  · decide +kernel
  · revert c; decide +kernel
  · and_intros <;> decide +kernel
  · decide +kernel

theorem met_encoding : Sys2Proof.wellFormed (.acpt 113 114 116 1) = true ∧ (encode (.acpt 113 114 116 1)).isSome = true ∧
    decode ((encode (.acpt 113 114 116 1)).getD 0) = .ok (.acpt 113 114 116 1) := ⟨rfl, rfl, rfl⟩

end Sys2Proof.Tests
end

section
/-! PROOFS. Register rows between a gang and its block's pool: GIVE and CLAIM (R75, R154). -/

namespace Sys2Proof.Machine.Rows

/-- A sparse map cut down to the keys that pass a test. -/
theorem find_filter_key {β : Type} (m : List (Nat × β)) (p : Nat → Bool) (k : Nat) :
    find (m.filter fun x => p x.1) k = if p k then find m k else none := by
  induction m with
  | nil => simp
  | cons x m ih =>
    obtain ⟨j, v⟩ := x
    by_cases hj : j = k
    · subst j
      by_cases hp : p k <;> simp [hp, find, ih]
    · by_cases hp : p j <;> simp [hp, find, hj, ih]

theorem getAt_filter_key {β : Type} (z : β) (m : SMap β) (p : Nat → Bool) (k : Nat) :
    getAt z (m.filter fun x => p x.1) k = if p k then getAt z m k else z := by
  unfold getAt
  rw [find_filter_key]
  split <;> rfl

/-- A change of a block that exists depends on that block's value alone. -/
theorem onBlock_eq_const {s : State} {n : Nat} {b : Block} (h : s.block? n = some b) (f : Block → Block) :
    s.onBlock n f = s.onBlock n fun _ => f b := by
  have hf : find s.blocks n = some b := h
  simp only [State.onBlock, change, hf]

/-- Where a machine r is s but for its tick, putting a gang back and changing a block in r is doing so in s, but for the tick. -/
theorem setGang_onBlock_frame {s r : State} (hr : ∃ k, r = { s with tick := k }) {n : Nat} {b : Block} (hb : s.block? n = some b)
    (id : Nat) (g : Gang) (f : Block → Block) :
    (r.setGang id g).onBlock n f =
      { (s.setGang id g).onBlock n (fun _ => f b) with tick := ((r.setGang id g).onBlock n f).tick } := by
  obtain ⟨k, rfl⟩ := hr
  exact onBlock_eq_const (s := State.setGang { s with tick := k } id g) hb f

/-- A gang whose PCs are those of the issuing gang, its strand advanced. -/
theorem advances_of_pc {e : Env} {g h : Gang} (hh : h.pc = e.g.pc) (hg : g.pc = (h.advance e.strand).pc) : Advances e g := by
  intro l hl
  have hpc := pcOf_advance h e.strand hl
  simp only [Gang.pcOf, hh, ← hg] at hpc
  exact hpc

/-! Rows that come into the physical range and rows that leave it (R74). -/

/-- The writes of freshRows into a map leave every key that is not among theirs. -/
theorem getAt_freshWords (keys : List Nat) (v : SMap Reg) (t : Nat) {x : Nat} (h : x ∉ keys) :
    getAt Reg.zero (keys.foldl (fun (v : SMap Reg × Nat) k =>
      (setAt Reg.zero v.1 k ⟨Config.freeWord v.2, .full⟩, v.2 + 1)) (v, t)).1 x = getAt Reg.zero v x := by
  induction keys generalizing v t with
  | nil => rfl
  | cons k keys ih =>
    rw [List.mem_cons, not_or] at h
    obtain ⟨hk, hkeys⟩ := h
    rw [List.foldl_cons, ih _ _ hkeys, getAt_setAt_other _ _ _ hk]

/-- Of its gang freshRows changes the window registers alone. -/
theorem freshRows_gang (g : Gang) (rows : List Nat) (s : State) : ∃ v, (freshRows g rows s).1 = { g with v := v } := by
  unfold freshRows
  split <;> exact ⟨_, rfl⟩

/-- Of the machine freshRows changes the tick alone. -/
theorem freshRows_state (g : Gang) (rows : List Nat) (s : State) : ∃ k, (freshRows g rows s).2 = { s with tick := k } := by
  unfold freshRows
  split <;> exact ⟨_, rfl⟩

/-- Registers below the lowest row that comes in stay as they are. -/
theorem getAt_freshRows_below (g : Gang) {lo hi x : Nat} (s : State) (h : x < 32 * lo) :
    getAt Reg.zero (freshRows g (rowRange lo hi) s).1.v x = getAt Reg.zero g.v x := by
  unfold freshRows
  split
  · rfl
  · refine getAt_freshWords _ _ _ fun hx => ?_
    simp only [rowRange, List.mem_flatMap, List.mem_map] at hx
    obtain ⟨r, ⟨i, -, rfl⟩, l, -, rfl⟩ := hx
    omega

theorem getAt_dropRows_below (g : Gang) {n x : Nat} (h : x < 32 * n) :
    getAt Reg.zero (dropRows g n).v x = getAt Reg.zero g.v x := by
  change getAt Reg.zero (g.v.filter fun y => decide (y.1 < 32 * n)) x = _
  rw [getAt_filter_key _ _ fun y => decide (y < 32 * n)]
  simp [h]

/-! GIVE. -/

/-- GIVE's gang before its strand advances: the top rows of the window are gone, and the rows below keep their registers. -/
def givenGang (n : Nat) (g : Gang) (s : State) : Gang :=
  { (freshRows (dropRows g (g.wsize - n)) (rowRange (g.wsize - n) (g.nrows - n)) s).1 with
    nrows := g.nrows - n, wsize := g.wsize - n }

theorem givenGang_frame (n : Nat) (g : Gang) (s : State) : givenGang n g s =
    { g with v := (givenGang n g s).v, bound := (givenGang n g s).bound, boundOut := (givenGang n g s).boundOut,
             nrows := g.nrows - n, wsize := g.wsize - n } := by
  obtain ⟨v, hv⟩ := freshRows_gang (dropRows g (g.wsize - n)) (rowRange (g.wsize - n) (g.nrows - n)) s
  simp only [givenGang, hv]
  rfl

theorem givenGang_pc (n : Nat) (g : Gang) (s : State) : (givenGang n g s).pc = g.pc := by
  rw [givenGang_frame]

theorem getAt_givenGang (n : Nat) (g : Gang) (s : State) {x : Nat} (h : x < 32 * (g.wsize - n)) :
    getAt Reg.zero (givenGang n g s).v x = getAt Reg.zero g.v x :=
  (getAt_freshRows_below _ s h).trans (getAt_dropRows_below g h)

/-- The block whose pool has n more rows on quarter q. -/
def toPool (n q : Nat) (b : Block) : Block := { b with pool := setAt 0 b.pool q (getAt 0 b.pool q + n) }

theorem getAt_toPool (n k q : Nat) (b : Block) :
    getAt 0 (toPool n k b).pool q = getAt 0 b.pool q + if q = k then n else 0 := by
  simp only [toPool, getAt_setAt]
  split <;> simp [*]

/-- GIVE's move is of its gang and its block's pool; of the rest the tick alone goes on. -/
theorem giveRows_frame {s : State} {e : Env} {b : Block} (n : Nat) (h : s.block? e.g.block = some b) :
    giveRows n e s = { (s.setGang e.id ((givenGang n e.g s).advance e.strand)).onBlock e.g.block
      (fun _ => toPool n e.g.quarter b) with tick := (giveRows n e s).tick } :=
  setGang_onBlock_frame (freshRows_state _ _ s) h _ _ (toPool n e.g.quarter)

theorem exec_give {s : State} {e : Env} {im : BitVec 16} (h : Issues (.give im) s e) :
    exec (.give im) s = .next (giveRows im.toNat e s) := by
  change issue _ _ s = _
  rw [issue_next h.1, settle_go h.2]

/-! CLAIM. -/

/-- CLAIM's gang before its strand goes on: n rows more, and the window's new registers hold nothing. -/
def claimedGang (n : Nat) (g : Gang) (s : State) : Gang :=
  { (freshRows { g with v := g.v.filter fun x => decide (x.1 < 32 * g.wsize) || decide (32 * (g.wsize + n) ≤ x.1) }
      (rowRange (max g.nrows (g.wsize + n)) (g.nrows + n)) s).1 with
    nrows := g.nrows + n, wsize := g.wsize + n }

theorem claimedGang_frame (n : Nat) (g : Gang) (s : State) : claimedGang n g s =
    { g with v := (claimedGang n g s).v, nrows := g.nrows + n, wsize := g.wsize + n } := by
  obtain ⟨v, hv⟩ := freshRows_gang
    { g with v := g.v.filter fun x => decide (x.1 < 32 * g.wsize) || decide (32 * (g.wsize + n) ≤ x.1) }
    (rowRange (max g.nrows (g.wsize + n)) (g.nrows + n)) s
  simp only [claimedGang, hv]

theorem claimedGang_pc (n : Nat) (g : Gang) (s : State) : (claimedGang n g s).pc = g.pc := by
  rw [claimedGang_frame]

/-- After CLAIM the old registers of the window are as they were, and the new ones are full, live and 0. -/
theorem getAt_claimedGang (n : Nat) (g : Gang) (s : State) {x : Nat} (h : x < 32 * (g.wsize + n)) :
    getAt Reg.zero (claimedGang n g s).v x = if x < 32 * g.wsize then getAt Reg.zero g.v x else Reg.zero := by
  refine (getAt_freshRows_below _ s (by omega)).trans ?_
  rw [getAt_filter_key _ _ fun y => decide (y < 32 * g.wsize) || decide (32 * (g.wsize + n) ≤ y)]
  simp [Nat.not_le.mpr h]

/-- The block whose pool has n fewer rows on quarter q. -/
def fromPool (n q : Nat) (b : Block) : Block := { b with pool := setAt 0 b.pool q (getAt 0 b.pool q - n) }

theorem getAt_fromPool (n k q : Nat) (b : Block) :
    getAt 0 (fromPool n k b).pool q = getAt 0 b.pool q - if q = k then n else 0 := by
  simp only [fromPool, getAt_setAt]
  split <;> simp [*]

/-- CLAIM's move is of its gang and its block's pool; of the rest the tick alone goes on. -/
theorem claimRows_frame {s : State} {id : Nat} {g : Gang} {b : Block} (n : Nat) (m : Mask) (hg : s.gang? id = some g)
    (hb : s.block? g.block = some b) :
    claimRows s id n m = { (s.setGang id (((claimedGang n g s).advance m).setPark m .ready)).onBlock g.block
      (fun _ => fromPool n g.quarter b) with tick := (claimRows s id n m).tick } := by
  simp only [claimRows, hg]
  exact setGang_onBlock_frame (freshRows_state _ _ s) hb _ _ (fromPool n g.quarter)

/-- A CLAIM that waits changes of its gang the park conditions of its strand alone. -/
theorem gang?_waitClaim {s : State} {e : Env} (n : Nat) (h : s.gang? e.id = some e.g) :
    (waitClaim e n s).gang? e.id = some (e.g.setPark e.strand .claim) := by
  change (s.onGang e.id _).gang? e.id = _
  rw [gang?_onGang_self, h]
  rfl

/-- CLAIM takes its rows where nothing waits before it and the pool has them, and waits otherwise. -/
theorem exec_claim {s : State} {e : Env} {b : Block} {im : BitVec 16} (h : Issues (.claim im) s e)
    (hb : s.block? e.g.block = some b) :
    exec (.claim im) s = .next (if waitingClaims s b e.g.quarter = [] ∧ poolHas s e.g im.toNat = true
      then claimRows s e.id im.toNat e.strand else waitClaim e im.toNat s) := by
  change issue _ _ s = _
  rw [issue_next h.1, settle_go h.2]
  simp only [hb, Bool.and_eq_true, List.isEmpty_iff]

/-- Settles O26: GIVE and CLAIM each move their gang's rows and their block's pool, as the frames of giveRows and claimRows say; a CLAIM
that cannot take its rows parks its strand. -/
theorem registerRows : Obligations.RegisterRows := by
  unfold Obligations.RegisterRows
  intro s e b im hb
  refine ⟨fun hi => ?give, fun hi hw hp => ?claim, fun hi hn => ?wait⟩
  case give =>
    refine ⟨_, _, toPool im.toNat e.g.quarter b, exec_give hi, giveRows_frame _ hb, ?_,
      advances_of_pc (givenGang_pc im.toNat e.g s) rfl, fun x hx => getAt_givenGang _ _ _ hx, rfl, fun q => getAt_toPool _ _ _ _⟩
    rw [givenGang_frame]
    rfl
  case claim =>
    have hg : s.gang? e.id = some e.g := (envOf_gang hi.1).1
    have hexec := exec_claim hi hb
    rw [if_pos ⟨hw, hp⟩] at hexec
    refine ⟨_, _, fromPool im.toNat e.g.quarter b, hexec, claimRows_frame _ _ hg hb, ?_,
      advances_of_pc (claimedGang_pc im.toNat e.g s) rfl, fun x hx => ?_, fun x hx hx' => ?_, rfl, fun q => getAt_fromPool _ _ _ _⟩
    · rw [claimedGang_frame]
      rfl
    · exact (getAt_claimedGang im.toNat e.g s (by omega)).trans (if_pos hx)
    · rw [claimedGang_frame] at hx'
      exact (getAt_claimedGang im.toNat e.g s hx').trans (if_neg (by omega))
  case wait =>
    have hexec := exec_claim hi hb
    rw [if_neg hn] at hexec
    exact ⟨_, _, hexec, gang?_waitClaim _ (envOf_gang hi.1).1, rfl, fun l hl => parkOf_setPark _ _ _ hl⟩

end Sys2Proof.Machine.Rows
end
